-- ==== Sys2Proof/Word.lean ====
section
/-! DEFINITION. The word types of the model: bit vectors for what the manual treats as bits. -/

namespace Sys2Proof

/-- One byte (R8). -/
abbrev Byte := BitVec 8
/-- A 16-bit word. -/
abbrev W16 := BitVec 16
/-- A 32-bit word: a Flue32 value, a detail word. -/
abbrev W32 := BitVec 32
/-- A 64-bit word: a register. -/
abbrev W64 := BitVec 64

end Sys2Proof
end

