-- ==== Sys2Proof/Syntax.lean ====
section
/-! DEFINITION. The commands of the block: one constructor per row of the opcode table, in the table's order, and the
shapes of their operands (command packets of Table 12-4, cells of Table 9-5, unit references of Table 2-20). -/

namespace Sys2Proof

/-- Where a command was read from: a submission ring, the parent's COMMAND cells, link-local cells (R408). -/
inductive Src where
  | ring (n : Nat)
  | parent
  | linkLocal (h port : Nat)
  deriving DecidableEq, Repr

/-- A command packet: the header of Table 12-4 (its opcode is the constructor's) and the parameter bytes from
offset 0x10 on, little-endian (R384). -/
structure Pkt where
  src : Src
  flags : Byte
  slots : Byte
  hostTag : W32
  hearths : W16
  workload : W16
  rsvd : W32
  par : BitVec 8064
  deriving DecidableEq, Repr

/-- A cell: 12 header bytes, 32 payload bytes and the CRC word (R283). -/
structure Cell where
  hdr : BitVec 96
  payload : BitVec 256
  crc : W32
  deriving DecidableEq, Repr

/-- A unit reference of Table 2-20. -/
structure UnitRef where
  kind : BitVec 3
  id : W16
  deriving DecidableEq, Repr

/-- A unit reference of R401, as retirement uses it. -/
inductive UnitSel where
  | hearth
  | die (d : Nat)
  | tile (v : Nat)
  | slice (i : Nat)
  | subch (i : Nat)
  | port (t : Nat)
  | lane (t l : Nat)
  deriving DecidableEq, Repr

/-- The units of Table 13-5 (duplicated control). -/
inductive CtrlUnit where
  | tile (v : Nat)
  | tileRoute (v : Nat)
  | threadRoute (u : Nat)
  | portRoute (t : Nat)
  | tileSync (v : Nat)
  | hearthSync
  | mgmtPair
  | cmdPair
  deriving DecidableEq, Repr

/-- The fatal events of R432, in its order. -/
inductive FatalEvent where
  | mgmtPair | syncEngine | stateWord | railFault | closNetwork | mantelPort | commandLink
  deriving DecidableEq, Repr

/-- The sites of a checker (R416). -/
inductive CheckSite where
  | fnOut (v : Nat)
  | fnIn (v n : Nat)
  | writePath (u : Nat)
  deriving DecidableEq, Repr

/-- The alarm sources of Table 14-10. -/
inductive AlarmSource where
  | voltage | clock | temperature | signature | debug
  deriving DecidableEq, Repr

/-- One reading of a sensor: record index, state and value (R480, R481). -/
structure Reading where
  idx : Nat
  state : Nat
  value : Int
  deriving DecidableEq, Repr

/-- The commands: one constructor per row of the opcode table. Operand names: `p` a command packet, `h` a hearth,
`v` a compute tile (virtual index), `n` a stream, ring or window index, `t` a flue port tile, `c` a context or a
cell, `u` a stoker thread 32g + t, `e` an endpoint. -/
inductive Instr where
  | nop (p : Pkt)
  | pad (p : Pkt)
  | identify (p : Pkt)
  | getHealth (p : Pkt)
  | readCensus (p : Pkt)
  | auditLedgers (p : Pkt)
  | readSignatures (p : Pkt)
  | clearSignatures (p : Pkt)
  | fwStage (p : Pkt)
  | fwActivate (p : Pkt)
  | loadImage (p : Pkt)
  | dropImage (p : Pkt)
  | readLoadReport (p : Pkt)
  | launchStep (p : Pkt)
  | preemptStep (p : Pkt)
  | preemptStepHalt (p : Pkt)
  | preemptStepSave (p : Pkt)
  | resumeStep (p : Pkt)
  | abortStep (p : Pkt)
  | saveState (p : Pkt)
  | restoreState (p : Pkt)
  | copy (p : Pkt)
  | fill (p : Pkt)
  | setClassPolicy (p : Pkt)
  | setShares (p : Pkt)
  | setSharesRemove (p : Pkt)
  | setRole (p : Pkt)
  | setRoutes (p : Pkt)
  | flueUp (p : Pkt)
  | flueDown (p : Pkt)
  | syncTimeSet (p : Pkt)
  | syncTimeSlew (p : Pkt)
  | retireUnit (p : Pkt)
  | restoreUnit (p : Pkt)
  | resetHearth (p : Pkt)
  | moduleWarmReset (p : Pkt)
  | setPowerCap (p : Pkt)
  | sampleStart (p : Pkt)
  | sampleStop (p : Pkt)
  | sampleRead (p : Pkt)
  | calibrationRead (p : Pkt)
  | calibrationWrite (p : Pkt)
  | calibrationReset (p : Pkt)
  | attest (p : Pkt)
  | setAlarmPolicy (p : Pkt)
  | debugUnlockChallenge (p : Pkt)
  | debugUnlockResponse (p : Pkt)
  | zeroize (p : Pkt)
  | sqDoorbell (n : Nat) (value : W64)
  | cqHeadWrite (n : Nat) (value : W64)
  | sqEnable (n : Nat) (value : W64)
  | sqDisable (n : Nat) (value : W64)
  | cqEnable (n : Nat) (value : W64)
  | cqDisable (n : Nat) (value : W64)
  | powerCapWrite (value : W64)
  | biasWrite (n : Nat) (value : W64)
  | healthRead
  | hdmDecoderCommit (d hpa size skip ways : Nat)
  | registerWrite (offset size : Nat) (value : W64)
  | cxlMemRead (dpa : Nat)
  | cxlMemWrite (dpa : Nat) (data : BitVec 512) (mask : W64)
  | hostBiasAccess (h addr : Nat) (line : BitVec 512)
  | hotReset
  | d3hotEntry
  | d0Return
  | cxlLinkTraining (cxl : Bool) (width speed : Nat)
  | pcieRefclkLoss
  | powerUp
  | inputOutOfRange
  | perstAssert
  | perstRelease
  | perstWaitExpiry
  | moduleFirmwareStart
  | bootRomRingEngine
  | hearthPowerOn (h : Nat)
  | hearthBootComplete (h : Nat) (ok : Bool)
  | identityEngineStart (writeOk : Bool)
  | tokenShare (demand : List Nat)
  | chargeReport (h : Nat)
  | powerOvershoot (watts : Nat)
  | thermalCheck (h : Nat) (eighths : Int)
  | thermalShutdown (h : Nat)
  | mantelOvertemp
  | clockStepChange (h step : Nat)
  | sensorUpdate (readings : List Reading)
  | cellInject (h t ch : Nat)
  | linkCreditReturn (h t : Nat) (word : BitVec 20)
  | eqRequest (h t : Nat) (word : BitVec 20)
  | codewordUncorrectable (h t cells : Nat)
  | resyncRequest (h t : Nat)
  | resyncReport (h t : Nat) (word : BitVec 20)
  | laneEvent (h t lane cause margin : Nat)
  | laneRetrainComplete (h t lane : Nat) (ok : Bool)
  | laneChange (h t : Nat) (lanesFar : BitVec 4)
  | linkTrainingComplete (h t : Nat) (lanes lanesFar : BitVec 4)
  | linkTrainingTimeout (h t : Nat)
  | flueDownDrainEnd (h t : Nat)
  | flueRefclkLoss
  | flueRefclkHoldoverExpiry
  | transitCell (h t : Nat) (c : Cell)
  | write (h t : Nat) (c : Cell)
  | readReq (h t : Nat) (c : Cell)
  | readReply (h t : Nat) (c : Cell)
  | ack (h t : Nat) (c : Cell)
  | nack (h t : Nat) (c : Cell)
  | open (h t : Nat) (c : Cell)
  | openAck (h t : Nat) (c : Cell)
  | reset (h t : Nat) (c : Cell)
  | command (h t : Nat) (c : Cell)
  | completion (h t : Nat) (c : Cell)
  | syncArrive (h t : Nat) (c : Cell)
  | syncRelease (h t : Nat) (c : Cell)
  | combine (h t : Nat) (c : Cell)
  | timeQuery (h t : Nat) (c : Cell)
  | timeAnswer (h t : Nat) (c : Cell)
  | signature (h t : Nat) (c : Cell)
  | telemetry (h t : Nat) (c : Cell)
  | token (h t : Nat) (c : Cell)
  | credit (h t : Nat) (c : Cell)
  | writeDone (h t : Nat) (c : Cell)
  | accessFault (h t : Nat) (c : Cell)
  | dropped (h t : Nat) (c : Cell)
  | ackDelayExpiry (h ctx : Nat)
  | resendTimeout (h ctx : Nat)
  | writeDoneTimer (h i : Nat)
  | damperLevelFall (h t : Nat)
  | scheduleSlotOpen (h e slot : Nat)
  | timeExchangeTick
  | timeUnlockExpiry
  | signatureForwardTick
  | endpointTokenSend (h e : Nat)
  | putTag (h e : Nat)
  | getTag (h e : Nat)
  | contributeTag (h e : Nat)
  | endpointCombineSum (h e tag : Nat)
  | tokenArrival (h : Nat) (snd : UnitRef) (out : Nat)
  | tokenAdmit (h v n : Nat)
  | streamCredit (h : Nat) (snd : UnitRef) (out : Nat)
  | combiningContribution (h : Nat) (snd : UnitRef) (out : Nat)
  | combiningSumComplete (h v n tag : Nat)
  | mma (h v slot tag : Nat)
  | emit (h v slot tag : Nat)
  | wload (h v slot tag : Nat)
  | vfma (h v slot tag : Nat)
  | vbin (h v slot tag : Nat)
  | sfu (h v slot tag : Nat)
  | reduce (h v slot tag : Nat)
  | steer (h v slot tag : Nat)
  | move (h v slot tag : Nat)
  | syncOpArrive (h v slot tag : Nat)
  | syncOpWait (h v slot tag : Nat)
  | syncOpIncrement (h v slot tag : Nat)
  | syncOpDecrement (h v slot tag : Nat)
  | firingEnd (h v cycles : Nat)
  | bankLoadComplete (h v bank : Nat)
  | hsyncBatch (h obj n : Nat)
  | syncGrantArrival (h : Nat) (unit : UnitRef) (slot : Nat)
  | tagTimeout (h v n tag : Nat)
  | syncWaitTimeout (h : Nat) (unit : UnitRef) (slot : Nat)
  | progressCountTrip (h : Nat)
  | spillRoundComplete (h : Nat)
  | tileReset (h v : Nat)
  | contextChange (h v c : Nat)
  | contextChangeComplete (h v : Nat)
  | sampleTick (h : Nat)
  | stokerLoadTag (h u : Nat)
  | stokerStoreTag (h u : Nat)
  | stokerRelayBatch (h u : Nat)
  | stokerCopyTag (h u : Nat)
  | stokerTriggerTag (h u : Nat)
  | stokerWait (h u : Nat)
  | stokerPost (h u : Nat)
  | memoryRequest (h port : Nat)
  | memoryReadReply (h : Nat)
  | writeAck (h : Nat)
  | perBankRefresh (h sub bank : Nat)
  | dqsTracking (h sub : Nat)
  | interfaceRetrain (h sub : Nat) (marginOk : Bool)
  | patrolScrub (h word : Nat)
  | deferredRetirement (h : Nat)
  | reshapeUnitMove (h : Nat)
  | reshapeComplete (h : Nat)
  | slotFill (h cls : Nat)
  | stepDispatch (h : Nat)
  | stepStartComplete (h : Nat)
  | classPreempt (h : Nat)
  | haltComplete (h : Nat)
  | saveComplete (h : Nat)
  | restoreComplete (h : Nat)
  | stepComplete (h : Nat)
  | controlMismatch (h : Nat) (u : CtrlUnit) (inRetry : Bool)
  | checkFlag (h : Nat) (site : CheckSite)
  | replayComplete (h : Nat) (value : W32)
  | refereeComplete (h : Nat) (value : W32)
  | bucketLeak (h unit : Nat)
  | hearthFatal (h : Nat) (ev : FatalEvent) (permanent : Bool)
  | scrubCfgVote (h : Nat) (votesAgree : Bool)
  | ceSummary (h : Nat)
  | hostPortFail
  | failover
  | commandProcessorsFail
  | alarm (source : AlarmSource)
  | jtagInstruction (die ir : Nat)
  | debugAccessExpiry
  | challengeExpiry
  | fruRead (offset : Nat)
  | mctpControl (msg : List Byte)
  | setEndpointId (eid : Byte)
  | pldmBase (msg : List Byte)
  | getPdrRepositoryInfo
  | getPdr (handle : Nat)
  | getSensorReading (id : Nat)
  | setNumericSensorEnable (id state : Nat)
  | loadComplete (h ns : Nat)
  | fwSwitchComplete (ok : Bool)
  | restoreTestComplete (h : Nat) (pass : Bool)
  | flueRefclkReturn
  | powerControllerFailure
  | identityEngineFailure
  | verificationEngineFailure
  | sidebandEndpointFailure
  | chimneyFault (h v : Nat)
  deriving DecidableEq, Repr

end Sys2Proof
end

