-- ==== Sys2Proof/WellFormed.lean ====
section
/-! DEFINITION. Well-formed commands: every operand names something the module has. A packet's fields need no check here,
for the device checks them itself (Table 12-5), but for the one that tells rows of one opcode apart. -/

namespace Sys2Proof

/-- A hearth (R13). -/
def hearthOk (h : Nat) : Bool := h < 9
/-- A compute tile position, 48 die + 8 row + vcol. -/
def tileOk (v : Nat) : Bool := v < 480
/-- A flue port tile. -/
def portOk (t : Nat) : Bool := t < 14
/-- A stoker thread, 32 group + thread. -/
def threadOk (u : Nat) : Bool := u < 1024
/-- A flue endpoint. -/
def epOk (e : Nat) : Bool := e < 512
/-- A ring pair. -/
def ringOk (n : Nat) : Bool := n < 8
/-- A tag. -/
def tagOk (t : Nat) : Bool := t < 65536
/-- An operation slot. -/
def slotOk (n : Nat) : Bool := n < 32
/-- A clock step (R473). -/
def stepOk (n : Nat) : Bool := 16 ≤ n && n ≤ 64

/-- A unit of Table 2-20. -/
def UnitRef.wf (u : UnitRef) : Bool :=
  let id := u.id.toNat
  match u.kind.toNat with
  | 1 => id / 64 < 10 && id % 64 < 48
  | 2 => id < 1024
  | 3 => id < 24
  | 4 => id / 512 < 14
  | _ => false

/-- Where a command comes from. -/
def Src.wf : Src → Bool
  | .ring n => ringOk n
  | .parent => true
  | .linkLocal h t => hearthOk h && portOk t

/-- A unit of Table 13-5. -/
def CtrlUnit.wf : CtrlUnit → Bool
  | .tile v => tileOk v
  | .tileRoute v => tileOk v
  | .threadRoute u => threadOk u
  | .portRoute t => portOk t
  | .tileSync v => tileOk v
  | .hearthSync => true
  | .mgmtPair => true
  | .cmdPair => true

/-- A checker site (R416). -/
def CheckSite.wf : CheckSite → Bool
  | .fnOut v => tileOk v
  | .fnIn v n => tileOk v && n < 16
  | .writePath u => threadOk u

/-- The parameter at 0x10, which tells the rows of one opcode apart (Tables 12-13 to 12-17). -/
def Pkt.selector (p : Pkt) : Nat := p.par.toNat % 256

/-- A command whose operands name something the module has. -/
def Instr.wf : Instr → Bool
  | .nop p => p.src.wf
  | .pad p => p.src.wf
  | .identify p => p.src.wf
  | .getHealth p => p.src.wf
  | .readCensus p => p.src.wf
  | .auditLedgers p => p.src.wf
  | .readSignatures p => p.src.wf
  | .clearSignatures p => p.src.wf
  | .fwStage p => p.src.wf
  | .fwActivate p => p.src.wf
  | .loadImage p => p.src.wf
  | .dropImage p => p.src.wf
  | .readLoadReport p => p.src.wf
  | .launchStep p => p.src.wf
  | .preemptStep p => p.src.wf && !(p.selector == 1 || p.selector == 2)
  | .preemptStepHalt p => p.src.wf && p.selector == 1
  | .preemptStepSave p => p.src.wf && p.selector == 2
  | .resumeStep p => p.src.wf
  | .abortStep p => p.src.wf
  | .saveState p => p.src.wf
  | .restoreState p => p.src.wf
  | .copy p => p.src.wf
  | .fill p => p.src.wf
  | .setClassPolicy p => p.src.wf
  | .setShares p => p.src.wf && p.selector != 1
  | .setSharesRemove p => p.src.wf && p.selector == 1
  | .setRole p => p.src.wf
  | .setRoutes p => p.src.wf
  | .flueUp p => p.src.wf
  | .flueDown p => p.src.wf
  | .syncTimeSet p => p.src.wf && p.selector != 1
  | .syncTimeSlew p => p.src.wf && p.selector == 1
  | .retireUnit p => p.src.wf
  | .restoreUnit p => p.src.wf
  | .resetHearth p => p.src.wf && p.selector != 1
  | .moduleWarmReset p => p.src.wf && p.selector == 1
  | .setPowerCap p => p.src.wf
  | .sampleStart p => p.src.wf && !(p.selector == 1 || p.selector == 2)
  | .sampleStop p => p.src.wf && p.selector == 1
  | .sampleRead p => p.src.wf && p.selector == 2
  | .calibrationRead p => p.src.wf && !(p.selector == 1 || p.selector == 2)
  | .calibrationWrite p => p.src.wf && p.selector == 1
  | .calibrationReset p => p.src.wf && p.selector == 2
  | .attest p => p.src.wf
  | .setAlarmPolicy p => p.src.wf
  | .debugUnlockChallenge p => p.src.wf && p.selector != 1
  | .debugUnlockResponse p => p.src.wf && p.selector == 1
  | .zeroize p => p.src.wf
  | .sqDoorbell n _ => ringOk n
  | .cqHeadWrite n _ => ringOk n
  | .sqEnable n _ => ringOk n
  | .sqDisable n _ => ringOk n
  | .cqEnable n _ => ringOk n
  | .cqDisable n _ => ringOk n
  | .powerCapWrite _ => true
  | .biasWrite n _ => n < 36
  | .healthRead => true
  | .hdmDecoderCommit d _ _ _ _ => d < 2
  | .registerWrite o n _ => o < 65536 && (n == 4 || n == 8)
  | .cxlMemRead a => a % 64 == 0
  | .cxlMemWrite a _ _ => a % 64 == 0
  | .hostBiasAccess h a _ => hearthOk h && a % 64 == 0
  | .hotReset => true
  | .d3hotEntry => true
  | .d0Return => true
  | .cxlLinkTraining _ w s => (w == 4 || w == 8 || w == 16) && (1 ≤ s && s ≤ 3)
  | .pcieRefclkLoss => true
  | .powerUp => true
  | .inputOutOfRange => true
  | .perstAssert => true
  | .perstRelease => true
  | .perstWaitExpiry => true
  | .moduleFirmwareStart => true
  | .bootRomRingEngine => true
  | .hearthPowerOn h => hearthOk h
  | .hearthBootComplete h _ => hearthOk h
  | .identityEngineStart _ => true
  | .tokenShare d => d.length == 9
  | .chargeReport h => hearthOk h
  | .powerOvershoot _ => true
  | .thermalCheck h _ => hearthOk h
  | .thermalShutdown h => hearthOk h
  | .mantelOvertemp => true
  | .clockStepChange h st => hearthOk h && stepOk st
  | .sensorUpdate r => r.all (fun x => x.idx < 880)
  | .cellInject h t ch => hearthOk h && portOk t && ch < 4
  | .linkCreditReturn h t _ => hearthOk h && portOk t
  | .eqRequest h t _ => hearthOk h && portOk t
  | .codewordUncorrectable h t _ => hearthOk h && portOk t
  | .resyncRequest h t => hearthOk h && portOk t
  | .resyncReport h t _ => hearthOk h && portOk t
  | .laneEvent h t l _ _ => hearthOk h && t < 6 && l < 4
  | .laneRetrainComplete h t l _ => hearthOk h && t < 6 && l < 4
  | .laneChange h t _ => hearthOk h && t < 6
  | .linkTrainingComplete h t _ _ => hearthOk h && portOk t
  | .linkTrainingTimeout h t => hearthOk h && portOk t
  | .flueDownDrainEnd h t => hearthOk h && portOk t
  | .flueRefclkLoss => true
  | .flueRefclkHoldoverExpiry => true
  | .transitCell h t _ => hearthOk h && portOk t
  | .write h t _ => hearthOk h && portOk t
  | .readReq h t _ => hearthOk h && portOk t
  | .readReply h t _ => hearthOk h && portOk t
  | .ack h t _ => hearthOk h && portOk t
  | .nack h t _ => hearthOk h && portOk t
  | .open h t _ => hearthOk h && portOk t
  | .openAck h t _ => hearthOk h && portOk t
  | .reset h t _ => hearthOk h && portOk t
  | .command h t _ => hearthOk h && portOk t
  | .completion h t _ => hearthOk h && portOk t
  | .syncArrive h t _ => hearthOk h && portOk t
  | .syncRelease h t _ => hearthOk h && portOk t
  | .combine h t _ => hearthOk h && portOk t
  | .timeQuery h t _ => hearthOk h && portOk t
  | .timeAnswer h t _ => hearthOk h && portOk t
  | .signature h t _ => hearthOk h && portOk t
  | .telemetry h t _ => hearthOk h && portOk t
  | .token h t _ => hearthOk h && portOk t
  | .credit h t _ => hearthOk h && portOk t
  | .writeDone h t _ => hearthOk h && portOk t
  | .accessFault h t _ => hearthOk h && portOk t
  | .dropped h t _ => hearthOk h && portOk t
  | .ackDelayExpiry h c => hearthOk h && c < 262200
  | .resendTimeout h c => hearthOk h && c < 262200
  | .writeDoneTimer h _ => hearthOk h
  | .damperLevelFall h t => hearthOk h && portOk t
  | .scheduleSlotOpen h e k => hearthOk h && epOk e && k < 12
  | .timeExchangeTick => true
  | .timeUnlockExpiry => true
  | .signatureForwardTick => true
  | .endpointTokenSend h e => hearthOk h && epOk e
  | .putTag h e => hearthOk h && epOk e
  | .getTag h e => hearthOk h && epOk e
  | .contributeTag h e => hearthOk h && epOk e
  | .endpointCombineSum h e t => hearthOk h && epOk e && tagOk t
  | .tokenArrival h u o => hearthOk h && u.wf && o < 16
  | .tokenAdmit h v n => hearthOk h && tileOk v && n < 16
  | .streamCredit h u o => hearthOk h && u.wf && o < 16
  | .combiningContribution h u o => hearthOk h && u.wf && o < 16
  | .combiningSumComplete h v n t => hearthOk h && tileOk v && n < 16 && tagOk t
  | .mma h v s t => hearthOk h && tileOk v && slotOk s && tagOk t
  | .emit h v s t => hearthOk h && tileOk v && slotOk s && tagOk t
  | .wload h v s t => hearthOk h && tileOk v && slotOk s && tagOk t
  | .vfma h v s t => hearthOk h && tileOk v && slotOk s && tagOk t
  | .vbin h v s t => hearthOk h && tileOk v && slotOk s && tagOk t
  | .sfu h v s t => hearthOk h && tileOk v && slotOk s && tagOk t
  | .reduce h v s t => hearthOk h && tileOk v && slotOk s && tagOk t
  | .steer h v s t => hearthOk h && tileOk v && slotOk s && tagOk t
  | .move h v s t => hearthOk h && tileOk v && slotOk s && tagOk t
  | .syncOpArrive h v s t => hearthOk h && tileOk v && slotOk s && tagOk t
  | .syncOpWait h v s t => hearthOk h && tileOk v && slotOk s && tagOk t
  | .syncOpIncrement h v s t => hearthOk h && tileOk v && slotOk s && tagOk t
  | .syncOpDecrement h v s t => hearthOk h && tileOk v && slotOk s && tagOk t
  | .firingEnd h v c => hearthOk h && tileOk v && c ≤ 1024
  | .bankLoadComplete h v b => hearthOk h && tileOk v && b < 2
  | .hsyncBatch h o _ => hearthOk h && o < 256
  | .syncGrantArrival h u _ => hearthOk h && u.wf
  | .tagTimeout h v n t => hearthOk h && tileOk v && n < 16 && tagOk t
  | .syncWaitTimeout h u _ => hearthOk h && u.wf
  | .progressCountTrip h => hearthOk h
  | .spillRoundComplete h => hearthOk h
  | .tileReset h v => hearthOk h && tileOk v
  | .contextChange h v c => hearthOk h && tileOk v && c < 4
  | .contextChangeComplete h v => hearthOk h && tileOk v
  | .sampleTick h => hearthOk h
  | .stokerLoadTag h u => hearthOk h && threadOk u
  | .stokerStoreTag h u => hearthOk h && threadOk u
  | .stokerRelayBatch h u => hearthOk h && threadOk u
  | .stokerCopyTag h u => hearthOk h && threadOk u
  | .stokerTriggerTag h u => hearthOk h && threadOk u
  | .stokerWait h u => hearthOk h && threadOk u
  | .stokerPost h u => hearthOk h && threadOk u
  | .memoryRequest h p => hearthOk h && p < 24
  | .memoryReadReply h => hearthOk h
  | .writeAck h => hearthOk h
  | .perBankRefresh h s b => hearthOk h && s < 48 && b < 16
  | .dqsTracking h s => hearthOk h && s < 48
  | .interfaceRetrain h s _ => hearthOk h && s < 48
  | .patrolScrub h _ => hearthOk h
  | .deferredRetirement h => hearthOk h
  | .reshapeUnitMove h => hearthOk h
  | .reshapeComplete h => hearthOk h
  | .slotFill h c => hearthOk h && c < 2
  | .stepDispatch h => hearthOk h
  | .stepStartComplete h => hearthOk h
  | .classPreempt h => hearthOk h
  | .haltComplete h => hearthOk h
  | .saveComplete h => hearthOk h
  | .restoreComplete h => hearthOk h
  | .stepComplete h => hearthOk h
  | .controlMismatch h u _ => hearthOk h && u.wf
  | .checkFlag h s => hearthOk h && s.wf
  | .replayComplete h _ => hearthOk h
  | .refereeComplete h _ => hearthOk h
  | .bucketLeak h _ => hearthOk h
  | .hearthFatal h _ _ => hearthOk h
  | .scrubCfgVote h _ => hearthOk h
  | .ceSummary h => hearthOk h
  | .hostPortFail => true
  | .failover => true
  | .commandProcessorsFail => true
  | .alarm _ => true
  | .jtagInstruction d _ => d < 100
  | .debugAccessExpiry => true
  | .challengeExpiry => true
  | .fruRead o => o < 4096
  | .mctpControl _ => true
  | .setEndpointId _ => true
  | .pldmBase _ => true
  | .getPdrRepositoryInfo => true
  | .getPdr _ => true
  | .getSensorReading _ => true
  | .setNumericSensorEnable _ _ => true
  | .loadComplete h _ => hearthOk h
  | .fwSwitchComplete _ => true
  | .restoreTestComplete h _ => hearthOk h
  | .flueRefclkReturn => true
  | .powerControllerFailure => true
  | .identityEngineFailure => true
  | .verificationEngineFailure => true
  | .sidebandEndpointFailure => true
  | .chimneyFault h v => hearthOk h && tileOk v

end Sys2Proof
end

