-- ==== Sys2Proof/Decode.lean ====
section
/-! DEFINITION. Reading commands from bits. The opcode table gives its rows no bits, so no word spells a row. The
command packets of Table 12-4 have an encoding of their own, in slots and COMMAND cells: decodePacket reads it. -/

namespace Sys2Proof

/-- The command that a word spells by the table's bits: the table gives no row any bits. -/
def decodeTableWord (_nbits _w : Nat) : Option Instr := none

/-- The commands of one opcode (Tables 12-10 to 12-17). Where the opcode table splits an opcode into several rows, a
parameter of the packet chooses among them: ROUND of PREEMPT_STEP, ACTION, MODE, LEVEL or PHASE at 0x10. -/
def packetOf (code : Nat) (p : Pkt) : Option Instr :=
  let sel := p.selector
  match code with
  | 0x0001 => some (.nop p)
  | 0x0002 => some (.pad p)
  | 0x0010 => some (.identify p)
  | 0x0011 => some (.getHealth p)
  | 0x0012 => some (.readCensus p)
  | 0x0013 => some (.auditLedgers p)
  | 0x0020 => some (.fwStage p)
  | 0x0021 => some (.fwActivate p)
  | 0x0030 => some (.loadImage p)
  | 0x0031 => some (.dropImage p)
  | 0x0032 => some (.readLoadReport p)
  | 0x0040 => some (.launchStep p)
  | 0x0041 => some (if sel = 1 then .preemptStepHalt p else if sel = 2 then .preemptStepSave p else .preemptStep p)
  | 0x0042 => some (.resumeStep p)
  | 0x0043 => some (.abortStep p)
  | 0x0044 => some (.saveState p)
  | 0x0045 => some (.restoreState p)
  | 0x0050 => some (.copy p)
  | 0x0051 => some (.fill p)
  | 0x0060 => some (.setClassPolicy p)
  | 0x0061 => some (if sel = 1 then .setSharesRemove p else .setShares p)
  | 0x0070 => some (.setRole p)
  | 0x0071 => some (.setRoutes p)
  | 0x0072 => some (.flueUp p)
  | 0x0073 => some (.flueDown p)
  | 0x0074 => some (if sel = 1 then .syncTimeSlew p else .syncTimeSet p)
  | 0x0080 => some (.readSignatures p)
  | 0x0081 => some (.clearSignatures p)
  | 0x0082 => some (.retireUnit p)
  | 0x0083 => some (.restoreUnit p)
  | 0x0084 => some (if sel = 1 then .moduleWarmReset p else .resetHearth p)
  | 0x0090 => some (.setPowerCap p)
  | 0x0091 => some (if sel = 1 then .sampleStop p else if sel = 2 then .sampleRead p else .sampleStart p)
  | 0x0092 => some (if sel = 1 then .calibrationWrite p else if sel = 2 then .calibrationReset p else .calibrationRead p)
  | 0x00A0 => some (.attest p)
  | 0x00A1 => some (.setAlarmPolicy p)
  | 0x00A2 => some (if sel = 1 then .debugUnlockResponse p else .debugUnlockChallenge p)
  | 0x00A3 => some (.zeroize p)
  | _ => none

/-- A little-endian number of bytes. -/
def leNum : List Byte → Nat
  | [] => 0
  | b :: bs => b.toNat + 256 * leNum bs

/-- The command that the bytes of its slots spell (Table 12-4), read from the given source. -/
def decodePacket (src : Src) (bytes : List Byte) : Option Instr :=
  let x := leNum bytes
  let f (lo n : Nat) : Nat := x / 2 ^ (8 * lo) % 2 ^ (8 * n)
  packetOf (f 0 2)
    { src := src, flags := BitVec.ofNat 8 (f 2 1), slots := BitVec.ofNat 8 (f 3 1), hostTag := BitVec.ofNat 32 (f 4 4)
      hearths := BitVec.ofNat 16 (f 8 2), workload := BitVec.ofNat 16 (f 10 2), rsvd := BitVec.ofNat 32 (f 12 4)
      par := BitVec.ofNat 8064 (f 16 1008) }

end Sys2Proof
end

