-- ==== Sys2Proof/Config.lean ====
section
/-! DEFINITION. What the manual leaves open: free values (no body, so nothing can be proved of them) and the
functions of published standards that the manual names without giving them. -/

namespace Sys2Proof.Config

/-- Contents the manual calls undefined (R239, R399, R430, R431): byte at an address, by generation. Log 5. -/
opaque undefByte : Nat → Nat → Byte

/-- A special-function result whose rounding the model's bounds do not settle (R53). Log 15. -/
opaque sfuTie : Nat → W32 → W32

/-- SHA-256 of a byte string (FIPS 180-4), uninterpreted. Log 9. -/
opaque sha256 : List Byte → BitVec 256

/-- HSS verification of RFC 8554: public key, message, signature. Uninterpreted. Log 9. -/
opaque hssVerify : List Byte → List Byte → List Byte → Bool

/-- The identity engine's HSS signature with index q over a message (R450, R451). Log 9. -/
opaque hssSign : Nat → List Byte → BitVec 61120

/-- The identity public key of the device (R450). Log 9. -/
opaque identityPub : BitVec 480

/-- PUF_HELPER before it is blown (Table 14-2). -/
opaque pufHelper : BitVec 7168

/-- The challenge of DEBUG_UNLOCK PHASE 0 (R457), by the counter of free values. Log 9. -/
opaque challenge : Nat → BitVec 128

/-- Bytes of the FRU EEPROM that the manual does not fix (R496). Log 6. -/
opaque fruByte : Nat → Byte

/-- Data of an answer whose encoding belongs to a published standard (MCTP, PLDM; R483). Log 17. -/
opaque sidebandByte : List Byte → Nat → Byte

/-- Network cycles of a stall figure (R354), by hearth step, report and figure: how long units contend is timing. Log 3. -/
opaque stallCycles : Nat → Nat → Nat → Nat

/-- ARB_CYCLES of a CHECK record (Table 13-18), by the record's sequence number: how long an arbitration takes is timing.
Log 3. -/
opaque arbCycles : Nat → Nat

/-- Capacity of a memory port tile's request queue (Table 3-8): the manual gives no number. Log 33. -/
opaque reqCapacity : Nat

/-- ERR_CAUSE of a ring refused for the alignment of BASE: Table 11-14 lists no code for it. Log 21. -/
opaque misalignCause : Nat

/-- Length of an answer whose encoding belongs to a published standard (R483). Log 17. -/
opaque sidebandLen : List Byte → Nat

/-- CLASS of the record of a mantel unit's failure, by unit: Table 1-12 asks for a record, Table 13-17 names no class
for it. Log 22. -/
opaque mantelFailClass : Nat → Nat

/-- Elements beyond ROWS × COLS in the last token of an EMIT, by hearth, tile, slot and tag, and by place: the manual gives them no
value, and two runs give the same (R140). Log 24. -/
opaque emitPad : Nat → Nat → W32

/-- Where a COMBINE endpoint sends a sender's first credits, by hearth, endpoint and sender index, as the identity word of
R287: its record names no sender (R310). Log 36. -/
opaque combinePeer : Nat → Nat → Nat → Nat

/-- The limits calibrated for a transmitter tap, by hearth, port tile, lane and tap (R280): the manual gives none. Log 45. -/
opaque tapLimit : Nat → Nat → Nat → Nat → Int × Int

/-- The 30 check symbols of a codeword, by its message bits and index: the manual names the code RS(544,514) and not its
generator (R273). Log 134. -/
opaque rsCheck : Nat → Nat → BitVec 10

/-- The start value of the CRC-12 of a frame, and whether each byte enters with bit 0 first: the manual gives the polynomial
alone (R274). Log 134. -/
opaque crc12Init : BitVec 12
opaque crc12Low : Bool

/-- What a CXL register reads as, by offset and the value last written: only the CXL 2.0 specification lays it out (R361, R362).
Log 142. -/
opaque cxlValue : Nat → W32 → W32

/-- EQ_LANE, EQ_TAP and EQ_STEP of a link word that a receiver sends, by hearth, port tile and the number of words sent: what the
adaptation asks for depends on the signal (R280). Log 135. -/
opaque eqAsk : Nat → Nat → Nat → BitVec 6

end Sys2Proof.Config
end

