-- ==== Sys2Proof/Machine/State.lean ====
section
/-! DEFINITION. The state of the module as plain data: the mantel, its nine hearths, host memory and the queue of
waiting commands. Sparse tables are lists of (key, value) with keys rising; an unlisted key holds the reset value. -/

namespace Sys2Proof.Machine

/-- A sparse table: keys rise, no entry equals the table's default. -/
abbrev SMap (α : Type) := List (Nat × α)

/-- Bytes of a memory by address: addresses rise, no entry is 0, an unlisted byte reads 0 (log 4). -/
abbrev Mem := List Host.Cell

/-- Module states (JD_HEALTH.MODULE_STATE, Table 11-8). -/
inductive ModState where
  | boot | service | operational | alarm
  deriving DecidableEq, Repr

/-- Hearth states (JD_HEARTH_STATE.STATE, Table 11-10). -/
inductive HState where
  | absent | booting | ready | loaded | running | frozen | faulted | retired
  deriving DecidableEq, Repr

/-- Completion statuses (Table 12-6). -/
inductive Status where
  | done | doneWithReport | rejectedOpcode | rejectedState | rejectedParameter | rejectedLength | rejectedTarget
  | rejectedSecurity | abortedFault | abortedByHost | preempted | timeoutSync | deadlock | alarmLocked
  deriving DecidableEq, Repr

/-- Hearth step states (Table 10-1). -/
inductive StepState where
  | pending | held | starting | running | halting | saving | frozen | restoring | ending | ended
  deriving DecidableEq, Repr

/-- Tile states (Table 2-14). -/
inductive TileState where
  | idle | configured | running | frozen | resetting | retired
  deriving DecidableEq, Repr

/-- Weight-bank states (Table 2-5). -/
inductive BankState where
  | empty | loading | ready | inUse
  deriving DecidableEq, Repr

/-- Flue link states (JD_FLUE_LINK.STATE, Table 9-4). -/
inductive LinkState where
  | down | training | up | resync | retired
  deriving DecidableEq, Repr

/-- Peer context states (Table 9-11). -/
inductive PeerState where
  | closed | opening | open | lost
  deriving DecidableEq, Repr

/-- A token: the control word of Table 3-1 and 64 payload bytes. -/
structure Tok where
  tag : W16 := 0
  pred : Bool := false
  stream : BitVec 5 := 0
  epoch : BitVec 4 := 0
  last : Bool := false
  payload : BitVec 3 := 0
  format : BitVec 3 := 0
  rotated : Bool := false
  clipped : Bool := false
  nar : Bool := false
  seq : Byte := 0
  blockNar : W16 := 0
  data : BitVec 512 := 0
  deriving DecidableEq, Repr

/-- A token on its way from a sender output to a reader input (R203). -/
structure Flight where
  snd : UnitRef
  out : Nat
  rcv : UnitRef
  inp : Nat
  tok : Tok
  deriving DecidableEq, Repr

/-- Credits on their way back to a sender output (R208). -/
structure CreditFlight where
  snd : UnitRef
  out : Nat
  epoch : BitVec 4
  count : Nat
  deriving DecidableEq, Repr

/-- The sender's end of a stream: credits held and the reader's epoch (R208, R210). -/
structure OutLive where
  credits : Nat := 0
  epoch : BitVec 4 := 0
  deriving DecidableEq, Repr

/-- The bound that a checker found exceeded, and the value concerned (R418, Table 13-18). `tag` is the tag of the firing that
made the value, `idx` the sender index at a combining input. -/
structure Flag where
  site : CheckSite
  producer : UnitRef
  slot : Nat := 0xFF
  stream : Nat := 0
  tag : W16 := 0
  bound : Nat := 0
  elem : Nat := 0
  pos : Nat := 0
  orig : W32 := 0
  limit : W32 := 0
  live : Bool := false
  srcTile : Option Nat := none
  replay : Option W32 := none
  idx : Nat := 0
  deriving DecidableEq, Repr

/-- The reader's end of a stream at a compute tile: JD_IN_STATE (Table 2-23) and what R84 to R101, R209 and
R215 to R220 keep for it. -/
structure InLive where
  closed : Bool := true
  epoch : BitVec 4 := 0
  queue : List Tok := []
  opened : List W16 := []
  dropped : Nat := 0
  owed : SMap Nat := []
  promised : Nat := 0
  contrib : List (W16 × Nat × Tok) := []
  sums : List Tok := []
  flags : List Flag := []
  lead : Nat := 0
  deriving DecidableEq, Repr

/-- An entry of the tag-match store (Table 2-7), or of the input staging: its input, its token and its arrival time. -/
structure MatchEntry where
  inp : Nat
  tok : Tok
  since : Nat := 0
  deriving DecidableEq, Repr

/-- A weight bank (R46 to R49, Table 2-18). -/
structure Bank where
  st : BankState := .empty
  fmt : BitVec 3 := 0
  lines : Nat := 0
  want : Nat := 0
  cols : Nat := 0
  data : Mem := []
  release : Bool := false
  src : Nat := 0
  tag : W16 := 0
  deriving DecidableEq, Repr

/-- The live state of a tile sync object (Table 2-25) with the latches of R224: at key 0 the
generation of the tile's last arrive, at key s + 1 that of slot s's wait. -/
structure SyncLive where
  gen : W16 := 0
  value : Nat := 0
  waiters : Nat := 0
  latch : SMap (Option W16) := []
  init : Nat := 0
  deriving DecidableEq, Repr

/-- A firing in progress: what it delivers at its end (R77). `counts` holds (stream, NaNs, flushes) of R126, `clk` the
arithmetic clock step at which the tile runs it (R29), `began` the hearth's time at its start. -/
structure Firing where
  slot : Nat
  tag : W16
  op : Nat
  outs : List (Nat × List Tok) := []
  acc : List (Nat × W32) := []
  store : List (Nat × W32) := []
  counts : List (Nat × Nat × Nat) := []
  releaseBank : Option Nat := none
  resolved : Bool := false
  len : Nat := 2
  clk : Nat := 64
  began : Nat := 0
  deriving DecidableEq, Repr

/-- The configuration of one context of a compute tile (Table 2-10) and its section (R175). -/
structure TileCfg where
  section_ : Nat := 0
  ins : SMap W64 := []
  outs : SMap W64 := []
  syncs : SMap W64 := []
  ops : SMap W64 := []
  params : SMap (BitVec 512) := []
  lim : SMap W64 := []
  ctl : SMap W64 := []
  deriving DecidableEq, Repr

/-- A compute tile (Tables 2-10 to 2-27). `fault` is JD_TILE_FAULT; `emits` holds the EMITs not yet resolved (R49)
as (EMIT slot, tag, bank). -/
structure Tile where
  cfg : SMap TileCfg := []
  valid : BitVec 4 := 0
  active : Nat := 0
  view : Nat := 0
  switching : Option Nat := none
  state : TileState := .idle
  cur : Option Firing := none
  flags : List Flag := []
  fault : W16 := 0
  fireCount : Nat := 0
  busyCycles : Nat := 0
  bank0 : Bank := {}
  bank1 : Bank := {}
  staging : List MatchEntry := []
  acc : SMap W32 := []
  store : SMap W32 := []
  matches_ : List MatchEntry := []
  highWater : Nat := 0
  ins : SMap InLive := []
  outs : SMap OutLive := []
  syncs : SMap SyncLive := []
  fired : List (Nat × W16) := []
  fireNo : SMap Nat := []
  emits : List (Nat × W16 × Nat) := []
  waitSlots : List (Nat × W16 × Bool) := []
  deriving DecidableEq, Repr

/-- A stoker descriptor in one context (Table 8-5): its section, its record index and its body. -/
structure ThreadCfg where
  section_ : Nat := 0
  rcd : Nat := 0
  body : BitVec 896 := 0
  deriving DecidableEq, Repr

/-- Writes of one tag that a thread has still to issue, in pieces of at most one unit. A STORE or COPY holds its source rows
(codes and scales) and its source tokens until its checker has let the tag go; it narrows them then, with what replays have
put in the place of source values and of Scale8 codes, by element (R262, R417, R421). -/
structure HeldWrites where
  tag : W16
  pos : Nat
  writes : List (Nat × List Byte) := []
  rows : Option (List (List Nat × List Nat)) := none
  toks : List Tok := []
  redo : List (Nat × W32) := []
  redoScale : List (Nat × Nat) := []
  deriving DecidableEq, Repr

/-- The live state of a stoker thread (Table 8-7, R258 to R260). `next` is the next position to start or to deliver, `done`
the positions done beyond `donePre`; `fetch` holds the units still to request and those that have come; `part` is the
group being taken, `ring` the tags in a RELAY's ring with their tokens. -/
structure Thread where
  state : Nat := 0
  closed : Bool := true
  epoch : BitVec 4 := 0
  dropped : Nat := 0
  curTag : W16 := 0
  next : Nat := 0
  donePre : Nat := 0
  done : List Nat := []
  buf : List Tok := []
  toSend : List Tok := []
  out : OutLive := {}
  owed : Nat := 0
  fetch : Option (List Nat × List (Nat × BitVec 2048)) := none
  outstanding : Nat := 0
  unacked : List (Nat × Nat) := []
  waited : Bool := false
  waiting : Bool := false
  posted : Nat := 0
  emberDone : Bool := false
  held : Option HeldWrites := none
  flags : List Flag := []
  part : List Tok := []
  ring : List (Nat × Nat) := []
  deriving DecidableEq, Repr

/-- One operation on a hearth sync object (R226): unit key, slot, tag, Table 7-9 action, amount. -/
structure SyncOp where
  unit : UnitRef
  slot : Nat
  tag : W16
  action : Nat
  amount : Nat
  deriving DecidableEq, Repr

/-- A hearth sync object (Table 7-8, R226, R325). `latch` is by unit key; `waiting` has each wait's latched generation. -/
structure HSync where
  gen : W16 := 0
  value : Nat := 0
  inbox : List SyncOp := []
  waiting : List (SyncOp × W16) := []
  latch : SMap (Option W16) := []
  arrivedUp : Bool := false
  init : Nat := 0
  deriving DecidableEq, Repr

/-- A flue endpoint record in one context (Table 9-14a) with its schedule (Table 9-16). -/
structure EpCfg where
  section_ : Nat := 0
  rcd : Nat := 0
  home : Nat := 0
  body : BitVec 896 := 0
  sched : Option (BitVec 896) := none
  deriving DecidableEq, Repr

/-- The live state of a flue endpoint (R303 to R310, R325). `part` is the group being taken and `writes` what a PUT has still
to send of it for position `wpos`; `want` holds a GET's ranges still to request, `reads` its requests (tag, address, bytes),
`readData` the bytes that have come by address; `arrived` pairs a child or sender index with its endpoint or identity. -/
structure EpLive where
  closed : Bool := true
  epoch : BitVec 4 := 0
  dropped : Nat := 0
  droppedReasons : List Nat := []
  buf : List Tok := []
  toSend : List Tok := []
  out : OutLive := {}
  owed : Nat := 0
  next : Nat := 0
  donePre : Nat := 0
  done : List Nat := []
  peerCredits : Nat := 0
  peerEpoch : BitVec 4 := 0
  unperformed : List (Nat × Nat) := []
  part : List Tok := []
  writes : List (Nat × List Byte) := []
  wpos : Nat := 0
  want : List (Nat × Nat) := []
  fetching : Bool := false
  reads : List (Nat × Nat × Nat) := []
  readData : List (Nat × Byte) := []
  reqTag : Nat := 0
  half0 : Option Cell := none
  contrib : List (W16 × Nat × Tok) := []
  parts : List (W16 × Nat × List Byte) := []
  arrived : List (Nat × Nat) := []
  schedLeft : Option Nat := none
  emberDone : Bool := false
  schedAt : Option Nat := none
  deriving DecidableEq, Repr

/-- A calibration record (Tables 5-1 to 5-5) with the values latched at launch (R144). -/
structure CalRec where
  cfg : W64 := 0x0060000000000000
  state : W64 := 0x000000007F800000
  observed : Bool := false
  stepAmax : W32 := 0
  elems : Nat := 0
  clip : Nat := 0
  nar : Nat := 0
  narBlock : Nat := 0
  flush : Nat := 0
  shadowClip : Nat := 0
  emberReset : Nat := 0
  lifeElems : Nat := 0
  lifeClip : Nat := 0
  lifeNar : Nat := 0
  hist : SMap Nat := []
  latRatio : W32 := 0x7F800000
  latAmax : W32 := 0
  latEnable : Bool := false
  deriving DecidableEq, Repr

/-- A section descriptor (Table 6-3). -/
structure Section where
  estFixed : Nat := 0
  estPerTag : Nat := 0
  escThresh : Nat := 0
  escClean : Nat := 1
  variant : Option Nat := none
  escStreams : W32 := 0
  deriving DecidableEq, Repr

/-- A region: dies, slice groups, hearth sync objects, endpoints (Table 6-1). -/
structure Region where
  dieMask : BitVec 10 := 0
  sliceFirst : Nat := 0
  sliceGroups : Nat := 0
  hsyncFirst : Nat := 0
  hsyncCount : Nat := 0
  epFirst : Nat := 0
  epCount : Nat := 0
  deriving DecidableEq, Repr

/-- A record of a load report (Table 6-7). -/
structure LoadRec where
  action : Nat
  table : Nat
  field : Nat := 0
  width : Nat := 0
  slot : Nat := 0xFF
  tile : Nat := 0xFFFF
  entry : Nat := 0
  count : Nat := 0
  original : Nat := 0
  used : Nat := 0
  deriving DecidableEq, Repr

/-- A load report (Table 6-6): the records held and the head's fields. -/
structure LoadReport where
  recs : List LoadRec := []
  overflow : Nat := 0
  status : Status := .done
  context : Nat := 0
  level : Nat := 0
  tilesValid : Nat := 0
  tilesIdle : Nat := 0
  loadNs : Nat := 0
  digest : W64 := 0
  deriving DecidableEq, Repr

/-- What a hearth keeps of the image in one context. -/
structure CtxInfo where
  valid : Bool := false
  digest : BitVec 256 := 0
  level : Nat := 0
  region : Region := {}
  sections : List Section := []
  bounds : SMap (W64 × W64) := []
  hsync : SMap W64 := []
  threads : SMap ThreadCfg := []
  eps : SMap EpCfg := []
  esc : SMap W64 := []
  report : LoadReport := {}
  deriving DecidableEq, Repr

/-- A load in progress (R190): the context it builds, its tile configurations with the placement entry that first named each
tile, what step 9 adds to the report: IDLE records and idle tiles (R176), and the frame slot of each placement entry. -/
structure Load where
  cmd : Nat
  ctx : Nat
  info : CtxInfo
  tiles : List (Nat × TileCfg)
  first : List (Nat × Nat)
  idle : List LoadRec
  idleTiles : Nat
  slots : SMap Nat := []
  deriving DecidableEq, Repr

/-- A hearth step (Tables 10-1 and 10-7). `waiter` is the started command that its end or its freeze by the host completes
(R347, R353), `report` and `rank` its place in the report buffer, `told` whether the freeze was reported,
`det` the detail word that a rule fixes for its end (R103, R264). -/
structure Step where
  id : Nat
  waiter : Nat
  report : W64
  rank : Nat := 0
  told : Bool := false
  workload : Nat
  ctx : Nat
  sec : Nat
  ran : Nat
  first : W16
  n : Nat
  state : StepState
  latency : Bool := false
  mayPreempt : Bool := true
  preempting : Bool := false
  linked : Bool := false
  byHost : Bool := false
  treeHold : Bool := false
  freezes : Nat := 0
  measured : Nat := 0
  charged : Nat := 0
  launchTime : Nat := 0
  endTime : Nat := 0
  heldNs : Nat := 0
  frozenNs : Nat := 0
  spillRounds : Nat := 0
  spillPeak : Nat := 0
  remoteWaits : Nat := 0
  closedSends : Nat := 0
  status : Status := .done
  escCode : Nat := 0
  streak : Nat := 0
  det : Nat := 0
  mark : Nat := 0
  causeWorkload : Nat := 0
  order : Nat := 0
  closedSeen : List (Nat × Nat × Nat) := []
  began : Bool := false
  est : Nat := 0
  deriving DecidableEq, Repr

/-- The saved state of the hearth's frozen step (Table 8-9): the census of its head, the saved slices by window address with
their undefined ranges and error patterns. -/
structure Snapshot where
  step : Nat
  census : List (BitVec 128) := []
  tiles : SMap Tile
  threads : SMap Thread
  hsync : SMap HSync
  eps : SMap EpLive
  cal : SMap CalRec
  slices : Mem
  wild : List (Nat × Nat × Nat) := []
  errs : SMap (W64 × Byte) := []
  spill : List (Nat × Nat × Tok)
  syncWords : SMap (W32 × W32)
  deriving DecidableEq, Repr

/-- An arbitration in progress (R421, R422). -/
structure Arb where
  flag : Flag
  referee : Bool := false
  mismatch : Bool := false
  deriving DecidableEq, Repr

/-- A memory request of a unit to a memory port tile (R59, R241): the unit address and, for a write, its bytes. -/
structure MemReq where
  who : UnitRef
  aux : Nat
  unitAddr : Nat
  write : Option (List (Nat × Byte))
  deriving DecidableEq, Repr

/-- Read data on the reply network (R260): 256 bytes, and its bad words as (address, poisoned). -/
structure MemReply where
  who : UnitRef
  aux : Nat
  unitAddr : Nat
  data : BitVec 2048
  bad : List (Nat × Bool)
  deriving DecidableEq, Repr

/-- A peer context (Table 9-11) and the timers R297 to R299 keep for it. -/
structure PeerCtx where
  peerModule : Nat := 0
  peerHearth : Nat := 0
  st : PeerState := .closed
  txEpoch : Nat := 0
  rxEpoch : Nat := 0
  retry : Nat := 0
  send : W16 := 0
  ack : W16 := 0
  expect : W16 := 0
  rxmap : W32 := 0
  held : Nat := 0
  sinceAck : Nat := 0
  lastMap : W32 := 0
  lastNack : Option Nat := none
  lastReset : Option Nat := none
  port : Nat := 0
  deriving DecidableEq, Repr

/-- A cell waiting in an injection or transit queue: `seqd` marks a sequenced cell not yet numbered, `tokenSrc` is
the identity that enters a TOKEN cell's CRC (R287), `port` the port tile it must leave by or, in transit, the one it came
by, `since` when a transit cell arrived (R327), and `own` marks one in transit whose source is this module (R317). -/
structure QCell where
  cell : Cell
  ctx : Nat := 0
  dstModule : Nat := 0
  dstHearth : Nat := 0
  seqd : Bool := false
  resend : Bool := false
  transit : Bool := false
  sched : Option Nat := none
  ep : Option Nat := none
  tokenSrc : Option Nat := none
  port : Option Nat := none
  since : Nat := 0
  own : Bool := false
  deriving DecidableEq, Repr

/-- A cell on a link: the port tile and channel that it left by, and whether its source is another module (R317). -/
structure LinkCell where
  port : Nat
  chan : Nat
  cell : Cell
  foreign : Bool := false
  deriving DecidableEq, Repr

/-- A cell of the retransmit pool (R298), with the endpoint that sent it. -/
structure PoolCell where
  ctx : Nat
  seq : W16
  cell : Cell
  ep : Option Nat := none
  deriving DecidableEq, Repr

/-- A flue port tile (Tables 9-2 to 9-4, R280, R312, R314). `txCredits` are the sender's credits, `owed` the slots
freed and not yet returned; `lost` is true when the link last went down with cells on it. Of the link words that it sends,
`chan` is the next CHANNEL, `words` the number sent, `word` the last one, `reports` the channels of a resync report still to
send, and `asked` says that the resync request has gone out (R276, R278). -/
structure FPort where
  st : LinkState := .down
  lanes : BitVec 4 := 0
  lanesFar : BitVec 4 := 0
  dropped : Nat := 0
  resyncs : Nat := 0
  txCredits : SMap Nat := []
  owed : SMap Nat := []
  inj : SMap (List QCell) := []
  transit : SMap (List QCell) := []
  altTransit : SMap Bool := []
  altBulk : Bool := false
  damper : Nat := 0
  taps : SMap Int := []
  training : BitVec 4 := 0
  report : List Nat := []
  saveBuf : List (Nat × Cell) := []
  draining : Bool := false
  lost : Bool := false
  chan : Nat := 0
  words : Nat := 0
  word : BitVec 20 := 0
  reports : List Nat := []
  asked : Bool := false
  deriving DecidableEq, Repr

/-- A record of the ash log (Tables 13-15 to 13-17). `raw` holds the bytes of a record forwarded by a child (R439). -/
structure AshRec where
  cls : Nat
  flags : Byte := 0
  level : Nat := 0
  window : Nat := 0
  time : Nat := 0
  path : W64 := 0
  syndrome : W64 := 0
  step : W64 := 0
  image : W64 := 0
  env : W64 := 0
  detail : BitVec 2048 := 0
  seq : Nat := 0
  originSeq : Nat := 0
  raw : Option (BitVec 4096) := none
  deriving DecidableEq, Repr

/-- A reshape in progress (R248, R431): the sub-channel, whether it leaves, the next unit to move. -/
structure Reshape where
  sub : Nat
  leaving : Bool
  next : Nat
  deriving DecidableEq, Repr

/-- A retirement decided and not yet in effect: its units, the unit path of its record, and the RETIRE record's fields
(Table 13-20). `fresh` is false while it waits for the running step or a reshape to end (R239, R247). -/
structure Deferred where
  sels : List UnitSel
  path : Nat
  origin : Nat := 0
  cause : Nat := 0
  causeSeq : Nat := 0
  cmd : Option Nat := none
  fresh : Bool := true
  deriving DecidableEq, Repr

/-- The counters of a base-die unit (Table 2-28) and its recent corrected words (R424). -/
structure UnitCnt where
  ce : Nat := 0
  ue : Nat := 0
  ceHour : Nat := 0
  recent : List (Nat × Nat) := []
  deriving DecidableEq, Repr

/-- A compute die's map (R24, R25). -/
structure Die where
  bad : BitVec 48 := 0
  retired : BitVec 48 := 0
  moved : BitVec 48 := 0
  down : Bool := false
  deriving DecidableEq, Repr

/-- Slots of a hearth's retransmit pool (R298). -/
def poolSlots : Nat := 16384

/-- Bytes of a hearth's spill area (R102). -/
def spillBytes : Nat := 4194304

/-- A hearth. `poolFree` counts the free slots of its retransmit pool, `spillFree` and `spillBusy` the bytes of its spill area
that are free and those of a round in progress (Table 7-11). `timeBase` is the hearth's own time base, locked to module time
over its command link (R13, R328); `linkLost` tells that the command link or the mantel port tile at its end is lost (R12, R432);
`blocked` tells since when each unit of the running step is blocked (R103). -/
structure Hearth where
  timeBase : Nat := 0
  linkLost : Bool := false
  st : HState := .absent
  fw : W32 := 0
  resets : Nat := 0
  epochBase : Nat := 0
  everReady : Bool := false
  firstBoot : Bool := false
  fromPower : Bool := false
  rail : Bool := false
  clkStep : Nat := 0
  tokenStep : Nat := 64
  thermStep : Nat := 64
  hottest : Int := 0
  cooled : Bool := true
  tokens : Nat := 0
  grant : Nat := 0
  demand : Nat := 0
  dies : SMap Die := []
  slicesOut : List Nat := []
  subsOut : List Nat := []
  portsOut : List Nat := []
  lanesOut : List Nat := []
  cnt : SMap UnitCnt := []
  buckets : SMap (List Nat) := []
  mem : Mem := []
  wild : List (Nat × Nat × Nat) := []
  errs : SMap (W64 × Byte) := []
  holeReads : Nat := 0
  holeWrites : Nat := 0
  ctxs : SMap CtxInfo := []
  load : Option Load := none
  tiles : SMap Tile := []
  threads : SMap Thread := []
  hsync : SMap HSync := []
  eps : SMap EpLive := []
  cal : SMap CalRec := []
  syncWords : SMap (W32 × W32) := []
  flights : List Flight := []
  creditFlights : List CreditFlight := []
  grants : List (UnitRef × Nat × Nat) := []
  reqs : List MemReq := []
  replies : List MemReply := []
  acks : List (UnitRef × Nat) := []
  steps : List Step := []
  slotLat : Option Nat := none
  slotBest : Option Nat := none
  chargeSum : SMap Nat := []
  flushCharge : Bool := false
  freezeSum : SMap Nat := []
  snap : Option Snapshot := none
  spill : List (Nat × Nat × Tok) := []
  spilling : Bool := false
  spillFree : Nat := spillBytes
  spillBusy : Nat := 0
  sampling : Option Nat := none
  hist : SMap Nat := []
  flags : List Flag := []
  arb : Option Arb := none
  peers : SMap PeerCtx := []
  pool : List PoolCell := []
  poolFree : Nat := poolSlots
  noPath : List QCell := []
  reorder : List (Nat × W16 × Cell) := []
  ports : SMap FPort := []
  sent : List LinkCell := []
  moduleId : BitVec 18 := 0
  idValid : Bool := false
  resend : Nat := 20
  damperEn : Bool := true
  routeLocal : SMap W64 := []
  routeGroup : SMap W64 := []
  discards : Nat := 0
  performed : List (Nat × Nat × Nat × Nat) := []
  assembly : SMap (List Byte) := []
  ash : SMap AshRec := []
  ashNext : Nat := 1
  sigNew : Bool := false
  forwardFrom : Nat := 1
  scrubA : W64 := 0
  scrubB : W64 := 0
  scrubC : W64 := 0
  scrubPos : SMap Nat := []
  reshape : Option Reshape := none
  deferred : List Deferred := []
  restoring : List (UnitSel × Nat) := []
  returning : List (UnitSel × Nat) := []
  reportRing : SMap (BitVec 1024) := []
  reportNo : Nat := 0
  closedSeen : List (Nat × Nat × Nat) := []
  retiredWhole : Bool := false
  refreshed : Nat := 0
  lastTrain : SMap Int := []
  blocked : List (UnitRef × Nat) := []
  modulePorts : Nat := 0
  telemetry : SMap (List Byte) := []
  childTelemetry : SMap (List Byte) := []
  deriving DecidableEq, Repr

/-- A submission ring (Table 11-14). -/
structure SQ where
  base : BitVec 52 := 0
  enable : Bool := false
  error : Bool := false
  priority : Nat := 0
  cause : Nat := 0
  log2 : Nat := 4
  tail : Nat := 0
  head : Nat := 0
  deriving DecidableEq, Repr

/-- A completion ring (Table 11-14, R380). -/
structure CQ where
  base : BitVec 52 := 0
  enable : Bool := false
  error : Bool := false
  cause : Nat := 0
  log2 : Nat := 4
  head : Nat := 0
  tail : Nat := 0
  phase : Bool := true
  deriving DecidableEq, Repr

/-- An HDM decoder (R372): `iw` is its interleave ways code, 0 for one way. -/
structure Decoder where
  hpa : Nat := 0
  size : Nat := 0
  skip : Nat := 0
  committed : Bool := false
  error : Bool := false
  iw : Nat := 0
  deriving DecidableEq, Repr

/-- The host-port registers (Tables 11-5 to 11-14): `cxlRegs` holds what was last written to each CXL register that the spec
does not lay out, `aerUncor` and `aerCor` the status registers of AER (R358). -/
structure Regs where
  linkWidth : Nat := 0
  linkSpeed : Nat := 0
  cxl : Bool := false
  linkUp : Bool := false
  cfgOk : Bool := false
  d3hot : Bool := false
  failover : Bool := false
  dmaBlocked : Bool := false
  timeUnlocked : Bool := false
  cqDropped : Nat := 0
  capW : Nat := 4800
  capReject : Bool := false
  drawW : Nat := 0
  winSel : W64 := 0
  winBase : SMap W64 := []
  winLimit : SMap W64 := []
  bias : SMap W64 := []
  sq : SMap SQ := []
  cq : SMap CQ := []
  lastRing : Nat := 15
  decoders : SMap Decoder := []
  cxlRegs : SMap W32 := []
  aerUncor : W32 := 0
  aerCor : W32 := 0
  deriving DecidableEq, Repr

/-- The fuse array (Table 14-2). PUF_HELPER is kept as the number of its bits not yet blown. -/
structure Fuses where
  helperLeft : Nat := 7168
  rollbackHearth : Nat := 0
  rollbackModule : Nat := 0
  fusedW : Nat := 4800
  serial : W64 := 0
  stepping : Byte := 0
  grade : BitVec 4 := 0
  kill : Bool := false
  policyKill : Bool := false
  policySet : Bool := false
  ownerEn : Bool := false
  ownerHash : BitVec 256 := 0
  rootHash : BitVec 256 := 0
  deriving DecidableEq, Repr

/-- A firmware image in a flash slot (R444): what of it the module uses, and whether it verifies (R445). -/
structure FwImage where
  version : W32 := 0
  secver : Nat := 0
  hash : BitVec 256 := 0
  verifies : Bool := true
  deriving DecidableEq, Repr

/-- Module flash (Table 14-6). Slots 0 A, 1 B, 2 F; `staged` marks a verified image not yet active. -/
structure Flash where
  modSlots : SMap (Option FwImage) := []
  hearthSlots : SMap (Option FwImage) := []
  modActive : Nat := 0
  hearthActive : Nat := 0
  modStaged : Bool := false
  hearthStaged : Bool := false
  bootCount : Nat := 0
  sigFails : Nat := 0
  moduleId : BitVec 18 := 0
  idValid : Bool := false
  leafEnd : Nat := 0
  retired : List (Nat × UnitSel) := []
  writable : Bool := true
  deriving DecidableEq, Repr

/-- A workload account (Table 10-3). -/
structure Account where
  known : Bool := false
  weight : Nat := 100
  latency : Bool := false
  mayPreempt : Bool := true
  charged : Nat := 0
  vtime : Nat := 0
  stalled : Nat := 0
  freezeCharge : Nat := 0
  stepsDone : Nat := 0
  stepsOther : Nat := 0
  freezes : Nat := 0
  active : Bool := false
  deriving DecidableEq, Repr

/-- Who waits for a completion and with what header fields (Table 12-1). -/
structure Origin where
  src : Src
  opcode : Nat
  hostTag : W32
  sqHead : Nat
  deriving DecidableEq, Repr

/-- What a started command waits for before it completes. -/
inductive Wait where
  | steps (hearths : W16) (results : List (Nat × Status × Bool × Nat))
  | preempt (steps : List (Nat × Nat)) (halt : Bool) (save : Option (BitVec 512))
  | load (left : W16) (status : Status) (det records : Nat) (mask : W16)
  | reset (left : W16) (status : Status)
  | retire (h : Nat) (sel : UnitSel)
  | restore (h : Nat) (sel : UnitSel)
  | fwStage (target : Nat) (img : FwImage)
  | fwActivate
  | flueUp (left failed : BitVec 128)
  | flueDown (left droppedOn : BitVec 128)
  | slew
  | warmReset
  | remoteCopy (m : Nat) (left : List (Nat × Nat)) (segs : List (Nat × Nat × Nat × Nat))
  | attest (addr : W64) (nonce : BitVec 256)
  deriving DecidableEq, Repr

/-- A started command that has not completed (R403, R405), and its children in the tree (R324). -/
structure Started where
  id : Nat
  org : Origin
  wait : Option Wait
  result : Option (Status × Nat × W64 × W64) := none
  children : List Nat := []
  childWorst : Status := .done
  childBad : Nat := 0
  tree : Bool := false
  lost : Bool := false
  workload : Nat := 0
  deriving DecidableEq, Repr

/-- A firmware activation in progress (R449): the target kind, hearths still to switch, hearths switched. -/
structure Activation where
  cmd : Nat
  target : Nat
  left : List Nat
  switched : W16
  deriving DecidableEq, Repr

/-- The role of the module in the manager tree (R321, R322). -/
structure Role where
  role : Nat := 0
  treeHearth : Nat := 0
  parent : Option (Nat × Nat) := none
  children : Nat := 0
  table : Nat := 0
  deriving DecidableEq, Repr

/-- The mantel's power and reset condition (R464 to R472, Table 1-12). -/
structure Power where
  inputOk : Bool := true
  mantelOn : Bool := true
  perst : Bool := true
  latchedOff : Bool := false
  flueRef : Nat := 0
  controllerFailed : Bool := false
  booted : Bool := false
  warm : Option Nat := none
  pool : Nat := 0
  budget : Nat := 0
  deriving DecidableEq, Repr

/-- A sensor record (Table 15-6). -/
structure Sensor where
  state : Nat := 0
  value : Int := 0
  low : Int := 0
  high : Int := 0
  seen : Bool := false
  deriving DecidableEq, Repr

/-- The identity engine and the authorisation state (R450 to R458): `debug` holds each open access, its scope and the time
it ends; `fwVersion` is the version of the running module firmware. -/
structure Trust where
  engineOn : Bool := false
  engineFailed : Bool := false
  verifyFailed : Bool := false
  next : Nat := 0
  leafEnd : Nat := 0
  challenge : Option (BitVec 128) := none
  debug : List (BitVec 10 × Nat) := []
  fwVersion : W32 := 0
  measModule : BitVec 256 := 0
  measModuleStaged : BitVec 256 := 0
  measHearthStaged : BitVec 256 := 0
  measHearth : SMap (BitVec 256) := []
  sources : BitVec 5 := 0
  deriving DecidableEq, Repr

/-- A saved step (R398). `bytes` and `wild` are what SAVE_STATE wrote to the buffer, by offset from its start: the bytes that
are defined and not zero, and the ranges that hold free values (log 13). -/
structure SaveImage where
  serial : W64
  hearth : Nat
  census : List (BitVec 128)
  ctx : Nat
  digest : BitVec 256
  step : Step
  snap : Snapshot
  bytes : Mem := []
  wild : List (Nat × Nat × Nat) := []
  deriving DecidableEq, Repr

/-- The thresholds of a sensor (Table 15-7): none; values at which it warns, is critical and is fatal; a band outside which the
reading is OUT_OF_RANGE and a wider one outside which it is fatal; a tolerance in percent; above the cap in force; above the
tokens held by more than a percentage; below a clock step through a thermal limit. -/
inductive Limits where
  | none
  | above (warning critical fatal : Int)
  | band (low high fatalLow fatalHigh : Int)
  | tolerance (percent : Nat)
  | overCap
  | overTokens (percent : Nat)
  | belowStep (step : Nat)
  deriving DecidableEq, Repr

/-- The last answer given to a requester (log 16). -/
inductive Rsp where
  | none
  | reg (v : W64)
  | line (data : BitVec 512) (poisoned : Bool)
  | noAnswer
  | fru (b : Byte)
  | sensor (value : Int) (state : Nat)
  | sideband (bytes : List Byte)
  | pdrInfo (records : Nat)
  | pdr (id unit : Nat) (limits : Limits)
  | jtag (granted : Bool)
  deriving DecidableEq, Repr

/-- Module time (R327 to R330, R499): nanoseconds, whether set, the offset still to slew. -/
structure Time where
  ns : Nat := 0
  isSet : Bool := false
  slew : Int := 0
  half : Bool := false
  acc : Nat := 0
  lastExchange : Nat := 0
  deriving DecidableEq, Repr

/-- The CDAT that DOE returns (R360): its DSMAS entries as (DPA, bytes), and its sequence number. -/
structure Cdat where
  entries : List (Nat × Nat) := []
  seq : Nat := 0
  deriving DecidableEq, Repr

/-- The machine. -/
structure State where
  pending : List Instr
  fresh : Nat
  mod : ModState
  regs : Regs
  time : Time
  fuses : Fuses
  flash : Flash
  trust : Trust
  power : Power
  role : Role
  hostMem : Mem
  hostWild : List (Nat × Nat × Nat)
  started : List Started
  nextCmd : Nat
  accounts : SMap Account
  order : Nat
  hearths : SMap Hearth
  sensors : SMap Sensor
  sensorTime : Nat
  eid : Byte
  sidebandFailed : Bool
  sidebandOn : Bool
  hostPortFailed : Bool
  standbyOk : Bool
  pairsFailed : Bool
  pairBucket : List Nat
  ringsOn : Bool
  romEngine : Bool
  activation : List Activation
  saves : List (Nat × SaveImage)
  cmdCells : SMap (List (BitVec 256))
  linkCells : SMap (List (BitVec 256))
  rsp : Rsp
  memActive : Bool
  cdat : Cdat
  deriving DecidableEq, Repr

/-- Why a step of the model stops with a fault: no command of this block does (every failure the manual describes is
a next state). -/
inductive Fault where
  /-- Raised by no command: the manual gives every command an effect. Safe. -/
  | none
  deriving DecidableEq, Repr

/-- Why a step of the model is refused. -/
inductive Refusal where
  /-- Raised by an arm of exec whose command has no meaning yet, by its mnemonic. Safe. -/
  | notModelled (mnemonic : String)
  deriving DecidableEq, Repr

/-- The machine right after a cold reset: input power applied, mantel rails in regulation, PERST# asserted (R466,
R469; log 7), every register at the value the manual gives or the log names. -/
def State.reset : State where
  pending := []
  fresh := 0
  mod := .boot
  regs := {}
  time := {}
  fuses := {}
  flash :=
    { modSlots := [(2, some { version := 1 })], hearthSlots := [(2, some { version := 1 })] }
  trust := {}
  power := {}
  role := {}
  hostMem := []
  hostWild := []
  started := []
  nextCmd := 0
  accounts := []
  order := 0
  hearths := []
  sensors := []
  sensorTime := 0
  eid := 0
  sidebandFailed := false
  sidebandOn := false
  hostPortFailed := false
  standbyOk := false
  pairsFailed := false
  pairBucket := []
  ringsOn := false
  romEngine := false
  activation := []
  saves := []
  cmdCells := []
  linkCells := []
  rsp := .none
  memActive := false
  cdat := {}

end Sys2Proof.Machine
end

