-- ==== Sys2Proof/Machine/Ops.lean ====
section
/-! DEFINITION. Shared operations: sparse tables, bytes, device and host memory with poison and undefined contents,
the 72/64 code, and the update of one hearth. -/

namespace Sys2Proof.Machine

/-! ### Numbers and bytes -/

/-- Bits [hi:lo] of a number. -/
def nbits (x hi lo : Nat) : Nat := x / 2 ^ lo % 2 ^ (hi + 1 - lo)

/-- Bit i of a number. -/
def nbit (x i : Nat) : Bool := x / 2 ^ i % 2 == 1

/-- One as a number. -/
def b2n (b : Bool) : Nat := if b then 1 else 0

/-- Saturation at n bits. -/
def sat (n x : Nat) : Nat := if x < 2 ^ n then x else 2 ^ n - 1

/-- x divided by y, rounded up. -/
def ceilDiv (x y : Nat) : Nat := if y = 0 then 0 else (x + y - 1) / y

/-- The low n bytes of v, lowest address first (R8: little-endian). -/
def leBytes : Nat → Nat → List Byte
  | 0, _ => []
  | n + 1, v => BitVec.ofNat 8 v :: leBytes n (v / 256)

/-- A little-endian number. -/
def ofLE : List Byte → Nat
  | [] => 0
  | b :: bs => b.toNat + 256 * ofLE bs

/-- The number of set bits among bits 0 to n - 1. -/
def popcount : Nat → Nat → Nat
  | 0, _ => 0
  | n + 1, x => x % 2 + popcount n (x / 2)

/-- The positions below n of the set bits of x, rising. -/
def setBits (n x : Nat) : List Nat := (List.range n).filter (fun i => nbit x i)

/-- The mask with the listed bits set. -/
def maskOf (l : List Nat) : Nat := l.foldl (fun a i => if nbit a i then a else a + 2 ^ i) 0

/-- The two's complement value of an n-bit number. -/
def sgn (n x : Nat) : Int := if x < 2 ^ (n - 1) then x else (x : Int) - 2 ^ n

/-- An integer as n bits. -/
def unsgn (n : Nat) (x : Int) : Nat := (x % 2 ^ n).toNat

/-! ### Sparse tables -/

/-- The value at a key. -/
def mget {α : Type} (d : α) : SMap α → Nat → α
  | [], _ => d
  | (k, v) :: t, i => if k = i then v else mget d t i

/-- Write a key, keeping the keys rising and no default entry. -/
def mput {α : Type} [DecidableEq α] (d : α) : SMap α → Nat → α → SMap α
  | [], k, v => if v = d then [] else [(k, v)]
  | (k', v') :: t, k, v =>
    if k < k' then (if v = d then (k', v') :: t else (k, v) :: (k', v') :: t)
    else if k = k' then (if v = d then t else (k, v) :: t)
    else (k', v') :: mput d t k v

/-- Change the value at a key. -/
def mupd {α : Type} [DecidableEq α] (d : α) (m : SMap α) (k : Nat) (f : α → α) : SMap α :=
  mput d m k (f (mget d m k))

/-- Apply f to every listed value, dropping what becomes the default. -/
def mmap {α : Type} [DecidableEq α] (d : α) (f : Nat → α → α) : SMap α → SMap α
  | [] => []
  | (k, v) :: t => if f k v = d then mmap d f t else (k, f k v) :: mmap d f t

/-- The table has rising keys, all at least lo, and no default entry. -/
def smapWfFrom {α : Type} [DecidableEq α] (d : α) : Nat → SMap α → Bool
  | _, [] => true
  | lo, (k, v) :: t => decide (lo ≤ k) && !decide (v = d) && smapWfFrom d (k + 1) t

/-- The canonical form of a sparse table. -/
def smapWf {α : Type} [DecidableEq α] (d : α) (m : SMap α) : Bool := smapWfFrom d 0 m

/-- The canonical form of a memory: addresses rise and no listed byte is 0. -/
def Memory.wf (m : Mem) : Bool := smapWf (0 : Byte) m

/-! ### Memory -/

/-- Write one byte. -/
def memPut (m : Mem) (a : Nat) (b : Byte) : Mem := mput (0 : Byte) m a b

/-- Write consecutive bytes. -/
def memPuts (m : Mem) (a : Nat) : List Byte → Mem
  | [] => m
  | b :: bs => memPuts (memPut m a b) (a + 1) bs

/-- The generation of undefined contents that covers an address. -/
def wildAt : List (Nat × Nat × Nat) → Nat → Option Nat
  | [], _ => none
  | (lo, hi, g) :: t, a => if lo ≤ a ∧ a < hi then some g else wildAt t a

/-- Take [lo, hi) out of the undefined ranges. -/
def unwild (w : List (Nat × Nat × Nat)) (lo hi : Nat) : List (Nat × Nat × Nat) :=
  w.flatMap (fun (x : Nat × Nat × Nat) =>
    if hi ≤ x.1 ∨ x.2.1 ≤ lo then [x] else
    (if x.1 < lo then [(x.1, lo, x.2.2)] else []) ++ (if hi < x.2.1 then [(hi, x.2.1, x.2.2)] else []))

/-- A byte of a memory with undefined ranges: a free value there (log 5). -/
def rdByte (m : Mem) (w : List (Nat × Nat × Nat)) (a : Nat) : Byte :=
  match wildAt w a with
  | some g => Config.undefByte g a
  | none => mget (0 : Byte) m a

/-- Consecutive bytes of a memory. -/
def rdBytes (m : Mem) (w : List (Nat × Nat × Nat)) (a n : Nat) : List Byte :=
  (List.range n).map (fun i => rdByte m w (a + i))

/-- Bytes of the head of the sensor records (R480). -/
def sensorHead : Nat := 64

/-- The number of sensor records (R480). -/
def sensorCount : Nat := 880

/-! ### The 72/64 code (R411, R412) -/

/-- M_0 of Table 13-1. -/
def eccMask0 : W64 := 0x9FE182A4481000FF

/-- The parity of a word. -/
def parity64 (x : W64) : Bool := popcount 64 x.toNat % 2 == 1

/-- The check byte of a word: bit i is the parity under M_0 rotated left by 8i bits (R411). -/
def checkByte (d : W64) : Byte :=
  BitVec.ofNat 8 (maskOf ((List.range 8).filter (fun i => parity64 (d &&& eccMask0.rotateLeft (8 * i)))))

/-- What a stored word reads as (Table 13-3). -/
inductive Reads where
  | clean | data (bit : Nat) | check | poisoned | uncorrectable
  deriving DecidableEq, Repr

/-- The meaning of a syndrome (Table 13-3). -/
def syndromeMeaning (syn : Byte) : Reads :=
  if syn = 0 then .clean
  else if syn = 0xFF then .poisoned
  else match (List.range 64).find? (fun j => checkByte (BitVec.ofNat 64 (2 ^ j)) == syn) with
    | some j => .data j
    | none => if popcount 8 syn.toNat = 1 then .check else .uncorrectable

/-- The syndrome of a word whose stored data and check byte differ from those written by the given pattern: the code
is linear, so the data cancel. -/
def errSyndrome (e : W64 × Byte) : Byte := checkByte e.1 ^^^ e.2

/-- The pattern of a poisoned word (R246). -/
def poisonErr : W64 × Byte := (0, 0xFF)

/-! ### One hearth's memory -/

/-- The error pattern of a word of a hearth (word = address divided by 8). -/
def errAt (hh : Hearth) (word : Nat) : W64 × Byte := mget (0, 0) hh.errs word

/-- How a word of a hearth reads. -/
def wordReads (hh : Hearth) (word : Nat) : Reads := syndromeMeaning (errSyndrome (errAt hh word))

/-- A byte of a hearth's memory, as the reader receives it. A correctable error is corrected; a word that is not
correctable returns its stored bits. -/
def hByte (hh : Hearth) (a : Nat) : Byte :=
  let b := rdByte hh.mem hh.wild a
  match wordReads hh (a / 8) with
  | .uncorrectable => b ^^^ BitVec.ofNat 8 ((errAt hh (a / 8)).1.toNat / 2 ^ (8 * (a % 8)))
  | _ => b

/-- Consecutive bytes of a hearth's memory. -/
def hBytes (hh : Hearth) (a n : Nat) : List Byte := (List.range n).map (fun i => hByte hh (a + i))

/-- A little-endian number in a hearth's memory. -/
def hNum (hh : Hearth) (a n : Nat) : Nat := ofLE (hBytes hh a n)

/-- The words that [a, a + n) touches. -/
def wordsOf (a n : Nat) : List Nat :=
  if n = 0 then [] else (List.range ((a + n - 1) / 8 + 1 - a / 8)).map (fun i => a / 8 + i)

/-- The first word of [a, a + n) that reads as poisoned (true) or uncorrectable (false), with its address. -/
def badWord (hh : Hearth) (a n : Nat) : Option (Nat × Bool) :=
  (wordsOf a n).findSome? (fun w => match wordReads hh w with
    | .poisoned => some (8 * w, true)
    | .uncorrectable => some (8 * w, false)
    | _ => none)

/-- The error pattern of a word after a write that covers it whole, or in part (R246). -/
def errAfterWrite (hh : Hearth) (a n word : Nat) : W64 × Byte :=
  if a ≤ 8 * word ∧ 8 * word + 8 ≤ a + n then (0, 0)
  else match wordReads hh word with
    | .poisoned => poisonErr
    | .uncorrectable => poisonErr
    | _ => (0, 0)

/-- Write consecutive bytes of a hearth's memory. -/
def hWrite (hh : Hearth) (a : Nat) (bs : List Byte) : Hearth :=
  if bs = [] then hh else
  { hh with
    mem := memPuts hh.mem a bs
    wild := unwild hh.wild a (a + bs.length)
    errs := if hh.errs = [] then [] else
      (wordsOf a bs.length).foldl (fun m w => mput (0, 0) m w (errAfterWrite hh a bs.length w)) hh.errs }

/-- Poison every word that [a, a + n) touches (R246, R271). -/
def hPoison (hh : Hearth) (a n : Nat) : Hearth :=
  { hh with errs := (wordsOf a n).foldl (fun m w => mput (0, 0) m w poisonErr) hh.errs }

/-- Make [lo, hi) undefined, under a generation number. -/
def hUndef (hh : Hearth) (lo hi gen : Nat) : Hearth :=
  { hh with
    wild := (lo, hi, gen) :: unwild hh.wild lo hi
    errs := hh.errs.filter (fun (e : Nat × (W64 × Byte)) => e.1 < lo / 8 || hi ≤ 8 * e.1) }

/-- Set one word poisoned in place. -/
def hPoisonWord (hh : Hearth) (word : Nat) : Hearth := { hh with errs := mput (0, 0) hh.errs word poisonErr }

/-! ### The module's hearths -/

/-- Hearth h. -/
def hearthOf (s : State) (h : Nat) : Hearth := mget {} s.hearths h

/-- Replace hearth h; a number of 9 or more names no hearth. -/
def putH (s : State) (h : Nat) (hh : Hearth) : State :=
  if h < 9 then { s with hearths := mput {} s.hearths h hh } else s

/-- Change hearth h. -/
def updH (s : State) (h : Nat) (f : Hearth → Hearth) : State := putH s h (f (hearthOf s h))

/-- The temperature of the package that holds a sub-channel, in 1/8 °C (sensors 80 to 85 of a hearth, Table 15-7; four channels
to a package, Table 8-2; DEDUCED, log 133). -/
def deviceTemp (s : State) (h sub : Nat) : Int := (mget {} s.sensors (16 + 96 * h + 80 + sub / 8)).value

/-- The ENV field of a record of hearth h, from the hearth's sensors 86 and 64 to 67 (R481, Table 13-15). -/
def envWord (s : State) (h : Nat) : W64 :=
  let v (i : Nat) : Int := (mget {} s.sensors (16 + 96 * h + i)).value
  let rail (i : Nat) : Nat := unsgn 10 (v i / 2)
  BitVec.ofNat 64 (unsgn 16 (v 86) * 2 ^ 48 + unsgn 8 (mget {} s.sensors (16 + 96 * h + 86)).low * 2 ^ 40
    + rail 64 * 2 ^ 30 + rail 65 * 2 ^ 20 + rail 66 * 2 ^ 10 + rail 67)

/-- What an event in a hearth takes: the hearth's number, its time base (R13), whether a record carries TIME_LOCKED
(R499), and the ENV field of its records. -/
structure Env where
  h : Nat
  now : Nat
  locked : Bool
  env : W64
  deriving DecidableEq, Repr

/-- The environment of hearth h. -/
def envOf (s : State) (h : Nat) : Env := ⟨h, (hearthOf s h).timeBase, s.time.isSet && !s.regs.timeUnlocked, envWord s h⟩

/-- A change of one hearth by its own rules: nothing else of the module changes (R13, R16). -/
def onHearth (s : State) (h : Nat) (f : Env → Hearth → Hearth) : State := updH s h (f (envOf s h))

/-- Hearths 0 to 8. -/
def allHearths : List Nat := List.range 9

/-- Every powered hearth whose command link works locks its time base to module time (R13, R328; log 109). -/
def lockTime (s : State) : State :=
  (allHearths.filter (fun h => (hearthOf s h).rail && !(hearthOf s h).linkLost)).foldl
    (fun s h => updH s h (fun hh => { hh with timeBase := s.time.ns })) s

/-- Change every listed hearth by its own rules. -/
def onHearths (s : State) (hs : List Nat) (f : Env → Hearth → Hearth) : State :=
  hs.foldl (fun s h => onHearth s h f) s

/-! ### Host memory -/

/-- A byte of host memory. -/
def hostByte (s : State) (a : Nat) : Byte := rdByte s.hostMem s.hostWild a

/-- Consecutive bytes of host memory. -/
def hostBytes (s : State) (a n : Nat) : List Byte := rdBytes s.hostMem s.hostWild a n

/-- Write host memory (after the window check). -/
def hostWrite (s : State) (a : Nat) (bs : List Byte) : State :=
  if bs = [] then s else
  { s with hostMem := memPuts s.hostMem a bs, hostWild := unwild s.hostWild a (a + bs.length) }

/-- Window n of the host (Table 11-13), as (first byte, end) while it is enabled (R364). -/
def windowOf (r : Regs) (n : Nat) : Option (Nat × Nat) :=
  let b := (mget 0 r.winBase n).toNat
  let l := (mget 0 r.winLimit n).toNat
  if b % 2 = 1 ∧ b / 4096 ≤ l / 4096 then some (b / 4096 * 4096, l / 4096 * 4096 + 4096) else none

/-- The whole of [a, a + n) lies in one enabled window (R364, R365). -/
def inWindow (r : Regs) (a n : Nat) : Bool :=
  (List.range 8).any (fun i => match windowOf r i with
    | some (lo, hi) => decide (lo ≤ a) && decide (a + n ≤ hi)
    | none => false)

/-! ### Codes -/

/-- JD_HEALTH.MODULE_STATE (Table 11-8). -/
def modCode : ModState → Nat
  | .boot => 0 | .service => 1 | .operational => 2 | .alarm => 3

/-- JD_HEARTH_STATE.STATE (Table 11-10). -/
def hCode : HState → Nat
  | .absent => 0 | .booting => 1 | .ready => 2 | .loaded => 3 | .running => 4 | .frozen => 5 | .faulted => 6
  | .retired => 7

/-- Status codes (Table 12-6). -/
def stCode : Status → Nat
  | .done => 0x0000 | .doneWithReport => 0x0001 | .rejectedOpcode => 0x0100 | .rejectedState => 0x0101
  | .rejectedParameter => 0x0102 | .rejectedLength => 0x0103 | .rejectedTarget => 0x0104
  | .rejectedSecurity => 0x0105 | .abortedFault => 0x0200 | .abortedByHost => 0x0201 | .preempted => 0x0202
  | .timeoutSync => 0x0203 | .deadlock => 0x0204 | .alarmLocked => 0x0300

/-- The status of a code. -/
def codeSt (n : Nat) : Status :=
  if n = 0 then .done else if n = 1 then .doneWithReport else if n = 0x100 then .rejectedOpcode
  else if n = 0x101 then .rejectedState else if n = 0x102 then .rejectedParameter
  else if n = 0x103 then .rejectedLength else if n = 0x104 then .rejectedTarget
  else if n = 0x105 then .rejectedSecurity else if n = 0x200 then .abortedFault
  else if n = 0x201 then .abortedByHost else if n = 0x202 then .preempted
  else if n = 0x203 then .timeoutSync else if n = 0x204 then .deadlock else .alarmLocked

/-- The larger of two statuses (R388). -/
def worse (a b : Status) : Status := if stCode a < stCode b then b else a

/-- Step states in the order of Table 10-1 (R389). -/
def stepCode : StepState → Nat
  | .pending => 0 | .held => 1 | .starting => 2 | .running => 3 | .halting => 4 | .saving => 5 | .frozen => 6
  | .restoring => 7 | .ending => 8 | .ended => 9

/-- A hearth is in READY to FROZEN. -/
def readyFrozen : HState → Bool
  | .ready => true | .loaded => true | .running => true | .frozen => true | _ => false

/-- A hearth is in READY to FAULTED. -/
def readyFaulted : HState → Bool
  | .faulted => true | st => readyFrozen st

/-- A hearth holds an ash log that module-wide events reach: it is not ABSENT or RETIRED (R437). -/
def present : HState → Bool
  | .absent => false | .retired => false | _ => true

/-- The number of a submission source's ring, if it is one. -/
def ringOf : Src → Option Nat
  | .ring n => some n
  | _ => none

/-- The end of every meaning: a next state. -/
def nextOf (s : State) : Host.Outcome State Fault Refusal := .next s

end Sys2Proof.Machine
end

