-- ==== Sys2Proof/Machine/Operands.lean ====
section
/-! DEFINITION. What the operands of a command name: parameter fields (R384), address words (R385), unit references
(R401, Table 2-20), the census (R20 to R25), the store slices (R236, R237) and the LPDDR6 map (R233, R241). -/

namespace Sys2Proof.Machine

/-! ### Parameter fields -/

/-- The n-byte parameter at byte offset off of a command (off at least 0x10; R384). -/
def fld (p : Pkt) (off n : Nat) : Nat := nbits p.par.toNat (8 * (off - 16) + 8 * n - 1) (8 * (off - 16))

/-- The hearths that a command names, rising (Table 12-4). -/
def named (p : Pkt) : List Nat := setBits 9 p.hearths.toNat

/-- The lowest hearth that a command names. -/
def named1 (p : Pkt) : Nat := (named p).headD 0

/-- The workload that a command names. -/
def wl (p : Pkt) : Nat := p.workload.toNat

/-- The SPACE bit of an address word (R385). -/
def spaceOf (w : Nat) : Bool := nbit w 63

/-- The host address of an address word. -/
def hostAddr (w : Nat) : Nat := nbits w 51 0

/-- The module address of an address word. -/
def modAddr (w : Nat) : Nat := nbits w 41 0

/-- The reserved bits of an address word (R385). -/
def addrReserved (w : Nat) : Nat := if spaceOf w then nbits w 62 42 else nbits w 62 52

/-! ### Unit references (Table 2-20, R216) -/

/-- The stream-reference kinds of Table 2-20. -/
def tileRef (v : Nat) : UnitRef := ⟨1, BitVec.ofNat 16 (v / 48 * 64 + v % 48)⟩

/-- A stoker thread 32g + t. -/
def threadRef (u : Nat) : UnitRef := ⟨2, BitVec.ofNat 16 u⟩

/-- The virtual index of a compute tile identifier die * 64 + row * 8 + vcol, when it names one. -/
def tileOfId (id : Nat) : Option Nat :=
  if id / 64 < 10 ∧ id % 64 < 48 then some (id / 64 * 48 + id % 64) else none

/-- The identifier of a compute tile. -/
def idOfTile (v : Nat) : Nat := v / 48 * 64 + v % 48

/-- The key of an output: kind, identifier, output index (R216). -/
def unitKey (u : UnitRef) (out : Nat) : Nat := u.kind.toNat * 2 ^ 20 + u.id.toNat * 2 ^ 4 + out

/-- The tile is a function tile: virtual columns 0 and 7. -/
def isFn (v : Nat) : Bool := v % 8 == 0 || v % 8 == 7

/-! ### The census (R20 to R25) -/

/-- Virtual positions of one row that exist, from the row's bad physical positions (R20, R21). -/
def rowMap (bad : Nat) : Nat :=
  let k := ((List.range 6).filter (fun i => !nbit bad (i + 1))).length
  let f0 := !nbit bad 0
  let f7 := !nbit bad 7
  (if f0 || f7 then 1 else 0) + (List.range k).foldl (fun a i => a + 2 ^ (i + 1)) 0 + (if f0 && f7 then 128 else 0)

/-- Virtual positions of a die that exist. -/
def dieMap (d : Die) : Nat :=
  (List.range 6).foldl (fun a r => a + 2 ^ (8 * r) * rowMap (nbits d.bad.toNat (8 * r + 7) (8 * r))) 0

/-- The die was fused off as a whole (R24). -/
def dieFused (d : Die) : Bool := dieMap d == 0

/-- RETIRED of Table 1-5. -/
def dieRetired (d : Die) : Nat := d.retired.toNat

/-- ENABLED of Table 1-4. -/
def dieEnabled (d : Die) : Nat := dieMap d &&& (2 ^ 48 - 1 - dieRetired d)

/-- A die of a hearth. -/
def dieOf (hh : Hearth) (d : Nat) : Die := mget {} hh.dies d

/-- A census entry: word 0 in bits [63:0], word 1 above it (Tables 1-4, 1-5). -/
def censusEntry (d : Die) : BitVec 128 :=
  let off := popcount 48 d.bad.toNat
  let state := if dieFused d then 2 else if d.down then 1 else 0
  let w0 := state * 2 ^ 60 + (if dieFused d then 48 else off) * 2 ^ 48 + (if dieFused d then 0 else dieEnabled d)
  let w1 := popcount 48 (dieRetired d) * 2 ^ 56 + dieRetired d
  BitVec.ofNat 128 (w1 * 2 ^ 64 + w0)

/-- The census of a hearth. -/
def census (hh : Hearth) : List (BitVec 128) := (List.range 10).map (fun d => censusEntry (dieOf hh d))

/-- A virtual tile position is enabled. -/
def tileEnabled (hh : Hearth) (v : Nat) : Bool := v < 480 && nbit (dieEnabled (dieOf hh (v / 48))) (v % 48)

/-- A virtual tile position exists (enabled or retired). -/
def tilePresent (hh : Hearth) (v : Nat) : Bool := v < 480 && nbit (dieMap (dieOf hh (v / 48))) (v % 48)

/-- The enabled tiles of a die mask, rising. -/
def tilesIn (hh : Hearth) (mask : Nat) : List Nat :=
  (setBits 10 mask).flatMap (fun d => (setBits 48 (dieEnabled (dieOf hh d))).map (fun b => 48 * d + b))

/-- Positions of vcol 0 and 7. -/
def fnMask : Nat := 0x818181818181

/-- Enabled matrix tiles and function tiles of a hearth. -/
def tileCounts (hh : Hearth) : Nat × Nat :=
  (List.range 10).foldl (fun a d =>
    let e := dieEnabled (dieOf hh d)
    let f := popcount 48 (e &&& fnMask)
    (a.1 + (popcount 48 e - f), a.2 + f)) (0, 0)

/-! ### Store slices (R236, R237) -/

/-- Slice i is in service. -/
def sliceIn (hh : Hearth) (i : Nat) : Bool := i < 512 && !hh.slicesOut.contains i

/-- Slices in service of group g, rising. -/
def groupSlices (hh : Hearth) (g : Nat) : List Nat :=
  ((List.range 16).map (fun i => 16 * g + i)).filter (sliceIn hh)

/-- S of R236. -/
def sliceCount (hh : Hearth) : Nat := 512 - hh.slicesOut.length

/-- D of R236. -/
def dataLines (hh : Hearth) : Nat := 4096 - ceilDiv 65536 (sliceCount hh)

/-- First address of the window of group g. -/
def winBase (g : Nat) : Nat := 0xF000000000 + g * 0x3E0000

/-- Bytes of the window of group g that are not absent. -/
def winLen (hh : Hearth) (g : Nat) : Nat := (groupSlices hh g).length * dataLines hh * 64

/-- The slice and line of a window address, when it is not absent. -/
def sliceOf (hh : Hearth) (a : Nat) : Option (Nat × Nat) :=
  let g := (a - 0xF000000000) / 0x3E0000
  let off := a - winBase g
  let q := groupSlices hh g
  if 0xF000000000 ≤ a ∧ g < 32 ∧ off < winLen hh g then
    some (q.getD (off / 64 % q.length) 0, off / 64 / q.length)
  else none

/-- Slices in service of a hearth, rising. -/
def slicesIn (hh : Hearth) : List Nat := (List.range 512).filter (sliceIn hh)

/-- First address of the spill window. -/
def spillBase : Nat := 0xF007C00000

/-- The slice and line of spill-window line j (R237). -/
def spillLine (hh : Hearth) (j : Nat) : Nat × Nat :=
  let q := slicesIn hh
  (q.getD (j % q.length) 0, dataLines hh + j / q.length)

/-! ### LPDDR6 (R233, R241) -/

/-- Sub-channels in service, rising. -/
def subsIn (hh : Hearth) : List Nat := (List.range 48).filter (fun i => !hh.subsOut.contains i)

/-- TOP of R233. -/
def topOf (hh : Hearth) : Nat := (48 - hh.subsOut.length) * 0x100000000 - 0xE000000

/-- The unit of an LPDDR6 or save-area address (R241). -/
def unitOf (a : Nat) : Nat := if 0xE000000000 ≤ a then (a - 0xE000000000) / 256 else (a + 0xE000000) / 256

/-- The sub-channel of a unit, and its offset, under the map with the given sub-channels. -/
def placeOf (subs : List Nat) (u : Nat) : Nat × Nat := (subs.getD (u % subs.length) 0, u / subs.length)

/-- The sub-channels of the map that serves unit u during a reshape (R249) or otherwise. -/
def mapFor (hh : Hearth) (u : Nat) : List Nat :=
  match hh.reshape with
  | none => subsIn hh
  | some r =>
    let other := (List.range 48).filter (fun i =>
      if i = r.sub then !r.leaving else !hh.subsOut.contains i)
    let top := ((subsIn hh).length - if r.leaving then 1 else 0) * 2 ^ 24
    let moved := if r.leaving then decide (r.next < u) else decide (u < r.next)
    if 4096 ≤ u ∧ u < top ∧ moved then other else subsIn hh

/-- The sub-channel that holds an address. -/
def subOf (hh : Hearth) (a : Nat) : Nat := (placeOf (mapFor hh (unitOf a)) (unitOf a)).1

/-- A place in a sub-channel (R241): the bank, the 256-byte block within the row, and the row. -/
structure DramPlace where
  sub : Nat
  bank : Nat
  block : Nat
  row : Nat
  deriving DecidableEq, Repr

/-- Where an LPDDR6 or save-area address lies (R241). -/
def dramOf (hh : Hearth) (a : Nat) : DramPlace :=
  let (p, o) := placeOf (mapFor hh (unitOf a)) (unitOf a)
  { sub := p, bank := nbits o 3 0, block := nbits o 8 4, row := nbits o 23 9 }

/-- The slice and line that hold an address: of a data window or the spill window, or of a unit below 4,096 that a reshape holds
in the spill window (R237, R249; there unit u takes lines 4u to 4u + 3: DESIGN CHOICE, log 132). -/
def sliceHolding (hh : Hearth) (a : Nat) : Option (Nat × Nat) :=
  if 0xF000000000 ≤ a then
    (match sliceOf hh a with
     | some x => some x
     | none => if spillBase ≤ a ∧ a < 0xF008000000 then some (spillLine hh ((a - spillBase) / 64)) else none)
  else if hh.reshape.isSome ∧ unitOf a < 4096 then some (spillLine hh (4 * unitOf a + a % 256 / 64))
  else none

/-! ### Addresses -/

/-- Regions of the hearth-local map (Table 8-1). -/
inductive Region8 where
  | lpddr | slice | save | spill | telemetry | absent
  deriving DecidableEq, Repr

/-- The region of a hearth-local address. -/
def regionOf (hh : Hearth) (a : Nat) : Region8 :=
  if a < topOf hh then .lpddr
  else if 0xE000000000 ≤ a ∧ a < 0xE00E000000 then .save
  else if (sliceOf hh a).isSome then .slice
  else if 0xF007C00000 ≤ a ∧ a < 0xF008000000 then .spill
  else if 0xF800000000 ≤ a ∧ a < 0xF800200000 then .telemetry
  else .absent

/-- All of [a, a + n) lies in the LPDDR6 range, or in data windows of the given groups (R184, R500). -/
def extentIn (hh : Hearth) (groups : Nat → Bool) (a n : Nat) : Bool :=
  let e := a + n - 1
  n == 0 || decide (e < topOf hh) ||
  (let g0 := (a - 0xF000000000) / 0x3E0000
   let g1 := (e - 0xF000000000) / 0x3E0000
   decide (0xF000000000 ≤ a) && decide (g1 < 32) &&
   (List.range (g1 + 1 - g0)).all (fun i =>
     let g := g0 + i
     groups g && decide (min e (winBase (g + 1) - 1) < winBase g + winLen hh g)))

/-- All of [a, a + n) lies in the LPDDR6 range or the data windows, any group. -/
def extentAny (hh : Hearth) (a n : Nat) : Bool := extentIn hh (fun _ => true) a n

/-- The hearth and local address of a module address (R267); none for a hole. -/
def localOf (s : State) (da : Nat) : Option (Nat × Nat) :=
  let h := da / 0x4000000000
  let o := da % 0x4000000000
  let a := if 0x3FF8000000 ≤ o then o - 0x3FF8000000 + 0xF000000000 else o
  let hh := hearthOf s h
  if h < 9 ∧ (a < topOf hh ∨ (sliceOf hh a).isSome) then some (h, a) else none

/-- The hearth-local form of a module address, with no test. -/
def localAddr (da : Nat) : Nat × Nat :=
  let o := da % 0x4000000000
  (da / 0x4000000000, if 0x3FF8000000 ≤ o then o - 0x3FF8000000 + 0xF000000000 else o)

/-- The offset of a hearth-local address in its hearth's window (R267). -/
def windowOffset (a : Nat) : Nat := if 0xF000000000 ≤ a then a - 0xF000000000 + 0x3FF8000000 else a

/-- A hearth whose memory commands may name (R385). -/
def memUsable : HState → Bool
  | .absent => false | .booting => false | .retired => false | _ => true

/-- A module-space buffer is legal (R385). -/
def modBufOk (s : State) (w n : Nat) : Bool :=
  let (h, a) := localAddr (modAddr w)
  let hh := hearthOf s h
  decide (h < 9) && memUsable hh.st && extentAny hh a n && decide (modAddr w % 0x4000000000 + n ≤ 0x4000000000)

/-! ### The frozen step's slices -/

/-- The slice groups that a context's region holds. -/
def regionGroups (r : Region) (g : Nat) : Bool := decide (r.sliceFirst ≤ g) && decide (g < r.sliceFirst + r.sliceGroups)

/-- The frozen step of a hearth. -/
def frozenStep (hh : Hearth) : Option Step := hh.steps.find? (fun x => x.state == .frozen)

/-- The slice windows of a hearth whose one step is frozen are served from the saved copy (R312, R373), in the groups that
were saved. -/
def savedAt (hh : Hearth) (a : Nat) : Bool :=
  hh.st == .frozen && hh.snap.isSome && (sliceOf hh a).isSome &&
    (match frozenStep hh with
     | some x => regionGroups (mget {} hh.ctxs x.ctx).region ((a - 0xF000000000) / 0x3E0000)
     | none => false)

/-- The hearth as an access at an address sees it. -/
def seenAt (hh : Hearth) (a : Nat) : Hearth :=
  match hh.snap with
  | some sn => if savedAt hh a then { hh with mem := sn.slices, wild := sn.wild, errs := sn.errs } else hh
  | none => hh

/-! ### The save area (R266, Table 8-9) -/

/-- First address of the save area. -/
def saveBase : Nat := 0xE000000000

/-- The SRAM slot of a compute tile in the save area: its first address and its bytes (R266). -/
def saveSram (v : Nat) : Nat × Nat :=
  let die := v / 48
  let row := v % 48 / 8
  let vcol := v % 8
  if vcol = 0 ∨ vcol = 7 then
    (saveBase + 0x3940000 + (12 * die + 2 * row + (if vcol = 7 then 1 else 0)) * 0x20000, 0x20000)
  else (saveBase + 0x100000 + (36 * die + 6 * row + vcol - 1) * 0x28000, 0x28000)

/-- The state slot of compute tile v: 16 KiB by virtual index. -/
def saveState (v : Nat) : Nat := saveBase + 0x4840000 + v * 0x4000

/-- The place of a slice's line: slices are saved physically by slice and line. -/
def saveSlice (i line : Nat) : Nat := saveBase + 0x4FC0000 + i * 0x40000 + 64 * line

/-- The base-die state: 4 MiB. -/
def saveDie : Nat := saveBase + 0xCFC0000

/-- The save buffer of flue port tile t: 14,336 records of 64 bytes. -/
def savePort (t : Nat) : Nat := saveBase + 0xD3C0000 + t * 0xE0000

/-- First address after the save area. -/
def saveEnd : Nat := saveBase + 0xE000000

/-- The place in the save area of a byte of a data window. -/
def saveOf (hh : Hearth) (a : Nat) : Option Nat := (sliceOf hh a).map (fun x => saveSlice x.1 x.2 + a % 64)

/-- The ranges of the save area that hold the bytes [lo, hi) of group g's window: at most one in each slice, since a slice's
lines of the window are consecutive lines of the slice (R237). -/
def saveRuns (hh : Hearth) (g lo hi : Nat) : List (Nat × Nat) :=
  let q := groupSlices hh g
  let k := q.length
  let lo := lo - winBase g
  let hi := hi - winBase g
  let first := lo / 64
  let stop := ceilDiv hi 64
  (List.range k).filterMap (fun j =>
    let f := first + (j + k - first % k) % k
    if stop ≤ f then none else
    let e := f + (stop - 1 - f) / k * k
    let i := q.getD j 0
    some (saveSlice i (f / k) + (lo - 64 * f), saveSlice i (e / k) + 64 - (64 * (e + 1) - hi)))

/-- The undefined ranges that lie in [lo, hi). -/
def clipWild (w : List (Nat × Nat × Nat)) (lo hi : Nat) : List (Nat × Nat × Nat) :=
  w.filterMap (fun x => if max lo x.1 < min hi x.2.1 then some (max lo x.1, min hi x.2.1, x.2.2) else none)

/-- The save area with the data lines of a region's slice groups written to it: what the windows hold, undefined bytes and
bad words with the rest (R343). -/
def writeSaved (hh : Hearth) (r : Region) (m : Mem) (w : List (Nat × Nat × Nat)) (errs : SMap (W64 × Byte)) : Hearth :=
  let gs := (List.range 32).filter (regionGroups r)
  let runs := gs.flatMap (fun g => saveRuns hh g (winBase g) (winBase g + winLen hh g))
  let inRuns (a : Nat) : Bool := runs.any (fun x => decide (x.1 ≤ a) && decide (a < x.2))
  let holes := gs.flatMap (fun g => (clipWild w (winBase g) (winBase g + winLen hh g)).flatMap (fun x =>
    (saveRuns hh g x.1 x.2.1).map (fun y => (y.1, y.2, x.2.2))))
  let mine (a : Nat) : Bool := regionGroups r ((a - 0xF000000000) / 0x3E0000)
  { hh with
    mem := m.foldl (fun n y => match saveOf hh y.1 with
      | some b => if mine y.1 then memPut n b y.2 else n
      | none => n) (hh.mem.filter (fun y => !inRuns y.1))
    wild := holes ++ runs.foldl (fun w x => unwild w x.1 x.2) hh.wild
    errs := errs.foldl (fun n y => match saveOf hh (8 * y.1) with
      | some b => if mine (8 * y.1) then mput (0, 0) n (b / 8) y.2 else n
      | none => n) (hh.errs.filter (fun y => !inRuns (8 * y.1))) }

/-- Put back what an access at an address changed: in the saved copy of the slices and in the save area that holds it
(R312). -/
def putSeen (hh : Hearth) (a : Nat) (x : Hearth) : Hearth :=
  match hh.snap, frozenStep hh with
  | some sn, some f =>
    if savedAt hh a then
      let y := { x with
        mem := hh.mem, wild := hh.wild, errs := hh.errs
        snap := some { sn with slices := x.mem, wild := x.wild, errs := x.errs } }
      writeSaved y (mget {} hh.ctxs f.ctx).region x.mem x.wild x.errs
    else x
  | _, _ => x

/-! ### What must remain (R33, R34) -/

/-- An off-package port or on-package link is in service. -/
def portIn (hh : Hearth) (t : Nat) : Bool := t < 14 && !hh.portsOut.contains t

/-- The hearth's remaining units form the compute set of Table 1-10. A channel counts while either of its
sub-channels is in service. DEDUCED, log 18. -/
def computeSet (hh : Hearth) : Bool :=
  (List.range 32).any (fun g => (groupSlices hh g).length == 16) &&
  decide (hh.subsOut.length < 48) &&
  (List.range 10).any (fun d =>
    let e := dieEnabled (dieOf hh d)
    let f := e &&& fnMask
    f != 0 && e != f)

end Sys2Proof.Machine
end

