-- ==== Sys2Proof/Machine/Log.lean ====
section
/-! DEFINITION. The ash log (R435 to R437, R501), the buckets of events (R423, R424) and the bytes of a record
(Tables 13-14 to 13-18). -/

namespace Sys2Proof.Machine

/-- A unit path (Table 13-16) without MODULE and HEARTH: kind, die, row, vcol, index, lane. -/
def pathOf (kind die row vcol index lane : Nat) : Nat :=
  kind * 2 ^ 37 + die * 2 ^ 33 + row * 2 ^ 30 + vcol * 2 ^ 27 + index * 2 ^ 17 + lane * 2 ^ 15

/-- The unit path of a compute tile. -/
def tilePath (v : Nat) : Nat := pathOf 2 (v / 48) (v % 48 / 8) (v % 8) 0 0

/-- The unit path of a peer context: index bits [17:3] in [14:0], [2:0] in INDEX. -/
def ctxPath (c : Nat) : Nat := pathOf 14 0 0 0 (c % 8) 0 + c / 8 % 2 ^ 15

/-- The unit path of a unit of Table 2-20. -/
def refPath (u : UnitRef) : Nat :=
  if u.kind = 1 then tilePath ((tileOfId u.id.toNat).getD 0)
  else if u.kind = 2 then pathOf 11 0 0 0 u.id.toNat 0
  else if u.kind = 3 then pathOf 8 0 0 0 u.id.toNat 0
  else pathOf 5 0 0 0 (u.id.toNat / 512) 0

/-- The severity of a class (Table 13-17). -/
def severity (cls : Nat) : Nat :=
  if cls ∈ [0x0001, 0x0002, 0x0010, 0x0021, 0x0032, 0x0040] then 2
  else if cls ∈ [0x0005, 0x0020, 0x0030, 0x0031, 0x0055, 0x0071] then 3
  else if cls ∈ [0x0011, 0x0022, 0x0063, 0x0080] then 1
  else 0

/-- A DETAIL from little-endian fields (offset, bytes, value). -/
def detailOf (fs : List (Nat × Nat × Nat)) : BitVec 2048 :=
  BitVec.ofNat 2048 (fs.foldl (fun a (x : Nat × Nat × Nat) => a + x.2.2 % 2 ^ (8 * x.2.1) * 2 ^ (8 * x.1)) 0)

/-- Write a record into a hearth's log: the next sequence number, its slot, SIG_NEW (R435). `path` of the record
lacks MODULE and HEARTH, which are filled here (HEARTH 0xF for a mantel unit, KIND 10 or 13). -/
def logRec (e : Env) (hh : Hearth) (r : AshRec) : Hearth :=
  let kind := nbits r.path.toNat 41 37
  let hn := if kind = 10 ∨ kind = 13 then 15 else e.h
  let r' := { r with
    path := BitVec.ofNat 64 ((if hh.idValid then hh.moduleId.toNat else 0) * 2 ^ 46 + hn * 2 ^ 42
      + nbits r.path.toNat 41 0)
    time := e.now
    env := e.env
    flags := r.flags ||| (if e.locked then 4 else 0)
    seq := hh.ashNext
    originSeq := hh.ashNext }
  { hh with ash := mput { cls := 0 } hh.ash (hh.ashNext % 4096) r', ashNext := hh.ashNext + 1, sigNew := true }

/-- A plain record: class, unit path, syndrome and detail. -/
def logOf (e : Env) (hh : Hearth) (cls path syn : Nat) (det : BitVec 2048) : Hearth :=
  logRec e hh { cls := cls, path := BitVec.ofNat 64 path, syndrome := BitVec.ofNat 64 syn, detail := det }

/-- A record that concerns a step: STEP and IMAGE are filled and STEP_VALID is set (Table 13-15). -/
def logStep (e : Env) (hh : Hearth) (st : Option Step) (tag : W16) (cls path syn : Nat) (det : BitVec 2048) : Hearth :=
  match st with
  | none => logOf e hh cls path syn det
  | some x => logRec e hh
    { cls := cls, flags := 2, path := BitVec.ofNat 64 path, syndrome := BitVec.ofNat 64 syn, detail := det
      step := BitVec.ofNat 64 (x.workload * 2 ^ 48 + x.sec % 64 * 2 ^ 42 + x.ctx % 4 * 2 ^ 40 + tag.toNat * 2 ^ 24)
      image := BitVec.ofNat 64 (mget {} hh.ctxs x.ctx).digest.toNat }

/-- A record in the log of every hearth that is not ABSENT or RETIRED (R437). -/
def logAll (s : State) (cls path syn : Nat) (det : BitVec 2048) : State :=
  onHearths s (allHearths.filter (fun h => present (hearthOf s h).st)) (fun e hh => logOf e hh cls path syn det)

/-! ### Buckets (R423) -/

/-- The bucket of a unit: its unit-path kind and index (Table 13-16). -/
def bucketKey (kind idx : Nat) : Nat := kind * 1024 + idx

/-- W of Table 13-10, in minutes. -/
def bucketMinutes (key : Nat) : Nat :=
  let k := key / 1024
  if k = 6 then 60 else if k = 0 ∨ k = 10 then 10080 else 1440

/-- Count one event: the bucket's level after it, and whether it makes the fault permanent (R423). -/
def countEvent (e : Env) (hh : Hearth) (key : Nat) : Hearth × Nat × Bool :=
  let b := mget [] hh.buckets key
  ({ hh with buckets := mput [] hh.buckets key (b ++ [e.now]) }, b.length + 1, decide (2 ≤ b.length))

/-- Empty a unit's bucket. -/
def emptyBucket (hh : Hearth) (key : Nat) : Hearth := { hh with buckets := mput [] hh.buckets key [] }

/-! ### The bytes of a record -/

/-- Two decimal digits as BCD. -/
def bcd (n : Nat) : Nat := n / 10 % 10 * 16 + n % 10

/-- Year, month and day of a day number counted from 1970-01-01. -/
def civil (days : Nat) : Nat × Nat × Nat :=
  let z := days + 719468
  let era := z / 146097
  let doe := z % 146097
  let yoe := (doe - doe / 1460 + doe / 36524 - doe / 146096) / 365
  let doy := doe - (365 * yoe + yoe / 4 - yoe / 100)
  let mp := (5 * doy + 2) / 153
  let d := doy - (153 * mp + 2) / 5 + 1
  let m := if mp < 10 then mp + 3 else mp - 9
  (yoe + era * 400 + (if m ≤ 2 then 1 else 0), m, d)

/-- The CPER timestamp of a count of nanoseconds since 1970 (Table 13-14; the field layout is UEFI's. PRESUMED,
log 19). -/
def cperTime (ns : Nat) : List Byte :=
  let sec := ns / 1000000000
  let (y, m, d) := civil (sec / 86400)
  [bcd (sec % 60), bcd (sec / 60 % 60), bcd (sec / 3600 % 24), 1, bcd d, bcd m, bcd (y % 100), bcd (y / 100)].map
    (BitVec.ofNat 8)

/-- The creator ID, in the byte order UEFI defines (PRESUMED, log 19). -/
def perevGuid : List Byte :=
  [0x3E, 0x0C, 0x1F, 0x6A, 0xD7, 0x52, 0x8E, 0x4B, 0x9F, 0x04, 0x7D, 0x21, 0xC5, 0xE8, 0xA9, 0x13]

/-- n zero bytes. -/
def zeros (n : Nat) : List Byte := List.replicate n 0

/-- A forwarded record as its log holds it: its bytes with FLAGS.FORWARDED set and this log's sequence number as record ID
(R439). -/
def rawBytes (raw : BitVec 4096) (seq : Nat) : List Byte :=
  let bs := leBytes 512 raw.toNat
  bs.take 96 ++ leBytes 8 seq ++ (bs.drop 104).take 99 ++ [bs.getD 203 0 ||| 1] ++ bs.drop 204

/-- The 512 bytes of a record in the log of hearth h (R436). The header layout is UEFI's (PRESUMED, log 19). -/
def ashBytes (h : Nat) (serial : W64) (r : AshRec) : List Byte :=
  if r.seq = 0 then zeros 512 else
  match r.raw with
  | some b => rawBytes b r.seq
  | none =>
  let timed := r.flags &&& 4 == 4
  [0x43, 0x50, 0x45, 0x52] ++ leBytes 2 0x0101 ++ leBytes 4 0xFFFFFFFF ++ leBytes 2 1 ++ leBytes 4 (severity r.cls)
  ++ leBytes 4 (if timed then 2 else 0) ++ leBytes 4 512 ++ (if timed then cperTime r.time else zeros 8)
  ++ zeros 32 ++ perevGuid ++ perevGuid ++ leBytes 8 r.seq ++ zeros 4 ++ leBytes 8 r.originSeq ++ zeros 12
  ++ leBytes 4 200 ++ leBytes 4 312 ++ leBytes 2 0x0100 ++ [3, 0] ++ leBytes 4 1 ++ perevGuid
  ++ leBytes 8 serial.toNat ++ zeros 8 ++ leBytes 4 (severity r.cls)
  ++ [0x4A, 0x41, 0x52, 0x44, 0x45, 0x49, 0x46, 0x20, 0x48, BitVec.ofNat 8 (0x30 + h)] ++ zeros 10
  ++ leBytes 2 r.cls ++ [1, r.flags] ++ leBytes 4 (r.level % 256 + r.window * 256) ++ leBytes 8 r.time
  ++ leBytes 8 r.path.toNat ++ leBytes 8 r.syndrome.toNat ++ leBytes 8 r.step.toNat ++ leBytes 8 r.image.toNat
  ++ leBytes 8 r.env.toNat ++ leBytes 256 r.detail.toNat

/-- Records held, with sequence numbers at least lo, in sequence order. -/
def heldFrom (hh : Hearth) (lo : Nat) : List AshRec :=
  ((List.range 4096).map (fun i => hh.ashNext - 4096 + i)).filterMap (fun q =>
    let r := mget { cls := 0 } hh.ash (q % 4096)
    if r.seq = q ∧ 1 ≤ q ∧ lo ≤ q then some r else none)

end Sys2Proof.Machine
end

