-- ==== Sys2Proof/Machine/Fabric.lean ====
section
/-! DEFINITION. Cells on the flue: the header codec (Table 9-5), CRC-32C (R284), routing (R317), peer contexts (R292 to
R296), queues (R314), acknowledgement and resend (R297, R298). -/

namespace Sys2Proof.Machine

/-! ### Cells -/

/-- One byte into the reflected CRC-32C register. -/
def crcByte (c : W32) (b : Byte) : W32 :=
  (List.range 8).foldl (fun c _ => if c.getLsbD 0 then (c >>> 1) ^^^ 0x82F63B78 else c >>> 1)
    (c ^^^ b.setWidth 32)

/-- CRC-32C (R284). -/
def crc32c (bs : List Byte) : W32 := bs.foldl crcByte 0xFFFFFFFF ^^^ 0xFFFFFFFF

/-- The fields of a cell header (Table 9-5). -/
structure Hdr where
  dstModule : Nat
  dstHearth : Nat
  dstEp : Nat := 0
  srcModule : Nat
  srcHearth : Nat
  srcEp : Nat := 0
  net : Nat
  cls : Nat
  type : Nat
  len : Nat
  seq : Nat := 0
  epoch : Nat := 0
  spare : Nat := 0
  deriving DecidableEq, Repr

/-- Read a header. -/
def hdrOf (c : Cell) : Hdr :=
  let x := c.hdr.toNat
  { dstModule := nbits x 95 78, dstHearth := nbits x 77 74, dstEp := nbits x 73 65, srcModule := nbits x 64 47,
    srcHearth := nbits x 46 43, srcEp := nbits x 42 34, net := nbits x 33 33, cls := nbits x 32 31,
    type := nbits x 30 27, len := nbits x 26 23, seq := nbits x 22 7, epoch := nbits x 6 4, spare := nbits x 3 0 }

/-- Write a header. -/
def packHdr (h : Hdr) : BitVec 96 :=
  BitVec.ofNat 96 (h.dstModule % 2 ^ 18 * 2 ^ 78 + h.dstHearth % 16 * 2 ^ 74 + h.dstEp % 512 * 2 ^ 65
    + h.srcModule % 2 ^ 18 * 2 ^ 47 + h.srcHearth % 16 * 2 ^ 43 + h.srcEp % 512 * 2 ^ 34 + h.net % 2 * 2 ^ 33
    + h.cls % 4 * 2 ^ 31 + h.type % 16 * 2 ^ 27 + h.len % 16 * 2 ^ 23 + h.seq % 65536 * 2 ^ 7 + h.epoch % 8 * 16
    + h.spare % 16)

/-- TCW of a TOKEN cell: TCW[34:4] in header bits [64:34], TCW[3:0] in [26:23] (R287). -/
def tcwOf (c : Cell) : Nat := nbits c.hdr.toNat 64 34 * 16 + nbits c.hdr.toNat 26 23

/-- A TOKEN header with its control field. -/
def tokenHdr (h : Hdr) (tcw : Nat) : BitVec 96 :=
  packHdr { h with srcModule := tcw / 2 ^ 17, srcHearth := tcw / 2 ^ 13, srcEp := tcw / 16, len := tcw }

/-- The 44 bytes under the CRC. -/
def cellBytes (c : Cell) : List Byte := leBytes 12 c.hdr.toNat ++ leBytes 32 c.payload.toNat

/-- The CRC of a cell; a TOKEN cell's covers the source's identity too (R287). -/
def cellCrc (c : Cell) (src : Option Nat) : W32 :=
  crc32c (cellBytes c ++ match src with | some i => leBytes 4 i | none => [])

/-- The identity of a source: module, hearth and endpoint from bit 0 upwards (R287). -/
def identityOf (m h e : Nat) : Nat := m % 2 ^ 18 + h % 16 * 2 ^ 18 + e % 512 * 2 ^ 22

/-- An idle cell (R275). -/
def isIdle (c : Cell) : Bool := c.hdr == 0 && c.payload == 0 && c.crc == 0xFFFFFFFF

/-- The payload from bytes. -/
def payloadOf (bs : List Byte) : BitVec 256 := BitVec.ofNat 256 (ofLE (bs.take 32))

/-- Bytes [lo, lo + n) of a payload as a number. -/
def pay (c : Cell) (lo n : Nat) : Nat := nbits c.payload.toNat (8 * (lo + n) - 1) (8 * lo)

/-- Whether a type is sequenced (Table 9-6). -/
def sequenced (ty : Nat) : Bool := ty != 3 && ty != 9

/-- LENGTH is one that Table 9-8 to Table 9-10 allow for the type. -/
def lenOk (ty len : Nat) : Bool :=
  match ty with
  | 0 => 3 ≤ len && len ≤ 8
  | 1 => len == 4
  | 2 => 1 ≤ len && len ≤ 8
  | 3 => len == 2
  | 4 => len == 8
  | 5 => len == 8
  | 6 => len == 1
  | 7 => len == 1
  | 8 => 2 ≤ len && len ≤ 8
  | 9 => len == 8
  | 10 => len == 8
  | 11 => len == 8
  | 12 => true
  | 13 => len == 4
  | _ => false

/-- NETWORK and CLASS match Table 9-6; "entry" classes may be bulk or control. -/
def netOk (ty net cls : Nat) : Bool :=
  match ty with
  | 0 => net == 0 && cls < 2
  | 1 => net == 0 && cls < 2
  | 2 => net == 1 && cls == 0
  | 3 => net == 1 && cls == 1
  | 4 => net == 0 && cls == 1
  | 5 => net == 1 && cls == 1
  | 6 => net == 0 && cls == 1
  | 7 => net == 1 && cls == 1
  | 8 => net == 0 && cls < 2
  | 9 => cls == 1
  | 10 => net == 0 && cls == 0
  | 11 => net == 0 && cls == 0
  | 12 => net == 0 && cls < 2
  | 13 => net == 1 && cls == 1
  | _ => false

/-- A malformed cell (R286). -/
def malformed (c : Cell) : Bool :=
  let h := hdrOf c
  !netOk h.type h.net h.cls || !lenOk h.type h.len || (9 ≤ h.dstHearth && h.dstHearth ≤ 14)

/-! ### Routing (R15, R317) -/

/-- The port tile of the on-package link from hearth h to hearth p (R15). -/
def linkTile (h p : Nat) : Nat := 6 + (if p < h then p else p - 1)

/-- The hearth at the far end of on-package port tile t of hearth h. -/
def farHearth (h t : Nat) : Nat := if t - 6 < h then t - 6 else t - 5

/-- Slots of a receive buffer: of port tile t, channel c (Table 9-3). -/
def rxSlots (t c : Nat) : Nat := if t < 6 then (if c % 2 = 0 then 3584 else 512) else (if c % 2 = 0 then 1792 else 256)

/-- The credits of a sender at FLUE_UP (R277). -/
def fullCredits (t : Nat) : SMap Nat := (List.range 4).map (fun c => (c, rxSlots t c))

/-- A port tile's link is UP. -/
def portUp (hh : Hearth) (t : Nat) : Bool := (mget {} hh.ports t).st == .up

/-- The route entry towards a module (R317). -/
def routeEntry (hh : Hearth) (m : Nat) : Nat :=
  if m / 32 = hh.moduleId.toNat / 32 then (mget 0 hh.routeLocal (m % 32)).toNat
  else (mget 0 hh.routeGroup (m / 32)).toNat

/-- The port tile of hearth h towards module port p: its own, or the link to the port's hearth. -/
def tileOfPort (h p : Nat) : Nat := if p / 6 = h then p % 6 else linkTile h (p / 6)

/-- Module port p is UP, and hearth h reaches it: over the on-package link when it is another hearth's. The hearths of a module
know one another's ports (log 136). -/
def portReach (h : Nat) (hh : Hearth) (p : Nat) : Bool :=
  portUp hh (tileOfPort h p) && (p / 6 == h || nbit hh.modulePorts p)

/-- The port tile a cell leaves by, or none while it must wait (R317 to R319). `atSource` is false for a cell of another
module. -/
def routeOf (h : Nat) (hh : Hearth) (m d c : Nat) (atSource : Bool) : Option Nat :=
  if m = hh.moduleId.toNat then (if d = h ∨ 9 ≤ d then none else some (linkTile h d))
  else
    let e := routeEntry hh m
    if !nbit e 63 then none else
    let mn := nbits e 60 55
    let al := nbits e 54 49
    let (a, b) := if atSource && nbit (nbits e 48 45) c then (al, mn) else (mn, al)
    if portReach h hh a then some (tileOfPort h a)
    else if atSource && portReach h hh b then some (tileOfPort h b)
    else none

/-! ### Peer contexts (R292, R295) -/

/-- The index of a peer's context (R292). -/
def ctxIndex (m h c : Nat) : Nat := 4 * ((9 * m + h) % 65536) + c

/-- The index of a link-local context (R300). -/
def linkCtx (t c : Nat) : Nat := 262144 + 4 * t + c

/-- The channel of a header (R289). -/
def chanOf (h : Hdr) : Nat := 2 * h.net + h.cls % 2

/-- The epoch of a hearth (R295). -/
def epochOf (hh : Hearth) : Nat := (hh.epochBase + hh.resets) % 8

/-- A peer context. -/
def peerOf (hh : Hearth) (i : Nat) : PeerCtx := mget {} hh.peers i

/-- A context that serves this peer now. -/
def serves (p : PeerCtx) (m d : Nat) : Bool := p.peerModule == m && p.peerHearth == d

/-- Replace a peer context. -/
def putPeer (hh : Hearth) (i : Nat) (p : PeerCtx) : Hearth := { hh with peers := mput {} hh.peers i p }

/-! ### Queues -/

/-- A flue port tile. -/
def fport (hh : Hearth) (t : Nat) : FPort := mget {} hh.ports t

/-- Replace a flue port tile. -/
def putPort (hh : Hearth) (t : Nat) (p : FPort) : Hearth := { hh with ports := mput {} hh.ports t p }

/-- A link is UP, or in the resynchronisation of a link that is. -/
def linkUp (hh : Hearth) (t : Nat) : Bool := (fport hh t).st == .up || (fport hh t).st == .resync

/-- A cell frees the receive-buffer slot that it came in by (R276). -/
def freeSlot (hh : Hearth) (port : Option Nat) (c : Nat) : Hearth :=
  match port with
  | none => hh
  | some t => putPort hh t { fport hh t with owed := mupd 0 (fport hh t).owed c (· + 1) }

/-- Transit cells of a hearth that came in by port tile t on channel c and still hold their slot. -/
def heldSlots (hh : Hearth) (t c : Nat) : Nat :=
  hh.ports.foldl (fun a x => a + ((mget [] x.2.transit c).filter (fun q => q.port == some t)).length) 0

/-- Drop every transit cell of a hearth, freeing the slots. -/
def dropTransit (hh : Hearth) : Hearth :=
  let held := (List.range 14).flatMap (fun t => (List.range 4).map (fun c => (t, c, heldSlots hh t c)))
  let hh := { hh with ports := mmap {} (fun _ p => { p with transit := [] }) hh.ports }
  held.foldl (fun hh x => if x.2.2 = 0 then hh else
    putPort hh x.1 { fport hh x.1 with owed := mupd 0 (fport hh x.1).owed x.2.1 (· + x.2.2) }) hh

/-- The cells on the link from port tile t of a hearth, by channel. -/
def onLink (hh : Hearth) (t c : Nat) : List LinkCell := hh.sent.filter (fun x => x.port == t && x.chan == c)

/-- Cells in a port tile's injection queue. -/
def injCount (p : FPort) : Nat := p.inj.foldl (fun a x => a + x.2.length) 0

/-- Slots of a channel's injection queue (R314). -/
def injSlots : Nat := 1024

/-- The damper level rises as soon as occupancy crosses a threshold; a hearth whose damper is off keeps level 0 (R314,
Table 9-15). -/
def damperRise (hh : Hearth) (p : FPort) : FPort :=
  if !hh.damperEn then { p with damper := 0 } else
  let n := injCount p
  let l := if 3687 ≤ n then 3 else if 3072 ≤ n then 2 else if 2048 ≤ n then 1 else 0
  { p with damper := max p.damper l }

/-- A channel's injection queue is replaced, and the damper follows. -/
def putInj (hh : Hearth) (t c : Nat) (l : List QCell) : Hearth :=
  let p := fport hh t
  putPort hh t (damperRise hh { p with inj := mput [] p.inj c l })

/-- Put a cell at the end of the injection queue of a port tile, or keep it at its endpoint while the queue is full
(R314). -/
def enqAt (hh : Hearth) (t c : Nat) (q : QCell) : Hearth :=
  let l := mget [] (fport hh t).inj c
  if l.length < injSlots then putInj hh t c (l ++ [q])
  else { hh with noPath := hh.noPath ++ [{ q with port := some t }] }

/-- Put cells before the others of an injection queue; the last ones beyond its slots go back to wait at their endpoints. -/
def enqFront (hh : Hearth) (t c : Nat) (qs : List QCell) : Hearth :=
  let l := qs ++ mget [] (fport hh t).inj c
  let hh := putInj hh t c (l.take injSlots)
  { hh with noPath := (l.drop injSlots).map (fun q => { q with port := some t }) ++ hh.noPath }

/-- Cells of a context that wait unnumbered in a port tile's queue. -/
def queuedFor (p : FPort) (ctx : Nat) : Bool := p.inj.any (fun x => x.2.any (fun q => q.seqd && q.ctx == ctx))

/-- The port tile by which a hearth sends to a module and hearth on a channel: a cell to itself loops back in port tile 6
(R317, R318; the tile: log 137). -/
def wayOf (h : Nat) (hh : Hearth) (m d c : Nat) : Option Nat :=
  if m = hh.moduleId.toNat ∧ d = h then some 6 else routeOf h hh m d c true

/-- Send a cell on its way: to the queue of the port its route gives, or waiting while there is none, while the path of
its destination and channel changes with cells of the context unacknowledged (R290), or behind a cell that waits. -/
def enq (h : Nat) (hh : Hearth) (q : QCell) : Hearth :=
  let c := chanOf (hdrOf q.cell)
  match q.port with
  | some t => enqAt hh t c q
  | none =>
    match wayOf h hh q.dstModule q.dstHearth c with
    | none => { hh with noPath := hh.noPath ++ [q] }
    | some t =>
      let p := peerOf hh q.ctx
      let mine := q.seqd || serves p q.dstModule q.dstHearth
      let blocked := hh.noPath.any (fun x => x.ctx == q.ctx && x.dstModule == q.dstModule && x.dstHearth == q.dstHearth)
      let busy := p.ack != p.send || (hh.ports.any (fun x => x.1 != t && queuedFor x.2 q.ctx))
      if blocked ∨ (mine ∧ p.port ≠ t + 1 ∧ p.port ≠ 0 ∧ busy) then { hh with noPath := hh.noPath ++ [q] }
      else
        let hh := if q.seqd then putPeer hh q.ctx { p with port := t + 1 } else hh
        enqAt hh t c q

/-- Try again every cell that waits for a path or for room, in order. -/
def requeue (h : Nat) (hh : Hearth) : Hearth :=
  hh.noPath.foldl (fun hh q => enq h hh q) { hh with noPath := [] }

/-- Where a cell goes. -/
inductive Dest where
  | peer (m h : Nat)
  | link (t : Nat)
  deriving DecidableEq, Repr

/-- A module without an id sends link-local cells alone (R300). -/
def maySend (hh : Hearth) (d : Dest) : Bool := hh.idValid || (match d with | .link _ => true | .peer _ _ => false)

/-- Send a cell of hearth h. A token's control field replaces the source fields (R287); the CRC is written when the
sequence number is known. -/
def sendCell (h : Nat) (hh : Hearth) (d : Dest) (ty net cls dstEp len spare : Nat) (payload : List Byte)
    (ep : Option Nat := none) (tcw : Option Nat := none) (sched : Option Nat := none) : Hearth :=
  if !maySend hh d then hh else
  let (m, dh) := match d with | .peer m dh => (m, dh) | .link _ => (0, 15)
  let srcE := ep.getD 0
  let hd : Hdr :=
    { dstModule := m, dstHearth := dh, dstEp := dstEp, srcModule := hh.moduleId.toNat
      srcHearth := if hh.idValid then h else 15
      srcEp := srcE, net := net, cls := cls, type := ty, len := len, spare := spare }
  let bits := match tcw with | some w => tokenHdr hd w | none => packHdr hd
  let ctx := match d with | .peer m dh => ctxIndex m dh (2 * net + cls) | .link t => linkCtx t (2 * net + cls)
  let src := match tcw with | some _ => some (identityOf hh.moduleId.toNat h srcE) | none => none
  let cell : Cell := { hdr := bits, payload := payloadOf payload, crc := 0 }
  let cell := if sequenced ty then cell else { cell with crc := cellCrc cell src }
  enq h hh { cell := cell, ctx := ctx, dstModule := m, dstHearth := dh, seqd := sequenced ty, ep := ep
             sched := sched, tokenSrc := src, port := match d with | .link t => some t | .peer _ _ => none }

/-- An ACK record (Table 9-9) for a context, to its peer. -/
def sendAck (h : Nat) (hh : Hearth) (i : Nat) (kind epoch seq map : Nat) : Hearth :=
  let p := peerOf hh i
  let d := if 262144 ≤ i then Dest.link ((i - 262144) / 4) else Dest.peer p.peerModule p.peerHearth
  sendCell h hh d 3 1 1 0 2 0
    (leBytes 8 (kind * 2 ^ 60 + i % 4 * 2 ^ 58 + epoch % 8 * 2 ^ 48 + seq % 65536 * 2 ^ 32 + map % 2 ^ 32))

/-- An ACK of what a context has delivered (R297). -/
def ackNow (h : Nat) (hh : Hearth) (i : Nat) : Hearth :=
  let p := peerOf hh i
  sendAck h (putPeer hh i { p with sinceAck := 0 }) i 0 0 p.expect.toNat p.rxmap.toNat

/-- A NACK, at most once per 2 µs per context (R297). -/
def nackNow (e : Env) (hh : Hearth) (i : Nat) : Hearth :=
  let p := peerOf hh i
  match p.lastNack with
  | some t => if e.now < t + 2000 then hh else
    sendAck e.h (putPeer hh i { p with lastNack := some e.now, sinceAck := 0 }) i 1 0 p.expect.toNat p.rxmap.toNat
  | none => sendAck e.h (putPeer hh i { p with lastNack := some e.now, sinceAck := 0 }) i 1 0 p.expect.toNat
      p.rxmap.toNat

/-- Take away the copies of a context's cells that wait to be sent again. -/
def dropResends (hh : Hearth) (i : Nat) : Hearth :=
  let mine (q : QCell) : Bool := q.resend && q.ctx == i
  { hh with
    ports := mmap {} (fun _ f => { f with inj := mmap [] (fun _ l => l.filter (fun q => !mine q)) f.inj }) hh.ports
    noPath := hh.noPath.filter (fun q => !mine q) }

/-- The cells of a context in the pool with sequence numbers in a list, in that order, put back in its queue as exact
copies (R298). -/
def resendSeqs (h : Nat) (hh : Hearth) (i : Nat) (seqs : List W16) : Hearth :=
  let p := peerOf hh i
  let cells := seqs.filterMap (fun q => hh.pool.find? (fun x => x.ctx == i && x.seq == q))
  let c := i % 4
  let t := if 262144 ≤ i then some ((i - 262144) / 4) else wayOf h hh p.peerModule p.peerHearth c
  let qs := cells.map (fun x =>
    { cell := x.cell, ctx := i, dstModule := p.peerModule, dstHearth := p.peerHearth, resend := true, ep := x.ep })
  match t with
  | none => hh
  | some t => enqFront (dropResends hh i) t c qs

/-- The set R298 resends: SEQ, every SEQ + 1 + k below SEND whose MAP bit is clear for k 0 to 31, and SEQ + 33 on. -/
def resendSet (seq send : W16) (map : W32) : List W16 :=
  let n := (send - seq).toNat
  (List.range n).filterMap (fun k =>
    if k = 0 ∨ 33 ≤ k ∨ !nbit map.toNat (k - 1) then some (seq + BitVec.ofNat 16 k) else none)

/-- Free the pool slots of some cells (ledger 3). -/
def freePool (hh : Hearth) (f : PoolCell → Bool) : Hearth :=
  { hh with pool := hh.pool.filter (fun x => !f x), poolFree := hh.poolFree + (hh.pool.filter f).length }

/-- Free the pool cells that an acknowledgement passes (R298). -/
def freeAcked (hh : Hearth) (i : Nat) (ack seq : W16) : Hearth :=
  let n := (seq - ack).toNat
  freePool hh (fun x => x.ctx == i && (x.seq - ack).toNat < n)

/-- Whether SEQ lies beyond ACK and not beyond SEND. -/
def beyond (p : PeerCtx) (seq : W16) : Bool :=
  (seq - p.ack).toNat != 0 && (seq - p.ack).toNat ≤ (p.send - p.ack).toNat

/-- Take the SEQ and MAP of an ACK or NACK (R298). -/
def takeAck (hh : Hearth) (i : Nat) (seq : W16) (map : W32) : Hearth :=
  let p := peerOf hh i
  if beyond p seq then
    let hh := freeAcked hh i p.ack seq
    putPeer hh i { p with ack := seq, retry := 0, lastMap := map }
  else if seq = p.ack then putPeer hh i { p with lastMap := map } else hh

/-- Take the other end's OPEN or OPEN_ACK (R294). -/
def takeOpen (hh : Hearth) (i : Nat) (m h epoch : Nat) (seq : W16) : Hearth :=
  let p := peerOf hh i
  let p' := { p with
    peerModule := m, peerHearth := h, st := .open, rxEpoch := epoch, txEpoch := epochOf hh, expect := seq
    rxmap := 0, held := 0, sinceAck := 0, retry := 0, lastMap := 0 }
  { putPeer hh i p' with
    reorder := hh.reorder.filter (fun x => x.1 != i) }

/-- A context can serve the peer: it is CLOSED or LOST, or already the peer's (R292). -/
def ctxFree (p : PeerCtx) (m h : Nat) : Bool :=
  (p.st == .closed || p.st == .lost) || (p.peerModule == m && p.peerHearth == h)

/-- Begin to open a context (R294). -/
def openCtx (h : Nat) (hh : Hearth) (i m d : Nat) : Hearth :=
  let p := peerOf hh i
  let hh := putPeer hh i { p with peerModule := m, peerHearth := d, st := .opening, txEpoch := epochOf hh, retry := 0 }
  sendAck h hh i 2 (epochOf hh) p.send.toNat 0

/-- The result of offering an arriving sequenced cell to its context (R295, R296): the cells to deliver, in order. The memory
service takes cells of OPEN contexts only, so a WRITE or READ_REQ on another is discarded and comes again (R308). -/
def acceptSeq (e : Env) (hh : Hearth) (i m d : Nat) (c : Cell) : Hearth × List Cell :=
  let hd := hdrOf c
  let p := peerOf hh i
  if (!ctxFree p m d ∧ i < 262144) ∨ (hd.type < 2 ∧ p.st ≠ .open ∧ p.st ≠ .closed ∧ hd.epoch = p.rxEpoch) then
    ({ hh with discards := hh.discards + 1 }, [])
  else if p.st = .closed ∨ hd.epoch ≠ p.rxEpoch then
    let hh := { hh with discards := hh.discards + 1 }
    let due := match p.lastReset with | some t => decide (t + 2000 ≤ e.now) | none => true
    if due then
      let hh := putPeer hh i { p with lastReset := some e.now, peerModule := m, peerHearth := d }
      (sendAck e.h hh i 4 0 0 0, [])
    else (hh, [])
  else
    let k := (BitVec.ofNat 16 hd.seq - p.expect).toNat
    if k = 0 then
      -- deliver this cell, then every held cell at the new EXPECT
      let run := (List.range 32).foldl (fun (a : Nat × Bool) j =>
        if a.2 && nbit p.rxmap.toNat j then (a.1 + 1, true) else (a.1, false)) (0, true)
      let n := run.1
      let more := (List.range n).filterMap (fun j =>
        (hh.reorder.find? (fun x => x.1 == i && x.2.1 == p.expect + BitVec.ofNat 16 (j + 1))).map (fun x => x.2.2))
      let hh := { hh with reorder := hh.reorder.filter (fun x =>
        !(x.1 == i && (x.2.1 - p.expect).toNat ≤ n)) }
      let hh := putPeer hh i { p with
        expect := p.expect + BitVec.ofNat 16 (n + 1), rxmap := p.rxmap >>> (n + 1)
        held := p.held - n, sinceAck := p.sinceAck + n + 1 }
      (if 64 ≤ p.sinceAck + n + 1 then ackNow e.h hh i else hh, c :: more)
    else if k ≤ 32 then
      if nbit p.rxmap.toNat (k - 1) ∨ 4096 ≤ hh.reorder.length then
        (nackNow e { hh with discards := hh.discards + 1 } i, [])
      else
        let hh := { hh with reorder := hh.reorder ++ [(i, BitVec.ofNat 16 hd.seq, c)] }
        let hh := putPeer hh i { p with rxmap := p.rxmap ||| BitVec.ofNat 32 (2 ^ (k - 1)), held := p.held + 1 }
        (nackNow e hh i, [])
    else if k ≤ 32767 then (nackNow e { hh with discards := hh.discards + 1 } i, [])
    else (ackNow e.h { hh with discards := hh.discards + 1 } i, [])

end Sys2Proof.Machine
end

