-- ==== Sys2Proof/Machine/Cmds.lean ====
section
/-! DEFINITION. Command rings (R376 to R383), the checks of Table 12-5, starting and completing commands (R403 to R410). -/

namespace Sys2Proof.Machine

/-! ### Completion records (R380 to R383) -/

/-- The first record of a completion (Table 12-1), with PHASE and MORE left 0. -/
def record1 (o : Origin) (st : Status) (det r0 r1 : Nat) : List Byte :=
  leBytes 4 o.hostTag.toNat ++ leBytes 2 o.opcode ++ leBytes 2 (stCode st) ++ leBytes 4 det ++ leBytes 2 o.sqHead
    ++ [0, 0] ++ leBytes 8 r0 ++ leBytes 8 r1

/-- The second record (Table 12-2). -/
def record2 (r2 r3 r4 r5 : Nat) : List Byte :=
  leBytes 8 r2 ++ leBytes 6 r3 ++ [0, 0] ++ leBytes 8 r4 ++ leBytes 8 r5

/-- A PAD record (R382). -/
def padRecord : List Byte := zeros 4 ++ leBytes 2 2 ++ zeros 26

/-- Put the FLAGS and PHASE bytes into a record. -/
def stamp (r : List Byte) (more phase : Bool) : List Byte :=
  r.take 14 ++ [if more then 1 else 0, if phase then 1 else 0] ++ r.drop 16

/-- Drop completion records (R369). -/
def dropRecords (s : State) (n : Nat) : State :=
  { s with regs := { s.regs with cqDropped := sat 16 (s.regs.cqDropped + n) } }

/-- A request to host memory that no enabled window covers (R366): DMA_BLOCKED, and a HOST_ACCESS record naming the
address, by the hearth that made it or by the mantel in every hearth's log. -/
def blocked (s : State) (by_ : Option Nat) (addr : Nat) : State :=
  let s := { s with regs := { s.regs with dmaBlocked := true } }
  let d := detailOf [(0, 8, addr)]
  match by_ with
  | some h => onHearth s h (fun e hh => logOf e hh 0x0062 0 addr d)
  | none => logAll s 0x0062 (pathOf 13 0 0 0 0 0) addr d

/-- Write one record at the tail of a completion ring (R380). -/
def putRecord (s : State) (n : Nat) (r : List Byte) (more : Bool) : State :=
  let q := mget {} s.regs.cq n
  let s := hostWrite s (q.base.toNat * 4096 + 32 * q.tail) (stamp r more q.phase)
  let t := (q.tail + 1) % 2 ^ q.log2
  let q' := { q with tail := t, phase := if t = 0 then !q.phase else q.phase }
  { s with regs := { s.regs with cq := mput {} s.regs.cq n q' } }

/-- Write a completion to a ring, with the PAD records R382 asks for, or drop it (R369, R381). A record that no enabled window
covers is not issued, and the completion is dropped with it (R366). -/
def writeCompletion (s : State) (n : Nat) (recs : List (List Byte)) : State :=
  let q := mget {} s.regs.cq n
  let size := 2 ^ q.log2
  let pads := if size - q.tail < recs.length then size - q.tail else 0
  let used := (q.tail + size - q.head) % size
  if !q.enable || q.error || s.hostPortFailed || !s.regs.linkUp then dropRecords s recs.length
  else if size - 1 < used + pads + recs.length then dropRecords s recs.length
  else match ((List.range (pads + recs.length)).map (fun i => q.base.toNat * 4096 + 32 * ((q.tail + i) % size))).find?
      (fun a => !inWindow s.regs a 32) with
  | some a => dropRecords (blocked s none a) recs.length
  | none =>
    let s := (List.range pads).foldl (fun s _ => putRecord s n padRecord false) s
    (List.range recs.length).foldl (fun s i => putRecord s n (recs.getD i []) (decide (i + 1 < recs.length))) s

/-- Send a completion to the requester: its ring, or one COMPLETION cell on channel 3 with PHASE and SQ_HEAD 0, to the
parent or over the link the command came by (R409, R300). -/
def post (s : State) (o : Origin) (st : Status) (det r0 r1 : Nat) (second : Option (Nat × Nat × Nat × Nat)) : State :=
  let cellRec := record1 { o with sqHead := 0 } st det r0 r1
  match o.src with
  | .ring n => writeCompletion s n (record1 o st det r0 r1 ::
      match second with | some (a, b, c, d) => [record2 a b c d] | none => [])
  | .parent =>
    match s.role.parent with
    | none => s
    | some (m, h) => updH s s.role.treeHearth (fun hh =>
        sendCell s.role.treeHearth hh (.peer m h) 5 1 1 0 8 0 cellRec)
  | .linkLocal h t => updH s h (fun hh => sendCell h hh (.link t) 5 1 1 0 8 0 cellRec)

/-! ### Started commands (R403, R405) -/

/-- The children's part of a tree completion (R324): the largest status, and the number not DONE as detail. -/
def treeResult (x : Started) (st : Status) (det : Nat) : Status × Nat :=
  if x.tree then (worse st x.childWorst, x.childBad) else (st, det)

/-- Remove a started command. -/
def dropStarted (s : State) (id : Nat) : State := { s with started := s.started.filter (fun x => x.id != id) }

/-- Change a started command. -/
def updStarted (s : State) (id : Nat) (f : Started → Started) : State :=
  { s with started := s.started.map (fun x => if x.id = id then f x else x) }

/-- A started command, by number. -/
def startedOf (s : State) (id : Nat) : Option Started := s.started.find? (fun x => x.id == id)

/-- Post a started command's completion when its own result and all of its children are there. -/
def tryPost (s : State) (id : Nat) (second : Option (Nat × Nat × Nat × Nat)) : State :=
  match startedOf s id with
  | none => s
  | some x =>
    match x.result with
    | none => s
    | some (st, det, r0, r1) =>
      if x.children ≠ [] then s else
      let (st', det') := treeResult x st det
      post (dropStarted s id) x.org st' det' r0.toNat r1.toNat second

/-- A started command's own part is done: its completion goes out once its children's are in. -/
def finish (s : State) (id : Nat) (st : Status) (det r0 r1 : Nat)
    (second : Option (Nat × Nat × Nat × Nat) := none) : State :=
  tryPost (updStarted s id (fun x =>
    { x with wait := none, result := some (st, det, BitVec.ofNat 64 r0, BitVec.ofNat 64 r1) })) id second

/-- What a started command waits for. -/
def setWait (s : State) (id : Nat) (w : Wait) : State := updStarted s id (fun x => { x with wait := some w })

/-! ### Reading commands (R376 to R379) -/

/-- The slots that a command with this SLOTS field takes from its ring: a count outside 1 to 16 takes one. DEDUCED,
log 20. -/
def slotsTaken (n : Nat) : Nat := if 1 ≤ n ∧ n ≤ 16 then n else 1

/-- Unread slots of a submission ring (R376). -/
def unread (q : SQ) : Nat := (q.tail + 2 ^ q.log2 - q.head) % 2 ^ q.log2

/-- Started commands, other than launches, that have not completed (R405). -/
def outstanding (s : State) : Nat := (s.started.filter (fun x => x.org.opcode != 0x40)).length

/-- Hearth steps PENDING (R339). -/
def pendingSteps (s : State) : Nat :=
  s.hearths.foldl (fun a x => a + (x.2.steps.filter (fun st => st.state == .pending)).length) 0

/-- Hearths named by a mask. -/
def namedCount (mask : Nat) : Nat := popcount 9 mask

/-- The limits on what may be started: 256 commands (R405), 4,096 PENDING steps, with those of the launch among them (R339). -/
def roomFor (s : State) (opcode mask : Nat) : Bool :=
  if opcode = 0x40 then decide (pendingSteps s + namedCount mask ≤ 4096) && decide (pendingSteps s < 4096)
  else decide (outstanding s < 256)

/-- A FENCE lets a command start only when its ring has nothing outstanding (R403). -/
def fenceOk (s : State) (src : Src) (fence : Bool) : Bool := !fence || !s.started.any (fun x => decide (x.org.src = src))

/-- The mantel reads submission rings. -/
def ringsRead (s : State) : Bool := !s.pairsFailed && !s.hostPortFailed && (s.ringsOn || s.romEngine)

/-- A ring has a command that may be read: opcode, flags, SLOTS and HEARTHS are those at its head. -/
def ringReady (s : State) (n opcode flags slots mask : Nat) : Bool :=
  let q := mget {} s.regs.sq n
  let k := min (slotsTaken slots) (2 ^ q.log2 - q.head)
  n < 8 && q.enable && !q.error && decide (k ≤ unread q) && decide (0 < unread q) && roomFor s opcode mask
    && fenceOk s (.ring n) (nbit flags 1)

/-- As ringReady, with the fields read from host memory at the ring's head. -/
def ringReadyMem (s : State) (n : Nat) : Bool :=
  let q := mget {} s.regs.sq n
  let a := q.base.toNat * 4096 + 64 * q.head
  ringReady s n (ofLE (hostBytes s a 2)) (hostByte s (a + 2)).toNat (hostByte s (a + 3)).toNat (ofLE (hostBytes s (a + 8) 2))

/-- The bytes of the first command that has arrived whole in COMMAND cells, two cells per slot (R323). -/
def cellCommand (l : List (BitVec 256)) : Option (List Byte) :=
  match l with
  | [] => none
  | c :: _ =>
    let n := 2 * slotsTaken (nbits c.toNat 31 24)
    if n ≤ l.length then some ((l.take n).flatMap (fun x => leBytes 32 x.toNat)) else none

/-- Where COMMAND cells of a source wait. -/
def cellsOf (s : State) (src : Src) : List (BitVec 256) :=
  match src with
  | .ring _ => []
  | .parent => mget [] s.cmdCells s.role.treeHearth
  | .linkLocal h t => mget [] s.linkCells (16 * h + t)

/-- Position of a source in the turn among equal priorities: ring n at 2n, command cells after ring 0 (R408). -/
def turnOf : Src → Nat
  | .ring n => 2 * n
  | _ => 1

/-- A command in cells is ready: it has arrived whole and its limits allow it. -/
def cellReady (s : State) (src : Src) : Bool :=
  match cellCommand (cellsOf s src) with
  | none => false
  | some b => roomFor s (ofLE (b.take 2)) (ofLE ((b.drop 8).take 2)) && fenceOk s src (nbit (b.getD 2 0).toNat 1)

/-- Priority of a turn position: cells take ring 0's. -/
def prioOf (s : State) (pos : Nat) : Nat := (mget {} s.regs.sq (pos / 2)).priority

/-- The source that is read next by R379, when the source src (with its command's opcode, flags, SLOTS and HEARTHS) offers one:
highest priority, then in turn after the last one read. -/
def winner (s : State) (src : Src) (opcode flags slots mask : Nat) : Bool :=
  let me := turnOf src
  let mine := match src with
    | .ring n => ringsRead s && ringReady s n opcode flags slots mask
    | _ => !s.pairsFailed && (s.ringsOn || s.romEngine) && cellReady s src
  let ready (pos : Nat) : Bool :=
    if pos = me then mine
    else if pos = 1 then !s.pairsFailed && s.ringsOn && cellReady s .parent
    else if pos % 2 = 0 then ringsRead s && ringReadyMem s (pos / 2) else false
  let dist (pos : Nat) : Nat := (pos + 15 - s.regs.lastRing) % 16
  mine && (List.range 16).all (fun pos => !ready pos || pos == me || decide (prioOf s pos < prioOf s me)
    || (decide (prioOf s pos = prioOf s me) && decide (dist me < dist pos)))

/-- The header bytes of a packet with its opcode, as a command cell or slot carries them. -/
def pktBytes (code : Nat) (p : Pkt) : List Byte :=
  leBytes 2 code ++ [p.flags, p.slots] ++ leBytes 4 p.hostTag.toNat ++ leBytes 2 p.hearths.toNat
    ++ leBytes 2 p.workload.toNat ++ leBytes 4 p.rsvd.toNat ++ leBytes 1008 p.par.toNat

/-- The command in cells is this packet. -/
def cellMatches (s : State) (code : Nat) (p : Pkt) : Bool :=
  match p.src with
  | .ring _ => true
  | src => match cellCommand (cellsOf s src) with
    | none => false
    | some b => b == (pktBytes code p).take b.length

/-- A command is the next one that the mantel reads (R379, R403, R405, R408). -/
def startable (s : State) (code : Nat) (p : Pkt) : Bool :=
  winner s p.src code p.flags.toNat p.slots.toNat p.hearths.toNat && cellMatches s code p

/-- The submission ring's slots of a command lie in a window. -/
def slotsInWindow (s : State) (p : Pkt) : Bool :=
  match p.src with
  | .ring n =>
    let q := mget {} s.regs.sq n
    inWindow s.regs (q.base.toNat * 4096 + 64 * q.head)
      (64 * min (slotsTaken p.slots.toNat) (2 ^ q.log2 - q.head))
  | _ => true

/-- A command whose SLOTS would carry it past the end of its ring (R378). -/
def overruns (s : State) (p : Pkt) : Bool :=
  match p.src with
  | .ring n =>
    let q := mget {} s.regs.sq n
    decide (2 ^ q.log2 < q.head + slotsTaken p.slots.toNat)
  | _ => false

/-- Take a command's slots or cells: HEAD passes them (R376), or goes to slot 0 where they overrun (R378). -/
def takeSlots (s : State) (p : Pkt) : State :=
  let s := { s with regs := { s.regs with lastRing := turnOf p.src } }
  match p.src with
  | .ring n =>
    let q := mget {} s.regs.sq n
    let h := q.head + slotsTaken p.slots.toNat
    let q' := { q with head := if 2 ^ q.log2 ≤ h then 0 else h }
    { s with regs := { s.regs with sq := mput {} s.regs.sq n q' } }
  | .parent =>
    let l := (cellsOf s .parent).drop (2 * slotsTaken p.slots.toNat)
    { s with cmdCells := mput [] s.cmdCells s.role.treeHearth l }
  | .linkLocal h t =>
    let l := (cellsOf s (.linkLocal h t)).drop (2 * slotsTaken p.slots.toNat)
    { s with linkCells := mput [] s.linkCells (16 * h + t) l }

/-- A read of the ring outside every window stops the ring (Table 11-14 ERR_CAUSE 4, R366). -/
def stopRing (s : State) (n cause : Nat) : State :=
  let q := mget {} s.regs.sq n
  { s with regs := { s.regs with sq := mput {} s.regs.sq n { q with error := true, cause := cause } } }

/-- SQ_HEAD of a completion. -/
def headOf (s : State) (src : Src) : Nat :=
  match src with
  | .ring n => (mget {} s.regs.sq n).head
  | _ => 0

/-! ### The checks of Table 12-5 -/

/-- How many hearths a command must name (R384). -/
inductive Need where
  | none | some | one
  deriving DecidableEq, Repr

/-- What Table 12-9 to Table 12-17 say of one command: what its checks look at. `own` is the result of the checks specific to
the command (check 11), `own9` that of R332, which replaces check 9; `fwd` is the
packet that goes to the children of a tree where it is not the command itself. -/
structure CmdSpec where
  code : Nat
  slots : Nat := 1
  boot : Bool := false
  service : Bool := true
  alarm : Bool := false
  tree : Bool := false
  need : Need := .none
  hst : List HState := []
  anyState : Bool := true
  named : List Nat := []
  noHearths : Bool := false
  fields : List (Nat × Nat × Nat) := []
  lens : List (Nat × Bool) := []
  ranges : List (Nat × Bool) := []
  bufs : List (Nat × Nat × Nat) := []
  targets : List (Nat × Bool) := []
  own9 : Option (Status × Nat) := none
  own : Option (Status × Nat) := none
  fwd : Option Pkt := none
  deriving Repr

/-- READY to FROZEN. -/
def rdyFrz : List HState := [.ready, .loaded, .running, .frozen]
/-- READY to FAULTED. -/
def rdyFlt : List HState := [.ready, .loaded, .running, .frozen, .faulted]
/-- Any but ABSENT and RETIRED. -/
def alive : List HState := [.booting, .ready, .loaded, .running, .frozen, .faulted]

/-- All bits of an n-byte field. -/
def full (n : Nat) : Nat := 2 ^ (8 * n) - 1

/-- The lowest offset whose condition fails. -/
def firstBad (l : List (Nat × Bool)) : Option Nat :=
  l.foldl (fun a x => if x.2 then a else match a with
    | none => some x.1
    | some b => some (min b x.1)) none

/-- The reserved bytes of a command of n slots: the gaps between its fields, each named by its first byte. -/
def gaps (fields : List (Nat × Nat × Nat)) (n : Nat) : List (Nat × Nat) :=
  let covered (b : Nat) : Bool := fields.any (fun f => f.1 ≤ b && b < f.1 + f.2.1)
  (List.range (64 * n - 16)).filterMap (fun i =>
    let b := 16 + i
    if covered b then none else
    some (fields.foldl (fun a f => if f.1 + f.2.1 ≤ b then max a (f.1 + f.2.1) else a) 16, b))

/-- Byte b of a command (b at least 0x10). -/
def pbyte (p : Pkt) (b : Nat) : Nat := fld p b 1

/-- Check 5: reserved fields are zero (R10), TREE only where Table 12-9 says. -/
def check5 (c : CmdSpec) (p : Pkt) : Option Nat :=
  firstBad ([ (2, decide (p.flags.toNat / 4 = 0)), (2, !(nbit p.flags.toNat 0) || c.tree),
    (8, decide (p.hearths.toNat / 512 = 0)), (8, !c.noHearths || p.hearths == 0), (12, p.rsvd == 0) ]
    ++ c.fields.map (fun f => (f.1, decide (fld p f.1 f.2.1 &&& (full f.2.1 - f.2.2) = 0)))
    ++ (gaps c.fields (slotsTaken p.slots.toNat)).map (fun g => (g.1, decide (pbyte p g.2 = 0)))
    ++ c.bufs.map (fun b => (b.1, decide (addrReserved b.2.1 = 0))))

/-- Check 7: ranges, and module-space buffers (R385); commands in cells reach no host memory (R408), and commands with TREE name
none, with detail 2 (R393). -/
def check7 (s : State) (c : CmdSpec) (p : Pkt) : Option Nat :=
  let fromRing := (ringOf p.src).isSome
  firstBad ((2, !(nbit p.flags.toNat 0 && c.bufs.any (fun b => !spaceOf b.2.1))) :: c.ranges ++ c.bufs.map (fun b =>
    (b.1, if spaceOf b.2.1 then modBufOk s b.2.1 b.2.2 else fromRing)))

/-- Check 8: the hearths that must be named (R384), and the command's own targets. -/
def check8 (c : CmdSpec) (p : Pkt) : Option Nat :=
  let n := (named p).length
  firstBad ((8, match c.need with | .none => true | .some => decide (1 ≤ n) | .one => decide (n = 1)) :: c.targets)

/-- REJECTED_STATE detail (Table 12-7). -/
def stateDetail (scope h v : Nat) : Nat := scope * 2 ^ 28 + h * 2 ^ 24 + v

/-- Check 9: named hearths are in a state that Table 12-9 allows. -/
def check9 (s : State) (c : CmdSpec) : Option Nat :=
  if c.anyState then none else
  (c.named.find? (fun h => !c.hst.contains (hearthOf s h).st)).map
    (fun h => stateDetail 1 h (hCode (hearthOf s h).st))

/-- Check 10: host buffers lie within the windows (R365). -/
def check10 (s : State) (c : CmdSpec) : Option Nat :=
  firstBad (c.bufs.map (fun b => (b.1, spaceOf b.2.1 || inWindow s.regs (hostAddr b.2.1) b.2.2)))

/-- SOURCES of JD_ALARM, as bits [4:0]. -/
def sourcesOf (s : State) : Nat := s.trust.sources.toNat

/-- The module state allows the command (Table 12-9). -/
def modAllows (s : State) (c : CmdSpec) : Bool :=
  match s.mod with
  | .boot => c.boot
  | .service => c.service
  | .operational => true
  | .alarm => c.alarm

/-- Checks 2 to 10 of Table 12-5, in order: the status and detail of the first that fails. -/
def checks (s : State) (c : CmdSpec) (p : Pkt) (past : Bool) : Option (Status × Nat) :=
  if s.mod = .alarm ∧ !c.alarm then some (.alarmLocked, sourcesOf s)
  else if !modAllows s c then some (.rejectedState, stateDetail 0 15 (modCode s.mod))
  else if past ∨ !(1 ≤ p.slots.toNat ∧ p.slots.toNat ≤ 16 ∧ (c.slots = 0 ∨ p.slots.toNat = c.slots)) then
    some (.rejectedLength, 3)
  else match check5 c p with
  | some o => some (.rejectedParameter, o)
  | none => match firstBad c.lens with
    | some o => some (.rejectedLength, o)
    | none => match check7 s c p with
      | some o => some (.rejectedParameter, o)
      | none => match check8 c p with
        | some o => some (.rejectedTarget, o)
        | none => match (if s.mod = .boot then none else check9 s c) with
          | some d => some (.rejectedState, d)
          | none => match c.own9 with
            | some x => some x
            | none => match check10 s c with
              | some o => some (.rejectedSecurity, o)
              | none => c.own

/-! ### Tree commands (R324, R410) -/

/-- Entry i of the child table of a manager (R322): ENABLED, module, tree hearth. -/
def childEntry (s : State) (i : Nat) : Bool × Nat × Nat :=
  let w := hNum (hearthOf s s.role.treeHearth) (s.role.table + 8 * i) 8
  (nbit w 63, nbits w 17 0, nbits w 21 18)

/-- The ENABLED children, by table index. -/
def enabledChildren (s : State) : List Nat :=
  (List.range s.role.children).filter (fun i => (childEntry s i).1)

/-- Send a command's bytes to a child, two cells per slot on channel 1 (R323). -/
def sendCommand (s : State) (i : Nat) (bytes : List Byte) : State :=
  let (_, m, d) := childEntry s i
  updH s s.role.treeHearth (fun hh =>
    (List.range (bytes.length / 32)).foldl (fun hh k =>
      sendCell s.role.treeHearth hh (.peer m d) 4 0 1 0 8 0 ((bytes.drop (32 * k)).take 32)) hh)

/-- Forward a tree command to every ENABLED child, in table order (R324). -/
def forward (s : State) (id code : Nat) (p : Pkt) : State :=
  if s.role.role = 0 ∨ !nbit p.flags.toNat 0 then s else
  let kids := enabledChildren s
  let bytes := (pktBytes code p).take (64 * slotsTaken p.slots.toNat)
  let s := kids.foldl (fun s i => sendCommand s i bytes) s
  updStarted s id (fun x => { x with children := kids, tree := true })

/-! ### Starting a command -/

/-- Start the command at the front of its source, if it is the one the mantel reads next: take its slots, make the
checks, then either its completion record (rejected: nothing of it is executed) or its effect. An event that is not due
leaves the machine as it is (log 2). -/
def submit (s : State) (p : Pkt) (c : CmdSpec) (run : Nat → State → State) : State :=
  if !startable s c.code p then s
  else if !slotsInWindow s p then
    match ringOf p.src with
    | some n => stopRing (blocked s none ((mget {} s.regs.sq n).base.toNat * 4096)) n 4
    | none => s
  else
    let past := overruns s p
    let s := takeSlots s p
    let o : Origin := { src := p.src, opcode := c.code, hostTag := p.hostTag, sqHead := headOf s p.src }
    match checks s c p past with
    | some (st, det) => post s o st det 0 0 none
    | none =>
      let id := s.nextCmd
      let s := { s with
        nextCmd := id + 1
        started := s.started ++ [{ id := id, org := o, wait := none, workload := wl p }] }
      run id (forward s id c.code (c.fwd.getD p))

/-! ### Buffers of commands -/

/-- Read a command's buffer (host or module space). A host read outside the windows is not issued (R366). -/
def bufRead (s : State) (w n : Nat) : Option (List Byte) :=
  if spaceOf w then
    let (h, a) := localAddr (modAddr w)
    some (hBytes (seenAt (hearthOf s h) a) a n)
  else if inWindow s.regs (hostAddr w) n then some (hostBytes s (hostAddr w) n) else none

/-- Write a command's buffer; a host write outside the windows is not issued, sets DMA_BLOCKED and is recorded. A host port
that has failed carries none (R36). -/
def bufWrite (s : State) (w : Nat) (bs : List Byte) : State × Bool :=
  if spaceOf w then
    let (h, a) := localAddr (modAddr w)
    (updH s h (fun hh => putSeen hh a (hWrite (seenAt hh a) a bs)), true)
  else if s.hostPortFailed then (s, false)
  else if inWindow s.regs (hostAddr w) bs.length then (hostWrite s (hostAddr w) bs, true)
  else (blocked s none (hostAddr w), false)

/-- Write a report and complete: ABORTED_FAULT where the write was not issued (R366). -/
def reportAndFinish (s : State) (id w : Nat) (bs : List Byte) (st : Status) (det r0 r1 : Nat) : State :=
  let (s, ok) := bufWrite s w bs
  if ok then finish s id st det r0 r1 else finish s id .abortedFault 0 0 0

end Sys2Proof.Machine
end

