-- ==== Sys2Proof/Machine/Flags.lean ====
section
/-! DEFINITION. Status registers as words (Tables 11-6 to 11-12, 2-28, 8-7, 9-4, 9-11, 9-17) and the module's state
rule (R390). -/

namespace Sys2Proof.Machine

/-! ### Module state (R390) -/

/-- Some hearth is in READY to FROZEN. -/
def anyUsable (s : State) : Bool := allHearths.any (fun h => readyFrozen (hearthOf s h).st)

/-- Some hearth is BOOTING from power-up. -/
def anyBooting (s : State) : Bool :=
  allHearths.any (fun h => (hearthOf s h).st == .booting && (hearthOf s h).fromPower)

/-- SERVICE and OPERATIONAL as Table 12-9a gives them. -/
def modRefresh (s : State) : State :=
  match s.mod with
  | .service => if anyUsable s && !anyBooting s then { s with mod := .operational } else s
  | .operational => if anyUsable s then s else { s with mod := .service }
  | _ => s

/-- The first step of the module that is RUNNING or FROZEN, with its hearth (R328, R400). -/
def activeStep (s : State) : Option (Nat × Step) :=
  allHearths.findSome? (fun h =>
    ((hearthOf s h).steps.find? (fun x => x.state == .running || x.state == .frozen)).map (fun x => (h, x)))

/-- A step of the module is RUNNING or FROZEN. -/
def anyStepActive (s : State) : Bool := (activeStep s).isSome

/-! ### Registers as words -/

/-- Bits of the hearths in a given state. -/
def hearthMask (s : State) (f : HState → Bool) : Nat := maskOf (allHearths.filter (fun h => f (hearthOf s h).st))

/-- The running module firmware's version, 0 under the boot ROM (R446). -/
def moduleFw (s : State) : W32 := if s.ringsOn then s.trust.fwVersion else 0

/-- JD_IDENT (Table 11-6). -/
def regIdent (s : State) : Nat :=
  0x0900 * 2 ^ 48 + 3 * 2 ^ 44 + s.fuses.grade.toNat * 2 ^ 40 + s.fuses.stepping.toNat * 2 ^ 32 + (moduleFw s).toNat

/-- JD_CAP (Table 11-7). -/
def regCap (s : State) : Nat :=
  let c := b2n (s.regs.cxl && s.regs.linkUp)
  9 * 2 ^ 60 + 8 * 2 ^ 56 + 4 * 2 ^ 52 + 64 * 2 ^ 45 + s.regs.linkWidth * 2 ^ 40 + s.regs.linkSpeed * 2 ^ 38
    + c * 2 ^ 37 + c * 2 ^ 36 + c * 2 ^ 35

/-- JD_HEALTH (Table 11-8). -/
def regHealth (s : State) : Nat :=
  modCode s.mod * 2 ^ 62 + b2n s.standbyOk * 2 ^ 61 + b2n s.regs.failover * 2 ^ 60 + b2n s.regs.timeUnlocked * 2 ^ 59
    + b2n s.regs.dmaBlocked * 2 ^ 58 + hearthMask s (· == .faulted) * 2 ^ 49 + hearthMask s (· == .retired) * 2 ^ 40
    + maskOf (allHearths.filter (fun h => (hearthOf s h).sigNew)) * 2 ^ 31 + s.regs.cqDropped

/-- JD_HEALTH after a read: the RC fields clear. -/
def clearHealth (s : State) : State :=
  let s := onHearths s allHearths (fun _ hh => { hh with sigNew := false })
  { s with regs := { s.regs with cqDropped := 0 } }

/-- JD_POWER_CAP (Table 11-11). -/
def regPowerCap (s : State) : Nat :=
  s.regs.capW * 2 ^ 48 + s.fuses.fusedW * 2 ^ 32 + s.regs.drawW % 65536 * 2 ^ 16 + b2n s.regs.capReject

/-- JD_ALARM (Table 11-12). -/
def regAlarm (s : State) : Nat :=
  b2n (s.mod == .alarm) * 2 ^ 63 + b2n s.fuses.kill * 2 ^ 62 + b2n s.fuses.policySet * 2 ^ 61
    + b2n s.fuses.policyKill * 2 ^ 60 + s.trust.sources.toNat * 2 ^ 47 + s.flash.sigFails * 2 ^ 32

/-- The step that JD_HEARTH_STATE names: the running one, or the frozen one when none runs. -/
def shownStep (hh : Hearth) : Option Step :=
  match hh.steps.find? (fun x => x.state != .pending && x.state != .held && x.state != .frozen && x.state != .ended) with
  | some x => some x
  | none => hh.steps.find? (fun x => x.state == .frozen)

/-- Contexts that hold a valid image. -/
def validCtx (hh : Hearth) : Nat := maskOf ((List.range 4).filter (fun c => (mget {} hh.ctxs c).valid))

/-- JD_HEARTH_STATE[h] (Table 11-10). -/
def regHearthState (hh : Hearth) : Nat :=
  let st := shownStep hh
  hCode hh.st * 2 ^ 60 + validCtx hh * 2 ^ 56 + hh.clkStep * 2 ^ 49 + b2n st.isSome * 2 ^ 48
    + (match st with | some x => x.workload | none => 0) * 2 ^ 32 + hh.fw.toNat

/-- LINK STATE codes (Table 9-4). -/
def linkCode : LinkState → Nat
  | .down => 0 | .training => 1 | .up => 2 | .resync => 3 | .retired => 4

/-- JD_FLUE_LINK[t] (Table 9-4). -/
def regFlueLink (p : FPort) : Nat :=
  linkCode p.st * 2 ^ 61 + p.lanes.toNat * 2 ^ 57 + p.lanesFar.toNat * 2 ^ 53 + p.dropped * 2 ^ 16 + p.resyncs

/-- JD_FLUE_CTRL (Table 9-17). -/
def regFlueCtrl (hh : Hearth) : Nat :=
  hh.moduleId.toNat * 2 ^ 46 + b2n hh.idValid * 2 ^ 45 + hh.resend * 2 ^ 30 + b2n hh.damperEn

/-- STATE of a thread (Table 8-7): what a running thread waits for. -/
def stokerState (x : Thread) : Nat :=
  if x.state ≠ 1 then x.state
  else if x.waiting then 2
  else if x.fetch.isSome ∨ x.outstanding ≠ 0 ∨ x.unacked ≠ [] then 4
  else if x.out.credits < x.toSend.length ∨ (x.toSend = [] ∧ x.buf = []) then 3 else 1

/-- JD_STOKER_STATUS (Table 8-7). -/
def regStoker (x : Thread) : Nat :=
  stokerState x * 2 ^ 61 + b2n x.closed * 2 ^ 60 + x.epoch.toNat * 2 ^ 56 + min 8 x.outstanding * 2 ^ 52
    + x.curTag.toNat * 2 ^ 32 + x.dropped

/-- PEER STATE codes (Table 9-11). -/
def peerCode : PeerState → Nat
  | .closed => 0 | .opening => 1 | .open => 2 | .lost => 3

/-- A peer context as its 128 bits (Table 9-11). -/
def regPeer (p : PeerCtx) : Nat :=
  p.peerModule * 2 ^ 110 + p.peerHearth * 2 ^ 106 + peerCode p.st * 2 ^ 103 + p.txEpoch * 2 ^ 100 + p.rxEpoch * 2 ^ 97
    + p.retry * 2 ^ 93 + p.send.toNat * 2 ^ 77 + p.ack.toNat * 2 ^ 61 + p.expect.toNat * 2 ^ 45 + p.rxmap.toNat * 2 ^ 13
    + p.held

end Sys2Proof.Machine
end

