-- ==== Sys2Proof/Machine/Charge.lean ====
section
/-! DEFINITION. Charges of hearth steps (R340, R341): tile cycles by state, held and frozen time. -/

namespace Sys2Proof.Machine

/-- Arithmetic-clock cycles of a hearth in a time: CLK_STEP × 62.5 MHz (R473). -/
def cyclesIn (hh : Hearth) (ns : Nat) : Nat := ns * hh.clkStep / 16

/-- Enabled compute tiles of the effective DIE_MASK of a context (R340). -/
def chargedTiles (hh : Hearth) (ctx : Nat) : Nat := (tilesIn hh (mget {} hh.ctxs ctx).region.dieMask.toNat).length

/-- The states whose cycles are measured and charged to the step's own workload. -/
def measuredState : StepState → Bool
  | .starting => true | .running => true | .halting => true | _ => false

/-- What a step gathers since its mark, and who is charged what part: (step, workload, charge, of it for freezing). -/
def accrueStep (now : Nat) (hh : Hearth) (x : Step) : Step × Nat × Nat × Nat :=
  let ns := now - x.mark
  let cyc := cyclesIn hh ns
  let c := chargedTiles hh x.ctx * cyc
  let y := { x with mark := now }
  match x.state with
  | .held => ({ y with heldNs := x.heldNs + ns }, x.workload, 0, 0)
  | .frozen => ({ y with frozenNs := x.frozenNs + ns }, x.workload, 0, 0)
  | .starting => ({ y with measured := x.measured + cyc, charged := x.charged + c }, x.workload, c, 0)
  | .running => ({ y with measured := x.measured + cyc, charged := x.charged + c }, x.workload, c, 0)
  | .halting => ({ y with measured := x.measured + cyc, charged := x.charged + c }, x.workload, c, 0)
  | .saving =>
    ({ y with frozenNs := x.frozenNs + ns, charged := x.charged + if x.causeWorkload = x.workload then c else 0 },
      x.causeWorkload, c, c)
  | .restoring =>
    ({ y with frozenNs := x.frozenNs + ns, charged := x.charged + if x.causeWorkload = x.workload then c else 0 },
      x.causeWorkload, c, c)
  | _ => (y, x.workload, 0, 0)

/-- Bring a hearth's steps and charge sums up to module time. -/
def accrue (e : Env) (hh : Hearth) : Hearth :=
  hh.steps.foldl (fun (a : Hearth) x =>
    let (y, w, c, f) := accrueStep e.now hh x
    { a with
      steps := a.steps.map (fun z => if z.id = x.id then y else z)
      chargeSum := mupd 0 a.chargeSum w (· + c)
      freezeSum := mupd 0 a.freezeSum w (· + f) }) hh

/-- Change a hearth's clock step, after bringing its charges up to date (R29, R340). A tile with a firing in progress ends it
at the step it began with. -/
def setClock (e : Env) (step : Nat) (hh : Hearth) : Hearth := { accrue e hh with clkStep := step }

/-- The step at which a tile runs: that of the firing in progress, else the hearth's (R29). -/
def tileClock (hh : Hearth) (t : Tile) : Nat := match t.cur with | some f => f.clk | none => hh.clkStep

/-- A step change is complete in a hearth: every tile has taken the hearth's step (R29). -/
def clockSettled (hh : Hearth) : Bool := hh.tiles.all (fun x => tileClock hh x.2 == hh.clkStep)

/-- The cap in force lies below the sum of the grants that hearths keep after the power controller has failed (Table 1-12):
every hearth runs at step 16. -/
def capShort (s : State) : Bool :=
  s.power.controllerFailed
    && decide (min s.regs.capW s.fuses.fusedW < allHearths.foldl (fun a h => a + (hearthOf s h).grant) 0)

/-- The token step that a hearth may take when it chooses one. -/
def heldStep (s : State) (step : Nat) : Nat := if capShort s then 16 else step

/-- Every powered hearth takes step 16 at once. -/
def allTo16 (s : State) : State :=
  onHearths s (allHearths.filter (fun h => (hearthOf s h).rail)) (fun e hh => setClock e 16 { hh with tokenStep := 16 })

/-- CAP_W takes a value (R363); where no controller is left to lower the grants, the hearths meet the cap by step 16. -/
def takeCap (s : State) (w : Nat) : State :=
  let s := { s with regs := { s.regs with capW := w } }
  if capShort s then allTo16 s else s

/-- Charges reach the mantel: CHARGED of each account, and V by ⌊C × 1,000 ÷ WEIGHT⌋ (R339, R341). -/
def addCharge (a : Account) (c f : Nat) : Account :=
  if !a.known then a else
  { a with charged := sat 64 (a.charged + c), vtime := sat 64 (a.vtime + c * 1000 / a.weight),
           freezeCharge := sat 64 (a.freezeCharge + f) }

/-- A hearth's report of its sums (R341). -/
def reportCharges (s : State) (h : Nat) : State :=
  let s := onHearth s h accrue
  let hh := hearthOf s h
  let acc := hh.chargeSum.foldl (fun (m : SMap Account) x =>
    mupd {} m x.1 (fun a => addCharge a x.2 (mget 0 hh.freezeSum x.1))) s.accounts
  updH { s with accounts := acc } h (fun hh => { hh with chargeSum := [], freezeSum := [], flushCharge := false })

/-- CHARGE_REPORT: a hearth sends its sums to the mantel (R341). -/
def execChargeReport (h : Nat) (s : State) : Host.Outcome State Fault Refusal := nextOf (reportCharges s h)

end Sys2Proof.Machine
end

