-- ==== Sys2Proof/Machine/HostPort.lean ====
section
/-! DEFINITION. Writes and reads of the host port's registers (R361 to R375) and the events at the port. -/

namespace Sys2Proof.Machine

/-- BAR 0 answers: the port is up, configured, not in D3hot and not failed (R36, R375). -/
def barOk (s : State) : Bool :=
  s.regs.linkUp && s.regs.cfgOk && !s.regs.d3hot && !s.hostPortFailed && s.power.mantelOn && !s.power.perst

/-- A submission ring's registers. -/
def sqOf (s : State) (n : Nat) : SQ := mget {} s.regs.sq n
/-- A completion ring's registers. -/
def cqOf (s : State) (n : Nat) : CQ := mget {} s.regs.cq n
/-- Replace a submission ring's registers. -/
def putSq (s : State) (n : Nat) (q : SQ) : State := { s with regs := { s.regs with sq := mput {} s.regs.sq n q } }
/-- Replace a completion ring's registers. -/
def putCq (s : State) (n : Nat) (q : CQ) : State := { s with regs := { s.regs with cq := mput {} s.regs.cq n q } }

/-- The ring check of R369: 0 when it passes, else ERR_CAUSE. -/
def ringCheck (r : Regs) (base : BitVec 52) (log2 bytes : Nat) : Nat :=
  let size := 2 ^ log2 * bytes
  let a := base.toNat * 4096
  if log2 < 4 ∨ 16 < log2 then 2
  else if a % max size 4096 ≠ 0 then Config.misalignCause % 8
  else if !inWindow r a size then 1 else 0

/-- SQ_DOORBELL (R370): a TAIL beyond the ring stops it with cause 3; a disabled ring takes none. -/
def doorbell (n : Nat) (v : W64) (s : State) : State :=
  let q := sqOf s n
  let t := nbits v.toNat 15 0
  if !q.enable then s
  else if 2 ^ q.log2 ≤ t then putSq s n { q with error := true, cause := 3 }
  else putSq s n { q with tail := t }

/-- JD_CQ_HEAD write (R371). -/
def cqHead (n : Nat) (v : W64) (s : State) : State :=
  let q := cqOf s n
  let h' := nbits v.toNat 15 0
  let size := 2 ^ q.log2
  if h' < size ∧ (h' + size - q.head) % size ≤ (q.tail + size - q.head) % size then putCq s n { q with head := h' }
  else putCq s n { q with error := true, cause := 3 }

/-- JD_SQ_SIZE write: setting ENABLE checks the ring (R369); LOG2_SLOTS is ignored while enabled; clearing ENABLE stops
the reading of further slots (R370). -/
def sqSize (n : Nat) (v : W64) (s : State) : State :=
  let q := sqOf s n
  let pr := nbits v.toNat 61 59
  let lg := nbits v.toNat 4 0
  if !nbit v.toNat 63 then putSq s n { q with enable := false, priority := pr, log2 := if q.enable then q.log2 else lg }
  else if q.enable then putSq s n { q with priority := pr }
  else
    let c := ringCheck s.regs q.base lg 64
    let bad := lg < 4 ∨ 16 < lg ∨ (q.base.toNat * 4096) % max (2 ^ lg * 64) 4096 ≠ 0 ∨
      !inWindow s.regs (q.base.toNat * 4096) (2 ^ lg * 64)
    if bad then putSq s n { q with priority := pr, log2 := lg, error := true, cause := c }
    else putSq s n { q with
      enable := true, error := false, cause := 0, priority := pr, log2 := lg, head := 0, tail := 0 }

/-- JD_CQ_SIZE write (R369, R371). -/
def cqSize (n : Nat) (v : W64) (s : State) : State :=
  let q := cqOf s n
  let lg := nbits v.toNat 4 0
  if !nbit v.toNat 63 then putCq s n { q with enable := false, log2 := if q.enable then q.log2 else lg }
  else if q.enable then s
  else
    let c := ringCheck s.regs q.base lg 32
    let bad := lg < 4 ∨ 16 < lg ∨ (q.base.toNat * 4096) % max (2 ^ lg * 32) 4096 ≠ 0 ∨
      !inWindow s.regs (q.base.toNat * 4096) (2 ^ lg * 32)
    if bad then putCq s n { q with log2 := lg, error := true, cause := c }
    else putCq s n { q with
      enable := true, error := false, cause := 0, log2 := lg, head := 0, tail := 0, phase := true }

/-- JD_POWER_CAP write (R363): CAP_W when in range, else CAP_REJECT; CAP_REJECT clears where 1 is written. -/
def capWrite (v : W64) (s : State) : State :=
  let c := nbits v.toNat 63 48
  let rej := s.regs.capReject && !nbit v.toNat 0
  if 1500 ≤ c ∧ c ≤ 4800 then takeCap { s with regs := { s.regs with capReject := rej } } c
  else { s with regs := { s.regs with capReject := true } }

/-- JD_BIAS write (R367, R368): it holds for every access that begins afterwards. -/
def biasSet (n : Nat) (v : W64) (s : State) : State :=
  if n < 36 then { s with regs := { s.regs with bias := mput 0 s.regs.bias n v } } else s

/-- JD_HEALTH write: the W1C fields (Table 11-8). -/
def healthWrite (v : W64) (s : State) : State :=
  { s with regs := { s.regs with
    failover := s.regs.failover && !nbit v.toNat 60
    dmaBlocked := s.regs.dmaBlocked && !nbit v.toNat 58 } }

/-- A write of 8 bytes to a JD_ register by its BAR 0 offset, under its access codes (Tables 11-5 to 11-14). Read-only
registers and reserved offsets ignore it. -/
def regWrite (off : Nat) (v : W64) (s : State) : State :=
  if off = 0x2010 then healthWrite v s
  else if off = 0x2020 then capWrite v s
  else if off = 0x2030 then { s with regs := { s.regs with winSel := v &&& 0xF3 } }
  else if 0x2100 ≤ off ∧ off < 0x2140 then
    { s with regs := { s.regs with winBase := mput 0 s.regs.winBase ((off - 0x2100) / 8) (v &&& 0xFFFFFFFFFFFFF001) } }
  else if 0x2140 ≤ off ∧ off < 0x2180 then
    { s with regs := { s.regs with winLimit := mput 0 s.regs.winLimit ((off - 0x2140) / 8) (v &&& 0xFFFFFFFFFFFFF000) } }
  else if 0x2200 ≤ off ∧ off < 0x2200 + 288 then biasSet ((off - 0x2200) / 8) v s
  else if 0x3000 ≤ off ∧ off < 0x3200 then
    let n := (off - 0x3000) / 0x40
    match (off - 0x3000) % 0x40 with
    | 0x00 => let q := sqOf s n
      if q.enable then s else putSq s n { q with base := v.extractLsb' 12 52 }
    | 0x08 => sqSize n v s
    | 0x10 => doorbell n v s
    | 0x20 => let q := cqOf s n
      if q.enable then s else putCq s n { q with base := v.extractLsb' 12 52 }
    | 0x28 => cqSize n v s
    | 0x30 => cqHead n v s
    | _ => s
  else s

/-- SQ_DOORBELL. -/
def execSqDoorbell (n : Nat) (value : W64) (s : State) : Host.Outcome State Fault Refusal :=
  nextOf (if barOk s && n < 8 then doorbell n value s else s)

/-- CQ_HEAD_WRITE. -/
def execCqHeadWrite (n : Nat) (value : W64) (s : State) : Host.Outcome State Fault Refusal :=
  nextOf (if barOk s && n < 8 then cqHead n value s else s)

/-- SQ_ENABLE: a write of JD_SQ_SIZE with ENABLE 1. -/
def execSqEnable (n : Nat) (value : W64) (s : State) : Host.Outcome State Fault Refusal :=
  nextOf (if barOk s && n < 8 then sqSize n (value ||| 0x8000000000000000) s else s)

/-- SQ_DISABLE: a write of JD_SQ_SIZE with ENABLE 0. -/
def execSqDisable (n : Nat) (value : W64) (s : State) : Host.Outcome State Fault Refusal :=
  nextOf (if barOk s && n < 8 then sqSize n (value &&& 0x7FFFFFFFFFFFFFFF) s else s)

/-- CQ_ENABLE: a write of JD_CQ_SIZE with ENABLE 1. -/
def execCqEnable (n : Nat) (value : W64) (s : State) : Host.Outcome State Fault Refusal :=
  nextOf (if barOk s && n < 8 then cqSize n (value ||| 0x8000000000000000) s else s)

/-- CQ_DISABLE: a write of JD_CQ_SIZE with ENABLE 0. -/
def execCqDisable (n : Nat) (value : W64) (s : State) : Host.Outcome State Fault Refusal :=
  nextOf (if barOk s && n < 8 then cqSize n (value &&& 0x7FFFFFFFFFFFFFFF) s else s)

/-- POWER_CAP_WRITE (R363). -/
def execPowerCapWrite (value : W64) (s : State) : Host.Outcome State Fault Refusal :=
  nextOf (if barOk s then capWrite value s else s)

/-- BIAS_WRITE (R368). -/
def execBiasWrite (n : Nat) (value : W64) (s : State) : Host.Outcome State Fault Refusal :=
  nextOf (if barOk s then biasSet n value s else s)

/-- HEALTH_READ: the value, with SIG_NEW and CQ_DROPPED cleared (R358, Table 11-8). -/
def execHealthRead (s : State) : Host.Outcome State Fault Refusal :=
  nextOf (if barOk s then { clearHealth s with rsp := .reg (BitVec.ofNat 64 (regHealth s)) }
    else { s with rsp := .noAnswer })

/-- First DPA of decoder d: its DPA Skip, after decoder 0's range for decoder 1 (R372). -/
def decoderDpa (s : State) (d skip : Nat) : Nat :=
  if d = 0 then skip
  else
    let x := mget {} s.regs.decoders 0
    x.skip + x.size + skip

/-- A decoder that is committed: interleave ways 1, whole granules of 256 MiB and a range within the address space, or Error Not
Committed (R372). -/
def commitDecoder (s : State) (d : Nat) (x : Decoder) : Decoder :=
  let ok := x.iw = 0 ∧ x.size % 0x10000000 = 0 ∧ decoderDpa s d x.skip + x.size ≤ 0x24000000000
  { x with committed := decide ok, error := decide (¬ok) }

/-- Replace an HDM decoder. -/
def putDecoder (s : State) (d : Nat) (x : Decoder) : State :=
  { s with regs := { s.regs with decoders := mput {} s.regs.decoders d x } }

/-- The interleave ways code of a number of ways: its logarithm (PRESUMED from CXL 2.0, log 142). -/
def waysCode (ways : Nat) : Nat := if ways = 0 ∨ 32768 ≤ ways then 15 else Nat.log2 ways

/-- HDM_DECODER_COMMIT: the decoder is programmed and committed (R372). Outside CXL mode the registers ignore writes (R356). -/
def execHdmDecoderCommit (d hpa size skip ways : Nat) (s : State) : Host.Outcome State Fault Refusal :=
  nextOf (if barOk s && s.regs.cxl && d < 2 then
      putDecoder s d (commitDecoder s d { hpa := hpa, size := size, skip := skip, iw := waysCode ways })
    else s)

/-! ### CXL registers of BAR 0 (Table 11-5) -/

/-- An offset of the CXL registers: capability header, RAS, Link and HDM decoder capabilities, and ARB/MUX. -/
def cxlOffset (off : Nat) : Bool := (0x1000 ≤ off && off < 0x1400) || (0xE000 ≤ off && off < 0xE400)

/-- A field of n bits at bit lo of x, replaced by v. -/
def setField (x lo n v : Nat) : Nat := x - nbits x (lo + n - 1) lo * 2 ^ lo + v % 2 ^ n * 2 ^ lo

/-- A write of 4 bytes to a register of decoder d by its offset in the decoder's 32 bytes: base, size, control with Commit in bit
9, DPA Skip. A committed decoder keeps its range until Commit is cleared (log 142). -/
def decoderWrite (d o v : Nat) (s : State) : State :=
  let x := mget {} s.regs.decoders d
  if o = 0x10 then
    putDecoder s d (if nbit v 9 then (if x.committed then x else commitDecoder s d { x with iw := nbits v 7 4 })
      else { x with committed := false, error := false, iw := nbits v 7 4 })
  else if x.committed then s
  else match o with
    | 0x00 => putDecoder s d { x with hpa := setField x.hpa 28 4 (v / 2 ^ 28) }
    | 0x04 => putDecoder s d { x with hpa := setField x.hpa 32 32 v }
    | 0x08 => putDecoder s d { x with size := setField x.size 28 4 (v / 2 ^ 28) }
    | 0x0C => putDecoder s d { x with size := setField x.size 32 32 v }
    | 0x14 => putDecoder s d { x with skip := setField x.skip 28 4 (v / 2 ^ 28) }
    | 0x18 => putDecoder s d { x with skip := setField x.skip 32 32 v }
    | _ => s

/-- A write of 4 bytes to a CXL register. The capability header is read-only, and in the PCIe fallback the HDM decoder registers
ignore writes (R356); what the spec does not lay out keeps what was written to it (log 142). -/
def cxlWrite (off v : Nat) (s : State) : State :=
  if off < 0x1100 then s
  else if 0x1300 ≤ off ∧ off < 0x1400 then
    if !s.regs.cxl then s
    else if 0x1310 ≤ off ∧ off < 0x1350 then decoderWrite ((off - 0x1310) / 0x20) ((off - 0x1310) % 0x20) v s
    else { s with regs := { s.regs with cxlRegs := mput 0 s.regs.cxlRegs off (BitVec.ofNat 32 v) } }
  else { s with regs := { s.regs with cxlRegs := mput 0 s.regs.cxlRegs off (BitVec.ofNat 32 v) } }

/-- REGISTER_WRITE: 8-byte aligned writes of 8 bytes, and 4-byte writes to the low half of the doorbell and the CQ head
(R362); writes of 4 bytes to the CXL registers, of 8 also to the Link capability (Table 11-5); any other access is ignored. -/
def execRegisterWrite (offset size : Nat) (value : W64) (s : State) : Host.Outcome State Fault Refusal :=
  let ring := 0x3000 ≤ offset ∧ offset < 0x3200 ∧ ((offset - 0x3000) % 0x40 = 0x10 ∨ (offset - 0x3000) % 0x40 = 0x30)
  nextOf (
    if !barOk s then s
    else if size = 4 ∧ offset % 4 = 0 ∧ cxlOffset offset then cxlWrite offset (value.toNat % 2 ^ 32) s
    else if size = 8 ∧ offset % 8 = 0 ∧ 0x1200 ≤ offset ∧ offset < 0x1300 then
      cxlWrite (offset + 4) (value.toNat / 2 ^ 32) (cxlWrite offset (value.toNat % 2 ^ 32) s)
    else if size = 8 ∧ offset % 8 = 0 then regWrite offset value s
    else if size = 4 ∧ ring then regWrite offset (value &&& 0xFFFFFFFF) s
    else s)

/-- The port's registers after a hot reset or link down: ring registers, windows, JD_BIAS, JD_WIN_SEL and the decoders
at their reset values; the power cap and the mantel's own bits stay (Table 11-18). -/
def portReset (r : Regs) : Regs :=
  { capW := r.capW, capReject := r.capReject, drawW := r.drawW, failover := r.failover, dmaBlocked := r.dmaBlocked
    timeUnlocked := r.timeUnlocked, cqDropped := r.cqDropped, cfgOk := r.cfgOk }

/-- HOT_RESET, or link down (R375). -/
def execHotReset (s : State) : Host.Outcome State Fault Refusal :=
  nextOf { s with regs := portReset s.regs }

/-- PCIE_REFCLK_LOSS: the port takes link down (R472). -/
def execPcieRefclkLoss (s : State) : Host.Outcome State Fault Refusal :=
  nextOf { s with regs := portReset s.regs }

/-- D3HOT_ENTRY: both BARs and CXL.mem stop answering; nothing inside the module stops (R375). -/
def execD3hotEntry (s : State) : Host.Outcome State Fault Refusal :=
  nextOf (if s.regs.linkUp then { s with regs := { s.regs with d3hot := true } } else s)

/-- D0_RETURN: registers keep their values (R375). -/
def execD0Return (s : State) : Host.Outcome State Fault Refusal :=
  nextOf { s with regs := { s.regs with d3hot := false } }

/-- CXL_LINK_TRAINING: CXL mode, or the PCIe 5.0 fallback in which JD_CAP.CXL, CACHE and MEM read 0 (R355, R356). -/
def execCxlLinkTraining (cxl : Bool) (width speed : Nat) (s : State) : Host.Outcome State Fault Refusal :=
  let ok := (width = 4 ∨ width = 8 ∨ width = 16) ∧ 1 ≤ speed ∧ speed ≤ 3
  nextOf (if ok ∧ s.power.mantelOn ∧ !s.power.perst ∧ !s.regs.linkUp ∧ !s.hostPortFailed then
    { s with regs := { s.regs with linkWidth := width, linkSpeed := speed, cxl := cxl, linkUp := true } } else s)

end Sys2Proof.Machine
end

