-- ==== Sys2Proof/Machine/Num.lean ====
section
/-! DEFINITION. The number formats (R107 to R118) over exact rationals, Flue32 arithmetic (R132, R133) and the fixed
pairwise tree (R130). -/

namespace Sys2Proof.Machine

/-! ### Exact rationals -/

/-- n divided by d, d not 0. -/
structure Q where
  n : Int
  d : Nat
  deriving DecidableEq, Repr

/-- An integer. -/
def qInt (n : Int) : Q := ⟨n, 1⟩
/-- Exact sum. -/
def qAdd (a b : Q) : Q := if a.d = b.d then ⟨a.n + b.n, a.d⟩ else ⟨a.n * b.d + b.n * a.d, a.d * b.d⟩
/-- Exact negation. -/
def qNeg (a : Q) : Q := ⟨-a.n, a.d⟩
/-- Exact difference. -/
def qSub (a b : Q) : Q := qAdd a (qNeg b)
/-- Exact product. -/
def qMul (a b : Q) : Q := ⟨a.n * b.n, a.d * b.d⟩
/-- Exact quotient by a number that is not 0. -/
def qDiv (a b : Q) : Q := if b.n < 0 then ⟨-(a.n * b.d), a.d * b.n.natAbs⟩ else ⟨a.n * b.d, a.d * b.n.natAbs⟩
/-- Magnitude. -/
def qAbs (a : Q) : Q := ⟨a.n.natAbs, a.d⟩
/-- Order. -/
def qLt (a b : Q) : Bool := decide (a.n * b.d < b.n * a.d)
/-- Order. -/
def qLe (a b : Q) : Bool := decide (a.n * b.d ≤ b.n * a.d)
/-- A power of two. -/
def qPow2 (e : Int) : Q := if 0 ≤ e then ⟨(2 : Int) ^ e.toNat, 1⟩ else ⟨1, 2 ^ (-e).toNat⟩
/-- The larger. -/
def qMax (a b : Q) : Q := if qLt a b then b else a
/-- A sum of a list. -/
def qSum (l : List Q) : Q := l.foldl qAdd ⟨0, 1⟩
/-- The integer part of a number that is not negative. -/
def qFloor (a : Q) : Nat := a.n.toNat / a.d

/-! ### Rounding (R118) -/

/-- The largest e with 2^e at most n / d. -/
def floorLog2 (n d : Nat) : Int :=
  let k : Int := (Nat.log2 n : Int) - Nat.log2 d
  if 0 ≤ k then (if n < d * 2 ^ k.toNat then k - 1 else k) else (if n * 2 ^ (-k).toNat < d then k - 1 else k)

/-- n / d to the nearest integer, ties to even. -/
def rne (n d : Nat) : Nat :=
  let q := n / d
  let r := n % d
  if 2 * r < d then q else if d < 2 * r then q + 1 else if q % 2 = 0 then q else q + 1

/-- The magnitude code nearest to n / d with fb fraction bits and least normal exponent emin, ties to the even code,
with no largest value. -/
def roundMag (fb : Nat) (emin : Int) (n d : Nat) : Nat :=
  if n = 0 then 0 else
  let e := max (floorLog2 n d) emin
  let s := e - fb
  (e - emin).toNat * 2 ^ fb + if 0 ≤ s then rne n (d * 2 ^ s.toNat) else rne (n * 2 ^ (-s).toNat) d

/-! ### Formats (Table 4-1) -/

/-- The layout of a format: bits, fraction bits, least normal exponent, largest finite magnitude code. -/
structure Fmt where
  bits : Nat
  fb : Nat
  emin : Int
  top : Nat
  deriving DecidableEq, Repr

/-- Format codes of Table 2-3; 5 stands for Flue32. -/
def fmtOf (c : Nat) : Fmt :=
  match c with
  | 0 => ⟨2, 0, 0, 1⟩
  | 1 => ⟨4, 1, -1, 7⟩
  | 2 => ⟨8, 4, -2, 0x7F⟩
  | 3 => ⟨8, 4, -2, 0x7F⟩
  | 4 => ⟨16, 9, -30, 0x7DFF⟩
  | _ => ⟨32, 23, -126, 0x7F7FFFFF⟩

/-- Flue32's index in fmtOf. -/
def flue : Nat := 5

/-- The format has infinities and NaNs (Flame16, Flue32). -/
def wideFmt (c : Nat) : Bool := 4 ≤ c

/-- The format is block-scaled. -/
def blockFmt (c : Nat) : Bool := c < 3

/-- Elements of a block (R115). -/
def blockSize (c : Nat) : Nat := if c = 2 then 32 else 16

/-- The magnitude of a magnitude code (R108 to R112). -/
def magOf (f : Fmt) (k : Nat) : Q :=
  if k < 2 ^ f.fb then qMul (qInt k) (qPow2 (f.emin - f.fb))
  else qMul (qInt (2 ^ f.fb + k % 2 ^ f.fb)) (qPow2 (k / 2 ^ f.fb - 1 + f.emin - f.fb))

/-- A value: NaN or NaR, an infinity, or a finite number (`neg` is the sign of a zero). -/
inductive XVal where
  | nan
  | inf (neg : Bool)
  | fin (q : Q) (neg : Bool)
  deriving DecidableEq, Repr

/-- The value of a code in a format. -/
def decodeVal (c x : Nat) : XVal :=
  let f := fmtOf c
  let half := 2 ^ (f.bits - 1)
  let neg := half ≤ x % (2 * half)
  let k := x % half
  if wideFmt c then
    if k ≤ f.top then .fin (if neg then qNeg (magOf f k) else magOf f k) neg
    else if k = f.top + 1 then .inf neg else .nan
  else if neg ∧ k = 0 then .nan
  else .fin (if neg then qNeg (magOf f k) else magOf f k) false

/-- The value of a Flue32 word. -/
def f32 (x : W32) : XVal := decodeVal flue x.toNat

/-- The NaN or NaR code of a format (R137). -/
def nanCode (c : Nat) : Nat :=
  match c with
  | 0 => 2 | 1 => 8 | 2 => 0x80 | 3 => 0x80 | 4 => 0x7F00 | _ => 0x7FC00000

/-- Sign and magnitude code as a code of the format. -/
def signed (c : Nat) (neg : Bool) (k : Nat) : Nat :=
  if neg ∧ (wideFmt c ∨ k ≠ 0) then 2 ^ ((fmtOf c).bits - 1) + k else k

/-- The outcome of converting an exact quotient (Table 4-7): the code, whether it clipped, whether it is NaR or NaN. -/
def convElem (c : Nat) (x : XVal) : Nat × Bool × Bool :=
  let f := fmtOf c
  match x with
  | .nan => (nanCode c, false, true)
  | .inf neg => if wideFmt c then (signed c neg (f.top + 1), false, false) else (nanCode c, false, true)
  | .fin q nz =>
    let neg := if q.n = 0 then nz else decide (q.n < 0)
    if qLt (magOf f f.top) (qAbs q) then (signed c neg f.top, true, false)
    else (signed c neg (roundMag f.fb f.emin q.n.natAbs q.d), false, false)

/-! ### Flue32 arithmetic -/

/-- The canonical NaN. -/
def nan32 : W32 := 0x7FC00000

/-- A word is a NaN. -/
def isNan32 (x : W32) : Bool := 0x7F800000 < x.toNat % 2 ^ 31

/-- Round a result to Flue32 as IEEE 754 does: overflow gives an infinity. -/
def round32 (x : XVal) : W32 :=
  match x with
  | .nan => nan32
  | .inf neg => BitVec.ofNat 32 (signed flue neg 0x7F800000)
  | .fin q nz =>
    let neg := if q.n = 0 then nz else decide (q.n < 0)
    BitVec.ofNat 32 (signed flue neg (min 0x7F800000 (roundMag 23 (-126) q.n.natAbs q.d)))

/-- Exact sum. An exact zero of operands of unlike sign is +0. -/
def xAdd (a b : XVal) : XVal :=
  match a, b with
  | .nan, _ => .nan
  | _, .nan => .nan
  | .inf s, .inf t => if s = t then .inf s else .nan
  | .inf s, .fin _ _ => .inf s
  | .fin _ _, .inf t => .inf t
  | .fin p s, .fin q t =>
    .fin (qAdd p q) (decide (p.n = 0) && decide (q.n = 0) && s && t)

/-- The sign of a value. -/
def xNeg : XVal → Bool
  | .nan => false
  | .inf s => s
  | .fin q s => if q.n = 0 then s else decide (q.n < 0)

/-- Exact product. -/
def xMul (a b : XVal) : XVal :=
  let s := xNeg a != xNeg b
  match a, b with
  | .nan, _ => .nan
  | _, .nan => .nan
  | .inf _, .inf _ => .inf s
  | .inf _, .fin q _ => if q.n = 0 then .nan else .inf s
  | .fin q _, .inf _ => if q.n = 0 then .nan else .inf s
  | .fin p _, .fin q _ => .fin (qMul p q) s

/-- Negation. -/
def xFlip : XVal → XVal
  | .nan => .nan
  | .inf s => .inf (!s)
  | .fin q s => .fin (qNeg q) (!s)

/-- Flue32 addition. -/
def add32 (a b : W32) : W32 := round32 (xAdd (f32 a) (f32 b))
/-- Flue32 subtraction. -/
def sub32 (a b : W32) : W32 := round32 (xAdd (f32 a) (xFlip (f32 b)))
/-- Flue32 multiplication. -/
def mul32 (a b : W32) : W32 := round32 (xMul (f32 a) (f32 b))
/-- Fused multiply-add, rounded once (R132). -/
def fma32 (a b c : W32) : W32 := round32 (xAdd (xMul (f32 a) (f32 b)) (f32 c))

/-- The order key of a word that is not a NaN: −0 below +0. -/
def key32 (x : W32) : Int :=
  if x.toNat < 2 ^ 31 then (x.toNat : Int) else -((x.toNat - 2 ^ 31 : Nat) : Int) - 1

/-- Maximum (R54). -/
def max32 (a b : W32) : W32 :=
  if isNan32 a || isNan32 b then nan32 else if key32 a < key32 b then b else a
/-- Minimum (R54). -/
def min32 (a b : W32) : W32 :=
  if isNan32 a || isNan32 b then nan32 else if key32 b < key32 a then b else a
/-- Magnitude. -/
def abs32 (a : W32) : W32 := if isNan32 a then nan32 else a &&& 0x7FFFFFFF
/-- IEEE comparison: false with a NaN, −0 equal to +0. -/
def less32 (a b : W32) : Bool :=
  !isNan32 a && !isNan32 b && decide (key32 a < key32 b) && !((a ||| b) &&& 0x7FFFFFFF == 0)
/-- IEEE equality. -/
def equal32 (a b : W32) : Bool := !isNan32 a && !isNan32 b && (a == b || ((a ||| b) &&& 0x7FFFFFFF == 0))
/-- 1.0 or 0.0. -/
def bool32 (b : Bool) : W32 := if b then 0x3F800000 else 0

/-- One level of the tree: neighbours added, an odd last value carried. -/
def pairUp : List W32 → List W32
  | a :: b :: t => add32 a b :: pairUp t
  | l => l

/-- Levels of the tree until one value is left. -/
def treeLevels : Nat → List W32 → W32
  | 0, l => l.headD 0
  | _, [] => 0
  | _, [x] => x
  | n + 1, l => treeLevels n (pairUp l)

/-- The fixed pairwise tree (R130). -/
def tree32 (l : List W32) : W32 := treeLevels l.length l

/-! ### Scale8 (R113, R122) -/

/-- The value of a numeric Scale8 code. -/
def scaleVal (c : Nat) : Q := qMul (qInt (4 + c % 4)) (qPow2 ((c / 4 : Nat) - 42))

/-- A Scale8 code that marks its block NaR. -/
def scaleNar (c : Nat) : Bool := 0xFC ≤ c

/-- The least code whose value is not below r. -/
def scaleAtLeast (r : Q) : Nat := ((List.range 252).find? (fun c => qLe r (scaleVal c))).getD 0xFB

/-- A tensor scale is finite and greater than zero (R114). -/
def scaleOk (t : W32) : Bool := 0 < t.toNat && t.toNat < 0x7F800000

/-! ### Elements of a token (R116) -/

/-- Element i of 16 Flue32 values. -/
def elem32 (d : BitVec 512) (i : Nat) : W32 := d.extractLsb' (32 * i) 32

/-- Sixteen values as a payload. -/
def packElems (l : List W32) : BitVec 512 :=
  BitVec.ofNat 512 (l.foldr (fun x a => x.toNat + 2 ^ 32 * a) 0)

/-- The values of a payload. -/
def elems32 (d : BitVec 512) : List W32 := (List.range 16).map (elem32 d)

end Sys2Proof.Machine
end

