-- ==== Sys2Proof/Machine/Sfu.lean ====
section
/-! DEFINITION. Special functions (R53, Table 2-7a). The exact value of a transcendental function is enclosed between
two rationals; where both round to one Flue32 value, that is the result, else it is a free value (log 15). -/

namespace Sys2Proof.Machine

/-- A non-negative interval. -/
structure Iv where
  lo : Q
  hi : Q
  deriving DecidableEq, Repr

/-- Round a non-negative rational down to 160 significant bits. -/
def qDown (a : Q) : Q :=
  let s := 160 - floorLog2 a.n.toNat a.d
  if a.n ≤ 0 then ⟨0, 1⟩ else
  if 0 ≤ s then ⟨(a.n.toNat * 2 ^ s.toNat / a.d : Nat), 2 ^ s.toNat⟩
  else ⟨((a.n.toNat / (a.d * 2 ^ (-s).toNat)) * 2 ^ (-s).toNat : Nat), 1⟩

/-- Round a non-negative rational up to 160 significant bits. -/
def qUp (a : Q) : Q :=
  let s := 160 - floorLog2 a.n.toNat a.d
  if a.n ≤ 0 then ⟨0, 1⟩ else
  if 0 ≤ s then ⟨(a.n.toNat * 2 ^ s.toNat / a.d + 1 : Nat), 2 ^ s.toNat⟩
  else ⟨((a.n.toNat / (a.d * 2 ^ (-s).toNat) + 1) * 2 ^ (-s).toNat : Nat), 1⟩

/-- Outward rounding. -/
def ivTrim (a : Iv) : Iv := ⟨qDown a.lo, qUp a.hi⟩
/-- A point. -/
def ivOf (q : Q) : Iv := ⟨q, q⟩
/-- Sum. -/
def ivAdd (a b : Iv) : Iv := ivTrim ⟨qAdd a.lo b.lo, qAdd a.hi b.hi⟩
/-- Difference of a larger and a smaller interval. -/
def ivSub (a b : Iv) : Iv := ivTrim ⟨qMax ⟨0, 1⟩ (qSub a.lo b.hi), qMax ⟨0, 1⟩ (qSub a.hi b.lo)⟩
/-- Product. -/
def ivMul (a b : Iv) : Iv := ivTrim ⟨qMul a.lo b.lo, qMul a.hi b.hi⟩
/-- Quotient by an interval above 0. -/
def ivDiv (a b : Iv) : Iv := ivTrim ⟨qDiv a.lo b.hi, qDiv a.hi b.lo⟩

/-- ln 2. -/
def ln2Iv : Iv :=
  ⟨⟨1013035739299659071135698605846798551586536899366, 2 ^ 160⟩, ⟨1013035739299659071135698605846798551586536899367, 2 ^ 160⟩⟩

/-- 2 ÷ √π. -/
def erfIv : Iv :=
  ⟨⟨1649128000240172121335468122222580532118151184855, 2 ^ 160⟩, ⟨1649128000240172121335468122222580532118151184856, 2 ^ 160⟩⟩

/-- Σ of terms t, t·f 1, t·f 1·f 2, …, n of them; the rest is at most twice the first term left out. -/
def series (f : Nat → Iv) : Nat → Nat → Iv → Iv → Iv
  | 0, _, t, s => ⟨s.lo, qUp (qAdd s.hi (qMul (qInt 2) t.hi))⟩
  | n + 1, k, t, s => series f n (k + 1) (ivMul t (f k)) (ivAdd s t)

/-- Square k times. -/
def squares : Nat → Iv → Iv
  | 0, a => a
  | n + 1, a => squares n (ivMul a a)

/-- e^x for an interval within [0, 256). -/
def expIv (x : Iv) : Iv :=
  let y := ivTrim ⟨qMul x.lo (qPow2 (-12)), qMul x.hi (qPow2 (-12))⟩
  squares 12 (series (fun k => ivMul y ⟨⟨1, k⟩, ⟨1, k⟩⟩) 24 1 (ivOf (qInt 1)) (ivOf (qInt 0)))

/-- e^x for a rational. -/
def expQ (x : Q) : Iv :=
  if x.n < 0 then ivDiv (ivOf (qInt 1)) (expIv (ivOf (qNeg x))) else expIv (ivOf x)

/-- 2^x for a rational of magnitude below 1,024: exact where x is an integer. -/
def exp2Q (x : Q) : Iv :=
  let k : Int := x.n / x.d
  let f := qSub x (qInt k)
  if f.n = 0 then ivOf (qPow2 k) else
  let e := expIv (ivMul (ivOf f) ln2Iv)
  ⟨qMul e.lo (qPow2 k), qMul e.hi (qPow2 k)⟩

/-- The magnitude of ln m for m in [3/4, 3/2), m not 1, and whether it is negative: 2·atanh z. -/
def lnMantissa (m : Q) : Iv × Bool :=
  let z := qDiv (qSub m (qInt 1)) (qAdd m (qInt 1))
  let a := ivTrim (ivOf (qAbs z))
  let a2 := ivMul a a
  (series (fun k => ivMul a2 ⟨⟨(2 * k - 1 : Nat), 2 * k + 1⟩, ⟨(2 * k - 1 : Nat), 2 * k + 1⟩⟩) 40 1
    (ivMul (ivOf (qInt 2)) a) (ivOf (qInt 0)), decide (z.n < 0))

/-- The magnitude of ln x for a positive rational other than 1, and whether it is negative. -/
def lnQ (x : Q) : Iv × Bool :=
  let e0 := floorLog2 x.n.toNat x.d
  let m0 := qMul x (qPow2 (-e0))
  let (m, e) := if qLt m0 ⟨3, 2⟩ then (m0, e0) else (qMul m0 ⟨1, 2⟩, e0 + 1)
  let (l, neg) := if m.n = m.d then (ivOf (qInt 0), false) else lnMantissa m
  let k := ivMul (ivOf (qInt e.natAbs)) ln2Iv
  if e = 0 then (l, neg)
  else if 0 < e then (if neg then (ivSub k l, false) else (ivAdd k l, false))
  else (if neg then (ivAdd k l, true) else (ivSub k l, true))

/-- The integer square root, bit by bit. -/
def isqrtBits : Nat → Nat → Nat → Nat
  | 0, _, r => r
  | b + 1, n, r => let t := r + 2 ^ b; isqrtBits b n (if t * t ≤ n then t else r)

/-- √x for a positive rational. -/
def sqrtQ (x : Q) : Iv :=
  let s : Int := 160 - floorLog2 x.n.toNat x.d
  let s := if s % 2 = 0 then s else s + 1
  let v := qMul x (qPow2 s)
  let r := isqrtBits 90 (v.n.toNat / v.d) 0
  let u := qPow2 (-(s / 2))
  if (r * r * v.d : Nat) = v.n.toNat then ivOf (qMul (qInt r) u)
  else ⟨qMul (qInt r) u, qMul (qInt (r + 1)) u⟩

/-- tanh x for x in [2^−13, 16]. -/
def tanhQ (x : Q) : Iv :=
  let e := expQ (qMul (qInt 2) x)
  ivDiv (ivSub e (ivOf (qInt 1))) (ivAdd e (ivOf (qInt 1)))

/-- erf x for x in (0, 4]: (2/√π)·e^(−x²)·Σ 2^n x^(2n+1) / (1·3·…·(2n+1)). -/
def erfQ (x : Q) : Iv :=
  let a := ivTrim (ivOf x)
  let a2 := ivMul a a
  let s := series (fun k => ivMul a2 ⟨⟨2, 2 * k + 1⟩, ⟨2, 2 * k + 1⟩⟩) 160 1 a (ivOf (qInt 0))
  ivDiv (ivMul erfIv s) (expIv a2)

/-- The rounding of a value in an interval, if the interval settles it. -/
def settle32 (neg : Bool) (i : Iv) : Option W32 :=
  let r (q : Q) : W32 := round32 (.fin (if neg then qNeg q else q) neg)
  if r i.lo = r i.hi then some (r i.lo) else none

/-- The zero that erf gives at −0: IEEE 754-2019 has no erf, so its sign is free (log 15). -/
def freeZero (f : Nat) (x : W32) : W32 := Config.sfuTie f x &&& 0x80000000

/-- A result that the bounds do not settle: a free value, a NaN made canonical (R133; log 15). -/
def freeResult (f : Nat) (x : W32) : W32 :=
  let y := Config.sfuTie f x
  if isNan32 y then nan32 else y

/-- The Flue32 rounding of a special function (Table 2-7a), before the flush. log2 1 and ln 1 are +0 and tanh −0 is −0, as IEEE
754-2019 gives them (R112). -/
def sfuRound (f : Nat) (x : W32) : W32 :=
  let free (o : Option W32) : W32 := o.getD (freeResult f x)
  let pinf : W32 := 0x7F800000
  let ninf : W32 := 0xFF800000
  match f32 x with
  | .nan => nan32
  | .inf neg =>
    match f with
    | 0 => if neg then 0 else pinf
    | 2 => if neg then 0 else pinf
    | 1 => if neg then nan32 else pinf
    | 3 => if neg then nan32 else pinf
    | 4 => if neg then 0x80000000 else 0
    | 5 => if neg then nan32 else pinf
    | 6 => if neg then nan32 else 0
    | 8 => if neg then 0 else 0x3F800000
    | _ => if neg then 0xBF800000 else 0x3F800000
  | .fin q neg =>
    let m := qAbs q
    match f with
    | 0 => if q.n = 0 then 0x3F800000
      else if qLt (qInt 200) m then (if neg then 0 else pinf) else free (settle32 false (exp2Q q))
    | 1 => if q.n = 0 then ninf else if neg then nan32
      else if q.n = q.d then 0
      else let (l, s) := lnQ q; free (settle32 s (ivDiv l ln2Iv))
    | 2 => if q.n = 0 then 0x3F800000
      else if qLt (qInt 120) m then (if neg then 0 else pinf) else free (settle32 false (expQ q))
    | 3 => if q.n = 0 then ninf else if neg then nan32
      else if q.n = q.d then 0
      else let (l, s) := lnQ q; free (settle32 s l)
    | 4 => if q.n = 0 then (if neg then ninf else pinf) else round32 (.fin (qDiv (qInt 1) q) neg)
    | 5 => if q.n = 0 then x else if neg then nan32 else free (settle32 false (sqrtQ q))
    | 6 => if q.n = 0 then (if neg then ninf else pinf) else if neg then nan32
      else free (settle32 false (sqrtQ (qDiv (qInt 1) q)))
    | 7 => if q.n = 0 then x
      else if qLt m (qPow2 (-13)) then x
      else if qLt (qInt 16) m then (if neg then 0xBF800000 else 0x3F800000) else free (settle32 neg (tanhQ m))
    | 8 => if q.n = 0 then 0x3F000000
      else if qLt (qInt 120) m then (if neg then 0 else 0x3F800000)
      else free (settle32 false (ivDiv (ivOf (qInt 1)) (ivAdd (ivOf (qInt 1)) (expQ (qNeg q)))))
    | _ => if q.n = 0 then (if neg then freeZero f x else 0)
      else if qLt (qInt 4) m then (if neg then 0xBF800000 else 0x3F800000) else free (settle32 neg (erfQ m))

/-- A special function: the rounded result, with a non-zero subnormal replaced by zero of its sign and counted as a
flush (R53, R136). -/
def sfu32 (f : Nat) (x : W32) : W32 × Bool :=
  let r := sfuRound f x
  let k := r.toNat % 2 ^ 31
  if 0 < k ∧ k < 0x800000 then (r &&& 0x80000000, true) else (r, false)

end Sys2Proof.Machine
end

