-- ==== Sys2Proof/Machine/Conv.lean ====
section
/-! DEFINITION. Converters (R117 to R124), the calibrated choice of scale (R149, R150), the rotation (R151 to R153), ember
carry (R156) and shadow counts (R163). -/

namespace Sys2Proof.Machine

/-- A narrowing control (Tables 5-6, 5-7). -/
structure Narrow where
  rot : Bool
  ember : Bool
  calibrated : Bool
  shadow : Bool
  shadowFmt : Nat
  stream : Nat
  signs : Nat
  emberBase : Nat
  deriving DecidableEq, Repr

/-- The narrowing control at body bytes 0x60 to 0x6F (R252, Table 9-14a). -/
def narrowOf (body : BitVec 896) : Narrow :=
  let w0 := nbits body.toNat 831 768
  let w1 := nbits body.toNat 895 832
  { rot := nbit w0 63, ember := nbit w0 62, calibrated := nbit w0 61, shadow := nbit w0 60
    shadowFmt := nbits w0 59 57, stream := nbits w0 56 52, signs := nbits w0 47 32, emberBase := nbits w1 39 0 }

/-- Split a list into pieces of n. -/
def piecesOf {α : Type} (n : Nat) : Nat → List α → List (List α)
  | 0, _ => []
  | _, [] => []
  | fuel + 1, l => l.take n :: piecesOf n fuel (l.drop n)

/-- Pieces of n elements; the last may be short. -/
def pieces {α : Type} (n : Nat) (l : List α) : List (List α) := piecesOf n l.length l

/-- The finite values of a list, as magnitudes. -/
def finMags (l : List XVal) : List Q := l.filterMap (fun x => match x with | .fin q _ => some (qAbs q) | _ => none)

/-- The largest finite magnitude, 0 for none. -/
def maxMag (l : List XVal) : Q := (finMags l).foldl qMax ⟨0, 1⟩

/-- Multiply by an exact number. -/
def xScale (q : Q) : XVal → XVal
  | .fin p s => .fin (qMul p q) s
  | x => x

/-- Divide by an exact number above 0. -/
def xOver (x : XVal) (q : Q) : XVal := xScale (qDiv (qInt 1) q) x

/-- The exact number of a finite Flue32 word, 0 otherwise. -/
def exact32 (t : W32) : Q := match f32 t with | .fin q _ => q | _ => ⟨0, 1⟩

/-- The signed Walsh–Hadamard transform of one whole group of 16; NaN where any value is not finite (R151, R152). -/
def hadamard (f : Nat → Nat → Bool) (g : List XVal) : List XVal :=
  if g.any (fun x => match x with | .fin _ _ => false | _ => true) then g.map (fun _ => XVal.nan)
  else (List.range g.length).map (fun i =>
    let s := (List.range g.length).foldl (fun a j => match g.getD j .nan with
      | .fin q _ => qAdd a (if f i j then qNeg q else q)
      | _ => a) ⟨0, 1⟩
    .fin (qMul s ⟨1, 4⟩) false)

/-- Rotation before encoding (R151): a partial group is left as it stands. -/
def rotate (signs : Nat) (row : List XVal) : List XVal :=
  (pieces 16 row).flatMap (fun g =>
    if g.length = 16 then hadamard (fun i j => (popcount 4 (i &&& j) % 2 == 1) != nbit signs j) g else g)

/-- The inverse rotation (R153). -/
def unrotate (signs : Nat) (row : List XVal) : List XVal :=
  (pieces 16 row).flatMap (fun g =>
    if g.length = 16 then hadamard (fun j i => (popcount 4 (i &&& j) % 2 == 1) != nbit signs j) g else g)

/-- The choice of Scale8 for a block. -/
inductive Choice where
  | nar | zero | flush | code (c : Nat)
  deriving DecidableEq, Repr

/-- The Scale8 of a block by the direct choice (R122), or by the calibrated choice under ratio G (R149, R123). -/
def chooseScale (fmt : Nat) (t : W32) (cal : Bool) (g : W32) (size : Nat) (blk : List XVal) : Choice :=
  let fin := finMags blk
  if !scaleOk t then .nar
  else if fin = [] then .nar
  else
    let m := fin.foldl qMax ⟨0, 1⟩
    if m.n = 0 then .zero
    else
      let a := qDiv (qSum fin) (qInt size)
      let lim := if cal ∧ g ≠ 0x7F800000 then
          (let x := qMul (exact32 g) a; if qLt x m then x else m) else m
      let f := fmtOf fmt
      let r := qDiv lim (qMul (magOf f f.top) (exact32 t))
      if qLt r (qPow2 (-40)) then .flush
      else if qLt (qInt 7340032) r then .code 0xFB
      else .code (scaleAtLeast r)

/-- The histogram bin of a block with m > 0 (R150). -/
def ratioBin (size : Nat) (blk : List XVal) : Option Nat :=
  let m := maxMag blk
  if m.n = 0 then none else
  let a := qDiv (qSum (finMags blk)) (qInt size)
  let rho := qDiv m a
  some (min 31 (qFloor (qMul (qInt 2) (qSub rho (qInt 1)))))

/-- What a narrowing gives: element codes, Scale8 bytes, clipped and NaN elements, counted events, observed bins, the
largest source magnitude, and the ember entries to write. -/
structure Narrowed where
  codes : List Nat := []
  scales : List Nat := []
  clips : List Bool := []
  nans : List Bool := []
  flush : Nat := 0
  shadowClip : Nat := 0
  bins : List Nat := []
  amax : Q := ⟨0, 1⟩
  observed : Bool := false
  ember : List W16 := []
  deriving DecidableEq, Repr

/-- The residual of an element for the ember buffer (R156, steps 5). -/
def residual (t : W32) (x : XVal) (written : XVal) : W16 :=
  match x, written with
  | .fin q _, .fin w _ =>
    let r := qDiv (qSub q w) (exact32 t)
    if r.n = 0 then 0
    else BitVec.ofNat 16 (convElem 4 (.fin r false)).1
  | _, _ => 0

/-- Step 2 of R121: add the ember entries times T. A sum that is zero is +0. DESIGN CHOICE, log 122. -/
def addEmber (t : W32) (row : List XVal) (em : List W16) : List XVal :=
  (List.range row.length).map (fun k =>
    match row.getD k .nan, decodeVal 4 (em.getD k 0).toNat with
    | .fin q s, .fin e _ => if e.n = 0 then .fin q s else .fin (qAdd q (qMul e (exact32 t))) false
    | x, _ => x)

/-- Encode one block or row part whose scale is known. `s` is the value of the block scale, 1 for a format without. -/
def encodeRun (fmt : Nat) (t : W32) (s : Q) (xs : List XVal) : List (Nat × Bool × Bool × XVal) :=
  if !scaleOk t then xs.map (fun _ => (nanCode fmt, false, true, XVal.nan))
  else
    let k := qMul s (exact32 t)
    xs.map (fun x =>
      let (c, clip, nan) := convElem fmt (xOver x k)
      (c, clip, nan, xScale k (decodeVal fmt c)))

/-- The shadow evaluation of R163 over blocks of 16: shadow clips and bins. -/
def shadowRun (n : Narrow) (t g : W32) (xs : List XVal) : Nat × List Nat :=
  let f := fmtOf n.shadowFmt
  (pieces 16 xs).foldl (fun (a : Nat × List Nat) b =>
    let lim (c : Nat) : Q := qMul (magOf f f.top) (qMul (scaleVal c) (exact32 t))
    let clips := match chooseScale n.shadowFmt t n.calibrated g 16 b with
      | .code c => ((finMags b).filter (fun m => qLt (lim c) m)).length
      | _ => 0
    (a.1 + clips, a.2 ++ (ratioBin 16 b).toList)) (0, [])

/-- Narrow one row of exact values into fmt with tensor scale t, under a narrowing control, the latched ratio g and the
row's ember entries (R121, R148). -/
def narrowRow (fmt : Nat) (t : W32) (n : Narrow) (g : W32) (row : List XVal) (em : List W16) : Narrowed :=
  let y := if n.rot then rotate n.signs row else row
  let x := if n.ember then addEmber t y em else y
  let sh := n.shadow && (fmt == 2 || fmt == 3)
  let (sc, sbins) := if sh then shadowRun n t g x else (0, [])
  let finish (codes : List (Nat × Bool × Bool × XVal)) (scales : List Nat) (fl : Nat) (bins : List Nat) : Narrowed :=
    { codes := codes.map (·.1), scales := scales, clips := codes.map (·.2.1), nans := codes.map (·.2.2.1), flush := fl
      shadowClip := sc, bins := if sh then sbins else bins, amax := maxMag row, observed := true
      ember := if n.ember then (List.range x.length).map (fun k =>
          residual t (x.getD k .nan) (codes.getD k (0, false, true, .nan)).2.2.2) else [] }
  if blockFmt fmt then
    let size := blockSize fmt
    let blocks := (pieces size x).map (fun b =>
      let bin := ratioBin size b
      match chooseScale fmt t n.calibrated g size b with
      | .nar => (b.map (fun _ => (nanCode fmt, false, true, XVal.nan)), 0xFF, 0, bin)
      | .zero => (encodeRun fmt t (scaleVal 0) b, 0, 0, bin)
      | .flush => (b.map (fun (v : XVal) => match v with
          | .fin _ _ => (0, false, false, XVal.fin ⟨0, 1⟩ false)
          | _ => (nanCode fmt, false, true, XVal.nan)), 0, 1, bin)
      | .code c => (encodeRun fmt t (scaleVal c) b, c, 0, bin))
    finish (blocks.flatMap (·.1)) (blocks.map (·.2.1)) (blocks.foldl (fun a b => a + b.2.2.1) 0)
      (blocks.flatMap (fun b => b.2.2.2.toList))
  else finish (encodeRun fmt t (qInt 1) x) [] 0 []

/-- The exact values of stored elements (R114, R120): codes, Scale8 bytes and tensor scale. -/
def exactRow (fmt : Nat) (t : W32) (codes scales : List Nat) : List XVal :=
  if fmt = flue then codes.map (decodeVal flue)
  else if !scaleOk t then codes.map (fun _ => XVal.nan)
  else (List.range codes.length).map (fun i =>
    let c := codes.getD i 0
    if blockFmt fmt then
      let s := scales.getD (i / blockSize fmt) 0xFF
      if scaleNar s then .nan else xScale (qMul (scaleVal s) (exact32 t)) (decodeVal fmt c)
    else xScale (exact32 t) (decodeVal fmt c))

/-- Convert exact values to Flue32 (a widening, with the inverse rotation where ROT_EN is set): words, clips, NaNs. -/
def widenRow (n : Narrow) (row : List XVal) : List (W32 × Bool × Bool) :=
  (if n.rot then unrotate n.signs row else row).map (fun x =>
    let (c, clip, nan) := convElem flue x
    (BitVec.ofNat 32 c, clip, nan))

/-- Bytes of a run of element codes (R116). -/
def packRun (fmt : Nat) (codes : List Nat) : List Byte :=
  let b := (fmtOf fmt).bits
  leBytes ((codes.length * b + 7) / 8) (codes.foldr (fun x a => x + 2 ^ b * a) 0)

/-- Element codes of a run of bytes. -/
def unpackRun (fmt : Nat) (n : Nat) (bs : List Byte) : List Nat :=
  let b := (fmtOf fmt).bits
  let x := ofLE bs
  (List.range n).map (fun i => nbits x (b * i + b - 1) (b * i))

/-- Bytes of n elements of a format. -/
def runBytes (fmt n : Nat) : Nat := (n * (fmtOf fmt).bits + 7) / 8

/-- Blocks of a row of n elements (R115). -/
def rowBlocks (fmt n : Nat) : Nat := if blockFmt fmt then ceilDiv n (blockSize fmt) else 0

end Sys2Proof.Machine
end

