-- ==== Sys2Proof/Machine/Desc.lean ====
section
/-! DEFINITION. Base-die record bodies: stoker descriptors (Table 8-5), flue endpoints (Table 9-14a), and the addresses
and extents they name (R253, R254, R500). -/

namespace Sys2Proof.Machine

/-- An n-byte field of a record body. -/
def bodyNum (b : BitVec 896) (off n : Nat) : Nat := nbits b.toNat (8 * (off + n) - 1) (8 * off)

/-- The rows, slots and addresses that stoker descriptors and PUT and GET endpoints share. -/
structure Layout where
  fmt : Nat
  elems : Nat
  rows : Nat
  tagMod : Nat
  wrap : Bool
  base : Nat
  rowStride : Nat
  tagStride : Nat
  scaleSep : Bool := false
  scaleBase : Nat := 0
  scaleRowStride : Nat := 0
  scaleTagStride : Nat := 0
  deriving DecidableEq, Repr

/-- A stoker descriptor (Table 8-5). Formats are fmtOf indices. -/
structure Stk where
  mode : Nat
  mem : Layout
  tokFmt : Nat
  checkEn : Bool
  checkLive : Bool
  trigKind : Bool
  trigPred : Bool
  destIn : Nat
  dest : Nat
  src : Nat
  srcOut : Nat
  checkIdx : Nat
  memT : W32
  tokT : W32
  postEvery : Nat
  batch : Nat
  dst : Nat
  waitObj : Nat
  postObj : Nat
  postAmount : Nat
  nar : Narrow
  deriving DecidableEq, Repr

/-- Read a stoker descriptor. -/
def stkOf (b : BitVec 896) : Stk :=
  let f := bodyNum b 1 1
  let fl := bodyNum b 2 1
  { mode := bodyNum b 0 1
    mem :=
      { fmt := if nbit f 7 then flue else nbits f 6 4, elems := bodyNum b 0x14 4, rows := bodyNum b 0x18 2
        tagMod := bodyNum b 0x1A 2, wrap := nbit fl 5, base := bodyNum b 0x20 5, rowStride := bodyNum b 0x28 8
        tagStride := bodyNum b 0x30 8, scaleSep := nbit fl 0, scaleBase := bodyNum b 0x38 5
        scaleRowStride := bodyNum b 0x40 8, scaleTagStride := bodyNum b 0x48 8 }
    tokFmt := if nbit f 3 then flue else nbits f 2 0
    checkEn := nbit fl 1, checkLive := nbit fl 2, trigKind := nbit fl 3, trigPred := nbit fl 4
    destIn := bodyNum b 3 1 % 16, dest := bodyNum b 4 2, src := bodyNum b 6 2, srcOut := bodyNum b 8 1 % 16
    checkIdx := bodyNum b 0x0A 2, memT := BitVec.ofNat 32 (bodyNum b 0x0C 4), tokT := BitVec.ofNat 32 (bodyNum b 0x10 4)
    postEvery := bodyNum b 0x1C 2, batch := bodyNum b 0x1E 2, dst := bodyNum b 0x50 5, waitObj := bodyNum b 0x58 2
    postObj := bodyNum b 0x5A 2, postAmount := bodyNum b 0x5C 2, nar := narrowOf b }

/-- An endpoint record (Table 9-14a). -/
structure EpD where
  kind : Nat
  cls : Nat
  root : Bool
  lay : Layout
  tokFmt : Nat
  localIo : Nat
  loc : Nat
  peerModule : Nat
  peerHearth : Nat
  peerEp : Nat
  credits : Nat
  senders : Nat
  index : Nat
  window : Nat
  wireT : W32
  tokT : W32
  nar : Narrow
  deriving DecidableEq, Repr

/-- Read an endpoint record. -/
def epOf (b : BitVec 896) : EpD :=
  let fl := bodyNum b 1 1
  let f := bodyNum b 2 1
  { kind := bodyNum b 0 1, cls := b2n (nbit fl 0), root := nbit fl 2
    lay :=
      { fmt := if nbit f 7 then flue else nbits f 6 4, elems := bodyNum b 0x38 4, rows := bodyNum b 0x3C 2
        tagMod := bodyNum b 0x3E 2, wrap := nbit fl 1, base := bodyNum b 0x20 5, rowStride := bodyNum b 0x28 8
        tagStride := bodyNum b 0x30 8 }
    tokFmt := if nbit f 3 then flue else nbits f 2 0
    localIo := bodyNum b 3 1 % 16, loc := bodyNum b 4 2, peerModule := bodyNum b 8 4 % 2 ^ 18
    peerHearth := bodyNum b 0x0C 1 % 16, peerEp := bodyNum b 0x0E 2 % 512, credits := bodyNum b 0x10 2
    senders := bodyNum b 0x12 2, index := bodyNum b 0x14 2, window := bodyNum b 0x16 1
    wireT := BitVec.ofNat 32 (bodyNum b 0x18 4), tokT := BitVec.ofNat 32 (bodyNum b 0x1C 4), nar := narrowOf b }

/-! ### Layout in memory (R253, R254) -/

/-- The slot index of the tag at position i. -/
def slotIdx (l : Layout) (i : Nat) : Nat := if l.wrap then i % max 1 l.tagMod else i

/-- Element bytes of a row. -/
def rowElemBytes (l : Layout) : Nat := runBytes l.fmt l.elems

/-- Scale bytes of a row. -/
def rowScaleBytes (l : Layout) : Nat := rowBlocks l.fmt l.elems

/-- First byte of row r of slot m. -/
def rowAddr (l : Layout) (m r : Nat) : Nat := l.base + m * l.tagStride + r * l.rowStride

/-- First scale byte of row r of slot m. -/
def scaleAddr (l : Layout) (m r : Nat) : Nat :=
  if l.scaleSep then l.scaleBase + m * l.scaleTagStride + r * l.scaleRowStride else rowAddr l m r + rowElemBytes l

/-- The byte ranges of row r of slot m, as (address, length). -/
def rowRanges (l : Layout) (m r : Nat) : List (Nat × Nat) :=
  (rowAddr l m r, rowElemBytes l) :: if rowScaleBytes l = 0 then [] else [(scaleAddr l m r, rowScaleBytes l)]

/-- The packed row length of a format (R254). -/
def packedRow (fmt elems : Nat) : Nat := runBytes fmt elems + rowBlocks fmt elems

/-- The COPY destination of row r of slot m. -/
def copyAddr (d : Stk) (m r : Nat) : Nat := d.dst + (m * d.mem.rows + r) * packedRow d.tokFmt d.mem.elems

/-- The slots a descriptor addresses over a step of n tags (R154, R500). -/
def slotsOf (l : Layout) (n : Nat) : Nat := if l.wrap then l.tagMod else n

/-- The rows and scale runs of a layout, as extents (R500). -/
def rowExtents (l : Layout) (n : Nat) : List (Nat × Nat) :=
  let s := slotsOf l n - 1
  let r := l.rows - 1
  let inl := rowElemBytes l + if l.scaleSep then 0 else rowScaleBytes l
  (l.base, s * l.tagStride + r * l.rowStride + inl) ::
    if l.scaleSep ∧ rowScaleBytes l ≠ 0 then
      [(l.scaleBase, s * l.scaleTagStride + r * l.scaleRowStride + rowScaleBytes l)] else []

/-- Elements of an ember buffer (R154). -/
def emberCount (l : Layout) (n : Nat) : Nat := slotsOf l n * l.rows * l.elems

/-- A thread narrows with ember carry: its target is a narrow format or Flame16 (R148). -/
def stkTarget (d : Stk) : Nat := if d.mode = 1 then d.mem.fmt else d.tokFmt

/-- A thread keeps an ember buffer. -/
def stkEmber (d : Stk) : Bool := d.nar.ember && (d.mode == 0 || d.mode == 1 || d.mode == 3) && stkTarget d != flue

/-- The extents of a stoker descriptor over a step of n tags (R500). -/
def stkExtents (d : Stk) (n : Nat) : List (Nat × Nat) :=
  (if d.mode = 0 ∨ d.mode = 1 ∨ d.mode = 3 then rowExtents d.mem n else [])
  ++ (if d.mode = 3 then [(d.dst, slotsOf d.mem n * d.mem.rows * packedRow d.tokFmt d.mem.elems)] else [])
  ++ (if d.mode = 2 then [(d.mem.base, (d.mem.tagMod - 1) * d.mem.tagStride + 128 * d.mem.rows)] else [])
  ++ (if stkEmber d then [(d.nar.emberBase, 64 + 2 * emberCount d.mem n)] else [])

/-- The elements of an endpoint's ember buffer over n tags: a CONTRIBUTE slot holds 16 (R154). -/
def epEmberCount (d : EpD) (n : Nat) : Nat :=
  if d.kind = 5 ∨ d.kind = 6 then slotsOf d.lay n * 16 else emberCount d.lay n

/-- An endpoint keeps an ember buffer: it narrows (PUT, CONTRIBUTE and a COMBINE without ROOT to the wire, GET to
tokens). The slots of a COMBINE are those of a CONTRIBUTE. DESIGN CHOICE, log 125. -/
def epEmber (d : EpD) : Bool :=
  d.nar.ember && (((d.kind == 3 || d.kind == 5 || (d.kind == 6 && !d.root)) && d.lay.fmt != flue) || (d.kind == 4 && d.tokFmt != flue))

/-- A step's section has an endpoint with a peer, or a SYNC_LINK endpoint: it is linked (R337). -/
def epLinks (d : EpD) : Bool := d.peerHearth < 9 || d.kind == 7

/-- The endpoint is a sink (reads a tile output). -/
def epSink (d : EpD) : Bool := d.kind == 1 || d.kind == 3 || d.kind == 5

/-- The endpoint is a source (feeds a tile input). -/
def epSource (d : EpD) : Bool := d.kind == 2 || d.kind == 4 || (d.kind == 6 && d.root)

end Sys2Proof.Machine
end

