-- ==== Sys2Proof/Machine/Calib.lean ====
section
/-! DEFINITION. The calibration engine (R142 to R147) and escalation (R159 to R165). -/

namespace Sys2Proof.Machine

/-- The key of record (c, s). -/
def calKey (c s : Nat) : Nat := 32 * c + s % 32

/-- A calibration record. -/
def calOf (hh : Hearth) (c s : Nat) : CalRec := mget {} hh.cal (calKey c s)

/-- Change a calibration record. -/
def updCal (hh : Hearth) (c s : Nat) (f : CalRec → CalRec) : Hearth := { hh with cal := mupd {} hh.cal (calKey c s) f }

/-- An observation of a magnitude (R143). -/
def observe (x : W32) (r : CalRec) : CalRec :=
  { r with observed := true, stepAmax := if r.stepAmax.toNat < x.toNat then x else r.stepAmax }

/-- The largest finite magnitude among words, if any is finite. -/
def amaxWords (l : List W32) : Option W32 :=
  l.foldl (fun a x =>
    let m := x &&& 0x7FFFFFFF
    if 0x7F800000 ≤ m.toNat then a else match a with
      | none => some m
      | some b => some (if b.toNat < m.toNat then m else b)) none

/-- Count a narrowing: elements, clips, NaNs, NaR blocks, flushes, shadow clips, bins, and the observed magnitude, rounded to
Flue32: one beyond the largest finite value is +∞. DESIGN CHOICE, log 123. -/
def countNarrow (r : CalRec) (n : Narrowed) : CalRec :=
  let c := (n.clips.filter id).length
  let nn := (n.nans.filter id).length
  let r := { r with
    elems := sat 64 (r.elems + n.codes.length), clip := sat 64 (r.clip + c), nar := sat 64 (r.nar + nn)
    narBlock := sat 64 (r.narBlock + (n.scales.filter scaleNar).length), flush := sat 64 (r.flush + n.flush)
    shadowClip := sat 64 (r.shadowClip + n.shadowClip)
    hist := n.bins.foldl (fun h b => mupd 0 h b (fun v => sat 64 (v + 1))) r.hist }
  if n.observed then observe (round32 (.fin n.amax false)) r else r

/-- Count NaNs and flushes of a tile or a widening. -/
def countNar (nar flush : Nat) (r : CalRec) : CalRec :=
  if nar = 0 ∧ flush = 0 then r else { r with nar := sat 64 (r.nar + nar), flush := sat 64 (r.flush + flush) }

/-- Count clips of a widening (Table 4-8). -/
def countClip (n : Nat) (r : CalRec) : CalRec := if n = 0 then r else { r with clip := sat 64 (r.clip + n) }

/-- Clear the step fields of a record (R144, R146). -/
def clearStep (r : CalRec) : CalRec :=
  { r with observed := false, stepAmax := 0, elems := 0, clip := 0, nar := 0, narBlock := 0, flush := 0, shadowClip := 0
           emberReset := 0, hist := [] }

/-- Launch: clear the step fields and latch RATIO, AMAX_RUN and ENABLE (R144). -/
def latchRec (r : CalRec) : CalRec :=
  { clearStep r with
    latRatio := r.state.extractLsb' 0 32, latAmax := r.state.extractLsb' 32 32, latEnable := nbit r.cfg.toNat 63 }

/-- Latch every record of a context. -/
def latchCal (hh : Hearth) (c : Nat) : Hearth := (List.range 32).foldl (fun hh s => updCal hh c s latchRec) hh

/-- The fold of R145. -/
def foldRec (r : CalRec) : CalRec :=
  let cfg := r.cfg.toNat
  let decay := nbits cfg 59 56
  let run : W32 := r.state.extractLsb' 32 32
  let decayed : W32 := if decay = 0 then run else
    round32 (.fin (qMul (exact32 run) ⟨2 ^ decay - 1, 2 ^ decay⟩) false)
  let run' := if r.observed then (if decayed.toNat < r.stepAmax.toNat then r.stepAmax else decayed) else run
  let b := (List.range 32).foldl (fun a i => a + mget 0 r.hist i) 0
  let ratio : W32 := if 2 ^ nbits cfg 55 52 ≤ b then
      let allow := b * nbits cfg 31 16 / 65536
      let upto (i : Nat) : Nat := (List.range (i + 1)).foldl (fun a j => a + mget 0 r.hist j) 0
      let i := ((List.range 32).find? (fun i => b - allow ≤ upto i)).getD 31
      if i = 31 then 0x7F800000
      else round32 (.fin (qMul ⟨64 + nbits cfg 47 40, 64⟩ ⟨3 + i, 2⟩) false)
    else r.state.extractLsb' 0 32
  { r with state := BitVec.ofNat 64 (run'.toNat * 2 ^ 32 + ratio.toNat) }

/-- The end of a step: the step counters enter the lifetime counters, and the record is folded where the step ended
with DONE or DONE_WITH_REPORT and ENABLE is set (R145). -/
def endRec (done : Bool) (r : CalRec) : CalRec :=
  let r := { r with
    lifeElems := sat 64 (r.lifeElems + r.elems), lifeClip := sat 64 (r.lifeClip + r.clip)
    lifeNar := sat 64 (r.lifeNar + r.nar) }
  if done && nbit r.cfg.toNat 63 then foldRec r else r

/-- The end of a step of context c. -/
def endCal (hh : Hearth) (c : Nat) (done : Bool) : Hearth :=
  (List.range 32).foldl (fun hh s => updCal hh c s (endRec done)) hh

/-! ### Escalation -/

/-- A section of a context. -/
def sectionOf (hh : Hearth) (c s : Nat) : Section := ((mget {} hh.ctxs c).sections).getD s {}

/-- The escalation record of a section. -/
def escRec (hh : Hearth) (c s : Nat) : W64 := mget 0 (mget {} hh.ctxs c).esc s

/-- Replace the escalation record of a section. -/
def putEsc (hh : Hearth) (c s : Nat) (v : W64) : Hearth :=
  { hh with ctxs := mupd {} hh.ctxs c (fun x => { x with esc := mput 0 x.esc s v }) }

/-- The watched streams of a section whose step converted elements. -/
def watched (hh : Hearth) (c : Nat) (sec : Section) : List CalRec :=
  ((setBits 32 sec.escStreams.toNat).map (fun s => calOf hh c s)).filter (fun r => 0 < r.elems)

/-- The trigger of R162. -/
def escTrigger (hh : Hearth) (c : Nat) (sec : Section) : Bool :=
  sec.escThresh != 0 && (watched hh c sec).any (fun r => decide (sec.escThresh * r.elems < r.clip * 65536))

/-- A clean variant step (R164). -/
def escCleanStep (hh : Hearth) (c : Nat) (sec : Section) : Bool :=
  (watched hh c sec).all (fun r => decide (r.shadowClip * 131072 ≤ sec.escThresh * r.elems))

/-- The escalation code at the end of a step launched through section s, and the record after it (R165, Table 5-11).
`base` is true when the section itself ran. -/
def escalate (hh : Hearth) (c s : Nat) (base done : Bool) : Nat × Hearth :=
  let sec := sectionOf hh c s
  let rec_ := (escRec hh c s).toNat
  let clean := nbits rec_ 55 48
  let count := nbits rec_ 31 0
  let put (mode clean count : Nat) : Hearth := putEsc hh c s (BitVec.ofNat 64 (mode * 2 ^ 62 + clean * 2 ^ 48 + count))
  if base then
    if !done then (7, hh)
    else if !escTrigger hh c sec then (0, hh)
    else if sec.variant.isNone then (2, hh)
    else (1, put 1 0 (sat 32 (count + 1)))
  else if !done then (8, hh)
  else if watched hh c sec = [] then (6, hh)
  else if !escCleanStep hh c sec then (3, put (nbits rec_ 63 62) 0 count)
  else if clean + 1 < sec.escClean then (4, put (nbits rec_ 63 62) (clean + 1) count)
  else (5, put 0 0 count)

end Sys2Proof.Machine
end

