-- ==== Sys2Proof/Machine/Tiles.lean ====
section
/-! DEFINITION. Compute tiles: their registers (Tables 2-10 to 2-27), the units of a section, streams and credits (R201
to R216), admission (R84 to R90), and groups of tokens (R78). -/

namespace Sys2Proof.Machine

/-- Bits of a register. -/
def wb (w : W64) (hi lo : Nat) : Nat := nbits w.toNat hi lo

/-! ### Registers -/

/-- Reset value of JD_IN_STREAM (Table 2-21). -/
def inReset : W64 := 0x005C000000000000
/-- Reset value of JD_SYNC (Table 2-24). -/
def syncReset : W64 := 0x05C0000000000000
/-- Reset value of JD_CHK_LIMIT (Table 2-27). -/
def limReset : W64 := 0x7F800000FF800000
/-- Reset value of JD_CHK_CTRL (Table 2-27). -/
def ctlReset : W64 := 0x7F800000FFFF8080

/-- Compute tile v. -/
def tileAt (hh : Hearth) (v : Nat) : Tile := mget {} hh.tiles v
/-- Replace a tile. -/
def putTile (hh : Hearth) (v : Nat) (t : Tile) : Hearth := { hh with tiles := mput {} hh.tiles v t }
/-- Change a tile. -/
def updTile (hh : Hearth) (v : Nat) (f : Tile → Tile) : Hearth := putTile hh v (f (tileAt hh v))
/-- The configuration of a tile's active context. -/
def cfgOf (t : Tile) : TileCfg := mget {} t.cfg t.active
/-- JD_IN_STREAM[n]. -/
def inReg (t : Tile) (n : Nat) : W64 := mget inReset (cfgOf t).ins n
/-- JD_OUT_STREAM[n]. -/
def outReg (t : Tile) (n : Nat) : W64 := mget 0 (cfgOf t).outs n
/-- JD_OP[n]. -/
def opReg (t : Tile) (n : Nat) : W64 := mget 0 (cfgOf t).ops n
/-- JD_SYNC[n]. -/
def syncReg (t : Tile) (n : Nat) : W64 := mget syncReset (cfgOf t).syncs n
/-- An n-byte field of the parameter block of a slot. -/
def param (t : Tile) (slot off n : Nat) : Nat := nbits (mget 0 (cfgOf t).params slot).toNat (8 * (off + n) - 1) (8 * off)
/-- The live state of an input. -/
def inLive (t : Tile) (n : Nat) : InLive := mget {} t.ins n
/-- Replace the live state of an input. -/
def putIn (t : Tile) (n : Nat) (x : InLive) : Tile := { t with ins := mput {} t.ins n x }
/-- The sender's end of an output. -/
def outLive (t : Tile) (n : Nat) : OutLive := mget {} t.outs n
/-- Replace the sender's end of an output. -/
def putOut (t : Tile) (n : Nat) (x : OutLive) : Tile := { t with outs := mput {} t.outs n x }

/-- TYPE of an input: 0 plain, 1 feedback, 2 combining, 3 staged. -/
def inType (t : Tile) (n : Nat) : Nat := wb (inReg t n) 62 61
/-- W of an input. -/
def inWindowOf (t : Tile) (n : Nat) : Nat := wb (inReg t n) 60 55 + 1
/-- Senders of a combining input. -/
def inSenders (t : Tile) (n : Nat) : Nat := wb (inReg t n) 49 38 + 1
/-- The source of an input. -/
def inSrc (t : Tile) (n : Nat) : UnitRef := ⟨BitVec.ofNat 3 (wb (inReg t n) 37 35), BitVec.ofNat 16 (wb (inReg t n) 34 19)⟩
/-- BUFFER of a combining input. -/
def inBuffer (t : Tile) (n : Nat) : Nat := wb (inReg t n) 18 8
/-- The destination of an output, and its input there. -/
def outDest (t : Tile) (n : Nat) : UnitRef × Nat :=
  (⟨BitVec.ofNat 3 (wb (outReg t n) 62 60), BitVec.ofNat 16 (wb (outReg t n) 59 44)⟩, wb (outReg t n) 43 40)

/-- Slots with ENABLE set, rising. -/
def slotsOn (t : Tile) : List Nat := (List.range 32).filter (fun s => nbit (opReg t s).toNat 63)
/-- OPCODE of a slot. -/
def opCode (t : Tile) (s : Nat) : Nat := wb (opReg t s) 62 56
/-- The inputs that a slot names. -/
def opIns (t : Tile) (s : Nat) : List Nat := setBits 16 (wb (opReg t s) 47 32)
/-- The outputs that a slot names. -/
def opOuts (t : Tile) (s : Nat) : List Nat := setBits 16 (wb (opReg t s) 31 16)
/-- The slots that name an input. -/
def slotsNaming (t : Tile) (n : Nat) : List Nat := (slotsOn t).filter (fun s => (opIns t s).contains n)
/-- COUNT of a function-tile slot. -/
def opCount (t : Tile) (s : Nat) : Nat := param t s 8 2
/-- The slot's stream operands hold COUNT tokens each (R82). -/
def counted (code : Nat) : Bool := code == 0x10 || code == 0x11 || code == 0x12 || code == 0x13 || code == 0x15

/-- The selectors that a slot reads (Table 2-8), MOVE's STREAM or LINE in the selector form. -/
def readSels (t : Tile) (slot : Nat) : List Nat :=
  match opCode t slot with
  | 0x10 => [param t slot 0 2, param t slot 2 2, param t slot 4 2]
  | 0x11 => [param t slot 2 2, param t slot 4 2]
  | 0x12 => [param t slot 2 2]
  | 0x13 => [param t slot 2 2]
  | 0x15 => if param t slot 0 1 = 0 then [param t slot 2 2 % 16] else [0x8000 + param t slot 4 2 % 2048]
  | _ => []

/-- The stream operands of a slot. -/
def streamOperands (t : Tile) (slot : Nat) : List Nat :=
  ((readSels t slot).filter (fun x => !nbit x 15)).map (· % 16)

/-! ### The section's units -/

/-- The step states in which the hearth runs a step (R66). -/
def liveState : StepState → Bool
  | .starting => true | .running => true | .halting => true | .saving => true | .restoring => true | _ => false

/-- The running step of a hearth, in STARTING to RESTORING other than FROZEN. -/
def runStep (hh : Hearth) : Option Step := hh.steps.find? (fun x => liveState x.state)

/-- Change a step. -/
def updStep (hh : Hearth) (id : Nat) (f : Step → Step) : Hearth :=
  { hh with steps := hh.steps.map (fun x => if x.id = id then f x else x) }

/-- Tile v belongs to section s of context c. -/
def tileInSec (hh : Hearth) (c s v : Nat) : Bool :=
  let t := tileAt hh v
  tileEnabled hh v && nbit t.valid.toNat c && (mget {} t.cfg c).section_ == s

/-- The tiles of section s of context c, rising. -/
def secTiles (hh : Hearth) (c s : Nat) : List Nat := (hh.tiles.map (·.1)).filter (tileInSec hh c s)

/-- The stoker threads of section s of context c. -/
def secThreads (hh : Hearth) (c s : Nat) : List (Nat × ThreadCfg) :=
  (mget {} hh.ctxs c).threads.filter (fun x => x.2.section_ == s)

/-- The endpoints of section s of context c. -/
def secEps (hh : Hearth) (c s : Nat) : List (Nat × EpCfg) :=
  (mget {} hh.ctxs c).eps.filter (fun x => x.2.section_ == s)

/-- The reference of an endpoint. -/
def epRef (home e : Nat) : UnitRef := ⟨4, BitVec.ofNat 16 (home % 16 * 512 + e % 512)⟩

/-- A unit of Table 2-20 belongs to section s of context c. -/
def unitInSec (hh : Hearth) (c s : Nat) (u : UnitRef) : Bool :=
  match u.kind.toNat with
  | 1 => (match tileOfId u.id.toNat with | some v => tileInSec hh c s v | none => false)
  | 2 => (secThreads hh c s).any (fun x => x.1 == u.id.toNat)
  | 4 => (secEps hh c s).any (fun x => x.1 == u.id.toNat % 512)
  | _ => false

/-- The step that owns a unit: the running step whose section holds it. -/
def ownerOf (hh : Hearth) (u : UnitRef) : Option Step :=
  match runStep hh with
  | some x => if unitInSec hh x.ctx x.ran u then some x else none
  | none => none

/-- The stoker descriptor of thread u in context c. -/
def threadDesc (hh : Hearth) (c u : Nat) : Option Stk :=
  ((mget {} hh.ctxs c).threads.find? (fun x => x.1 == u)).map (fun x => stkOf x.2.body)

/-- The endpoint record e of context c. -/
def epDesc (hh : Hearth) (c e : Nat) : Option EpD :=
  ((mget {} hh.ctxs c).eps.find? (fun x => x.1 == e)).map (fun x => epOf x.2.body)

/-- A thread. -/
def threadAt (hh : Hearth) (u : Nat) : Thread := mget {} hh.threads u
/-- Change a thread. -/
def updThread (hh : Hearth) (u : Nat) (f : Thread → Thread) : Hearth := { hh with threads := mupd {} hh.threads u f }
/-- An endpoint. -/
def epAt (hh : Hearth) (e : Nat) : EpLive := mget {} hh.eps e
/-- Change an endpoint. -/
def updEp (hh : Hearth) (e : Nat) (f : EpLive → EpLive) : Hearth := { hh with eps := mupd {} hh.eps e f }

/-! ### Positions and tags -/

/-- The tag at position i of a step. -/
def tagAt (st : Step) (i : Nat) : W16 := st.first + BitVec.ofNat 16 i

/-- The position of a tag: the first at or after base that carries it. -/
def posOf (st : Step) (base : Nat) (tag : W16) : Nat := base + (tag - tagAt st base).toNat

/-- Positions a unit has done, as those below `pre` and those listed. -/
def advanceDone (pre : Nat) (l : List Nat) : Nat → Nat × List Nat
  | 0 => (pre, l)
  | n + 1 => if l.contains pre then advanceDone (pre + 1) (l.filter (· != pre)) n else (pre, l)

/-- Mark a position done. -/
def markDone (pre : Nat) (l : List Nat) (i : Nat) : Nat × List Nat :=
  let l' := if l.contains i ∨ i < pre then l else l ++ [i]
  advanceDone pre l' (l'.length + 1)

/-- Mark the tag at a position done at an endpoint. -/
def epDone (hh : Hearth) (k i : Nat) : Hearth :=
  updEp hh k (fun x =>
    let (p, l) := markDone x.donePre x.done i
    { x with donePre := p, done := l })

/-- Tags that every sink of a section has retired, counted from the first (R70, R86). -/
def retiredTags (hh : Hearth) (st : Step) : Nat :=
  let th := (secThreads hh st.ctx st.ran).filterMap (fun x =>
    let m := (stkOf x.2.body).mode
    if m = 1 ∨ m = 2 then some (threadAt hh x.1).donePre else none)
  let ep := (secEps hh st.ctx st.ran).filterMap (fun x =>
    if epSink (epOf x.2.body) then some (epAt hh x.1).donePre else none)
  (th ++ ep).foldl min st.n

/-- The issue window of a section: the largest W of its inputs (R86). -/
def issueWindow (hh : Hearth) (st : Step) : Nat :=
  (secTiles hh st.ctx st.ran).foldl (fun a v =>
    let t := tileAt hh v
    (List.range 16).foldl (fun a n => if nbit (inReg t n).toNat 63 then max a (inWindowOf t n) else a) a) 1

/-- Position i lies within the issue window: every sink has retired position i − W (R86). -/
def withinIssue (hh : Hearth) (st : Step) (i : Nat) : Bool :=
  decide (i < issueWindow hh st) || decide (i - issueWindow hh st < retiredTags hh st)

/-- A source may issue position i (R86). -/
def mayIssue (hh : Hearth) (st : Step) (i : Nat) : Bool := decide (i < st.n) && withinIssue hh st i

/-- The position of a tag at a unit that has come as far as position `base`. -/
def posAround (st : Step) (base : Nat) (tag : W16) : Nat := posOf st (base - min base 32768) tag

/-- The position of a tag near the oldest that some sink has not retired (R86). -/
def posNear (hh : Hearth) (st : Step) (tag : W16) : Nat := posAround st (retiredTags hh st) tag

/-! ### Senders and readers -/

/-- Insert into a rising list. -/
def insertNat (a : Nat × UnitRef × Nat) : List (Nat × UnitRef × Nat) → List (Nat × UnitRef × Nat)
  | [] => [a]
  | b :: t => if a.1 < b.1 then a :: b :: t else b :: insertNat a t

/-- Every sender of context c whose stream names input n of tile v, as (key, unit, output), by key (R216). A load configures
enabled tiles only, and nothing changes the configuration while the context is valid: a tile retired since keeps its place. -/
def senderTable (hh : Hearth) (c v n : Nat) : List (Nat × UnitRef × Nat) :=
  let me := tileRef v
  let tiles := hh.tiles.flatMap (fun x =>
    let t := x.2
    let cfg := mget {} t.cfg c
    (List.range 16).filterMap (fun o =>
      let w := mget 0 cfg.outs o
      if nbit w.toNat 63 ∧ wb w 62 60 = 1 ∧ wb w 59 44 = me.id.toNat ∧ wb w 43 40 = n then
        some (unitKey (tileRef x.1) o, tileRef x.1, o) else none))
  let ths := (mget {} hh.ctxs c).threads.filterMap (fun x =>
    let d := stkOf x.2.body
    if (d.mode = 0 ∨ d.mode = 2 ∨ d.mode = 4) ∧ d.dest = me.id.toNat ∧ d.destIn = n then
      some (unitKey (threadRef x.1) 0, threadRef x.1, 0) else none)
  let eps := (mget {} hh.ctxs c).eps.filterMap (fun x =>
    let d := epOf x.2.body
    if epSource d ∧ d.loc = me.id.toNat ∧ d.localIo = n then
      some (unitKey (epRef x.2.home x.1) 0, epRef x.2.home x.1, 0) else none)
  (tiles ++ ths ++ eps).foldl (fun l a => insertNat a l) []

/-- The sender index of a unit output at a combining input (R216). -/
def senderIdx (hh : Hearth) (c v n : Nat) (u : UnitRef) (out : Nat) : Option Nat :=
  let l := senderTable hh c v n
  (List.range l.length).find? (fun i => match l[i]? with | some x => x.2.1 == u && x.2.2 == out | none => false)

/-- The sender of a plain, feedback or staged input: its source unit and the output that names the input (R201, R202). -/
def senderOf (hh : Hearth) (v n : Nat) : Option (UnitRef × Nat) :=
  let t := tileAt hh v
  ((senderTable hh t.active v n).find? (fun x => x.2.1 == inSrc t n)).map (fun x => (x.2.1, x.2.2))

/-- The sender end of a unit's output. -/
def sndLive (hh : Hearth) (u : UnitRef) (out : Nat) : OutLive :=
  match u.kind.toNat with
  | 1 => outLive (tileAt hh ((tileOfId u.id.toNat).getD 480)) out
  | 2 => (threadAt hh u.id.toNat).out
  | 4 => (epAt hh (u.id.toNat % 512)).out
  | _ => {}

/-- Replace the sender end of a unit's output. -/
def putSnd (hh : Hearth) (u : UnitRef) (out : Nat) (x : OutLive) : Hearth :=
  match u.kind.toNat with
  | 1 => (match tileOfId u.id.toNat with | some v => updTile hh v (fun t => putOut t out x) | none => hh)
  | 2 => updThread hh u.id.toNat (fun t => { t with out := x })
  | 4 => updEp hh (u.id.toNat % 512) (fun t => { t with out := x })
  | _ => hh

/-- Where a unit's output leads. -/
def destOf (hh : Hearth) (u : UnitRef) (out : Nat) : Option (UnitRef × Nat) :=
  let ctx := match runStep hh with | some x => x.ctx | none => 0
  match u.kind.toNat with
  | 1 => (match tileOfId u.id.toNat with
    | some v =>
      let t := tileAt hh v
      if nbit (outReg t out).toNat 63 then some (outDest t out) else none
    | none => none)
  | 2 => (threadDesc hh ctx u.id.toNat).map (fun d => (⟨1, BitVec.ofNat 16 d.dest⟩, d.destIn))
  | 4 => (epDesc hh ctx (u.id.toNat % 512)).map (fun d => (⟨1, BitVec.ofNat 16 d.loc⟩, d.localIo))
  | _ => none

/-- Take the credits of n tokens at an output (R77, R207). -/
def takeCredits (hh : Hearth) (u : UnitRef) (out n : Nat) : Hearth :=
  let o := sndLive hh u out
  putSnd hh u out { o with credits := o.credits - n }

/-- Tokens whose credits are taken leave on an output, in order (R203). The epoch is the reader's (R73). -/
def placeToks (hh : Hearth) (u : UnitRef) (out : Nat) (l : List Tok) : Hearth :=
  match destOf hh u out with
  | none => hh
  | some (r, n) =>
    let ep := (sndLive hh u out).epoch
    { hh with flights := hh.flights ++ l.map (fun t =>
        { snd := u, out := out, rcv := r, inp := n, tok := { t with epoch := ep } }) }

/-- Send tokens on an output: one credit each (R203, R207). -/
def sendToks (hh : Hearth) (u : UnitRef) (out : Nat) (l : List Tok) : Hearth :=
  placeToks (takeCredits hh u out l.length) u out l

/-- Return credits to a sender (R208). -/
def sendCredit (hh : Hearth) (u : UnitRef) (out : Nat) (epoch : BitVec 4) (n : Nat) : Hearth :=
  if n = 0 then hh else
  { hh with creditFlights := hh.creditFlights ++ [{ snd := u, out := out, epoch := epoch, count := n }] }

/-! ### Closed readers (R212 to R214) -/

/-- The SEND_TO_CLOSED record of Table 7-5, in the log of the sender's hearth, once for each sender output, reader input
and reason. -/
def closedRecord (e : Env) (hh : Hearth) (f : Flight) (reason : Nat) (readerEpoch : BitVec 4) : Hearth :=
  let key := (unitKey f.snd f.out, unitKey f.rcv f.inp, reason)
  let hh := match f.snd.kind.toNat, tileOfId f.snd.id.toNat with
    | 1, some v => updTile hh v (fun t => { t with fault := t.fault ||| 2 })
    | _, _ => hh
  let bits := f.snd.kind.toNat * 2 ^ 125 + f.snd.id.toNat * 2 ^ 109 + f.out % 16 * 2 ^ 105 + f.rcv.kind.toNat * 2 ^ 102
    + f.rcv.id.toNat * 2 ^ 86 + f.inp % 16 * 2 ^ 82 + reason * 2 ^ 78 + f.tok.epoch.toNat * 2 ^ 74
    + readerEpoch.toNat * 2 ^ 70 + f.tok.tag.toNat * 2 ^ 48 + e.now % 2 ^ 48
  let d := BitVec.ofNat 2048 bits
  match ownerOf hh f.snd with
  | some st =>
    if st.closedSeen.contains key then hh else
    let hh := updStep hh st.id (fun x => { x with closedSends := sat 32 (x.closedSends + 1), closedSeen := key :: x.closedSeen })
    logStep e hh (some st) f.tok.tag 0x0055 (refPath f.snd) 0 d
  | none =>
    if hh.closedSeen.contains key then hh else
    logOf e { hh with closedSeen := key :: hh.closedSeen } 0x0055 (refPath f.snd) 0 d

/-- A reader input opens or closes: later drops there make a record again (R214). -/
def forgetClosed (hh : Hearth) (u : UnitRef) (n : Nat) : Hearth :=
  { hh with closedSeen := hh.closedSeen.filter (fun k => k.2.1 != unitKey u n) }

/-- Which row of Table 7-4 applies at a compute tile: 0 accepts. -/
def tileReason (hh : Hearth) (v : Nat) (f : Flight) : Nat :=
  let t := tileAt hh v
  let x := inLive t f.inp
  if !nbit (inReg t f.inp).toNat 63 || t.state == .idle then 1
  else if x.closed then 2
  else if f.tok.epoch ≠ x.epoch then 3
  else if inType t f.inp = 2 then
    (match senderIdx hh t.active v f.inp f.snd f.out with
     | some i => if i < inSenders t f.inp then 0 else 4
     | none => 4)
  else if f.snd ≠ inSrc t f.inp then 4 else 0

/-- Drop a token at a compute tile: count, return the credit unless its epoch is old, record (Table 7-4). The credit carries
the token's epoch, so that the sender goes on after a reset of its reader (R213; DESIGN CHOICE, log 130). -/
def dropAtTile (e : Env) (hh : Hearth) (v : Nat) (f : Flight) (reason : Nat) : Hearth :=
  let x := inLive (tileAt hh v) f.inp
  let hh := updTile hh v (fun t => putIn t f.inp { x with dropped := sat 32 (x.dropped + 1) })
  let hh := if reason = 3 then hh else sendCredit hh f.snd f.out f.tok.epoch 1
  closedRecord e hh f reason x.epoch

/-! ### Windows (R84) -/

/-- The lowest of a set of tags, modulo 65,536. -/
def lowestTag (l : List W16) : Option W16 := l.find? (fun t => l.all (fun u => decide ((u - t).toNat < 32768)))

/-- An input of window w with these open tags admits tag u (R84). -/
def admits (w : Nat) (opened : List W16) (u : W16) : Bool :=
  opened.contains u ||
  (let l := u :: opened
   match lowestTag l with
   | some b => l.all (fun x => decide ((x - b).toNat < w))
   | none => false)

/-! ### Capacity -/

/-- Match-store or staging entries promised and not taken. -/
def promisedAll (t : Tile) : Nat := t.ins.foldl (fun a x => a + x.2.promised) 0

/-- Entries of the shared store in use: match store of a function tile, staging lines of a matrix tile. -/
def poolUsed (v : Nat) (t : Tile) : Nat := if isFn v then t.matches_.length else t.staging.length

/-- The input's tokens move on from its queue into the shared store. -/
def pooled (v : Nat) (t : Tile) (n : Nat) : Bool := if isFn v then inType t n < 2 else inType t n == 3

/-- Spilled tokens of an input's queue (R101). -/
def spilledQ (hh : Hearth) (v n : Nat) : Nat := (hh.spill.filter (fun x => x.1 == v && x.2.1 == n)).length

/-- A function-tile group of an operand that has reached COUNT tokens without LAST (R82): slot, COUNT, tokens seen. -/
def longGroup (v : Nat) (t : Tile) (n : Nat) (tag : W16) : Option (Nat × Nat × Nat) :=
  if !isFn v then none else
  let g := t.matches_.filter (fun m => m.inp == n && m.tok.tag == tag)
  if g.any (fun m => m.tok.last) then none else
  (slotsNaming t n).findSome? (fun s =>
    if counted (opCode t s) ∧ (streamOperands t s).contains n ∧ opCount t s ≤ g.length then some (s, opCount t s, g.length) else none)

/-- The spill area holds these records: the bytes of those that left are free (ledger 6). -/
def setSpill (hh : Hearth) (l : List (Nat × Nat × Tok)) : Hearth :=
  { hh with spill := l, spillFree := hh.spillFree + 128 * hh.spill.length - 128 * l.length }

/-- Spilled tokens of an input's queue leave with the group that is read (R101). -/
def unmark (hh : Hearth) (v n : Nat) (l : List Tok) : Hearth :=
  l.foldl (fun hh k => match hh.spill.findIdx? (fun s => s.1 == v && s.2.1 == n && s.2.2 == k) with
    | some i => setSpill hh (hh.spill.eraseIdx i)
    | none => hh) hh

/-- Admit the head of an input's queue, and move it into the shared store as R88 to R90 allow. Answers the hearth and
whether it moved. -/
def admitHead (hh : Hearth) (v n : Nat) : Hearth × Bool :=
  let t := tileAt hh v
  let x := inLive t n
  match x.queue with
  | [] => (hh, false)
  | k :: rest =>
    if !admits (inWindowOf t n) x.opened k.tag then (hh, false) else
    let x := { x with opened := if x.opened.contains k.tag then x.opened else x.opened ++ [k.tag] }
    if !pooled v t n then
      -- a matrix tile keeps the tokens of its other inputs in the queue: open every tag up to the first held token
      let run := x.queue.foldl (fun (a : List W16 × Bool) q =>
        if a.2 && admits (inWindowOf t n) a.1 q.tag then
          (if a.1.contains q.tag then a.1 else a.1 ++ [q.tag], true) else (a.1, false)) (x.opened, true)
      (putTile hh v (putIn t n { x with opened := run.1 }), false)
    else
      let free := poolUsed v t + promisedAll t < 256
      if x.promised = 0 ∧ !free then (putTile hh v (putIn t n x), false)
      else
        let x := { x with queue := rest, promised := x.promised - 1 }
        let t := putIn t n x
        let m : MatchEntry := { inp := n, tok := k, since := hh.timeBase }
        let t := if isFn v then
            { t with matches_ := t.matches_ ++ [m], highWater := max t.highWater (t.matches_.length + 1) }
          else { t with staging := t.staging ++ [m] }
        (unmark (putTile hh v t) v n [k], true)

/-- Admit from an input's queue while its head moves. -/
def drainInput (hh : Hearth) (v n : Nat) : Nat → Hearth
  | 0 => hh
  | fuel + 1 =>
    let (hh', moved) := admitHead hh v n
    if moved then drainInput hh' v n fuel else hh'

/-! ### Groups -/

/-- The admitted tokens at the front of a queue. -/
def admitted (x : InLive) : List Tok := x.queue.takeWhile (fun k => x.opened.contains k.tag)

/-- Tokens by SEQ, from 0. -/
def seqSort (l : List Tok) : List Tok := (List.range l.length).filterMap (fun i => l.find? (fun k => k.seq.toNat == i))

/-- The tokens of tag t that operations of a tile can read at input n, in order of SEQ. -/
def groupAt (v : Nat) (t : Tile) (n : Nat) (tag : W16) : List Tok :=
  let x := inLive t n
  if inType t n = 2 then x.sums.filter (fun k => k.tag == tag)
  else if isFn v then seqSort ((t.matches_.filter (fun m => m.inp == n && m.tok.tag == tag)).map (·.tok))
  else if inType t n = 3 then
    if x.opened.contains tag then (t.staging.filter (fun m => m.inp == n && m.tok.tag == tag)).map (·.tok) else []
  else (admitted x).filter (fun k => k.tag == tag)

/-- A group is complete: it ends with LAST. -/
def complete (g : List Tok) : Bool := g.any (fun k => k.last) && g.length == (g.foldl (fun a k => max a k.seq.toNat) 0) + 1

/-- The EMITs not yet resolved keep the staged rows of a tag at an input (R49). -/
def retained (t : Tile) (n : Nat) (tag : W16) : Bool :=
  t.emits.any (fun x => x.2.1 == tag &&
    (setBits 32 (param t x.1 8 4)).any (fun s => (opIns t s).contains n))

/-- Free staged rows that nothing keeps: their tag is closed at the input, and no EMIT depends on them. -/
def freeStaging (t : Tile) : Tile :=
  { t with staging := t.staging.filter (fun m =>
      (inLive t m.inp).opened.contains m.tok.tag || retained t m.inp m.tok.tag) }

/-- Spilled match-store entries come back, oldest first, as entries free (R101); their return is their arrival (log 114). -/
def unspill (hh : Hearth) (v : Nat) : Nat → Hearth
  | 0 => hh
  | n + 1 =>
    match hh.spill.findIdx? (fun s => s.1 == v && 16 ≤ s.2.1) with
    | none => hh
    | some i =>
      match hh.spill[i]? with
      | none => hh
      | some s =>
        let hh := updTile hh v (fun t => { t with matches_ := t.matches_ ++ [{ inp := s.2.1 - 16, tok := s.2.2, since := hh.timeBase }] })
        unspill (setSpill hh (hh.spill.eraseIdx i)) v n

/-- The tag under which an input holds what a flag of it concerns: a feedback input holds tokens one tag on (R94). -/
def heldTag (t : Tile) (n : Nat) (f : Flag) : W16 := if inType t n = 1 then f.tag + 1 else f.tag

/-- An unresolved flag of an input concerns a tag's group there (R417). -/
def flaggedAt (t : Tile) (n : Nat) (tag : W16) : Bool := (inLive t n).flags.any (fun f => heldTag t n f == tag)

/-- The first element of local-store line `line`. -/
def lineAt (line : Nat) : Nat := 16 * line

/-- The local-store line of a sender's contribution to a tag (R218). -/
def contribLine (t : Tile) (n idx : Nat) (tag : W16) : Nat :=
  inBuffer t n + idx * inWindowOf t n + tag.toNat % inWindowOf t n

/-- Consume the group of a tag at an input: free its entries and slots, close the tag (R78). A combining input frees its
lines and returns one credit to each sender (R219). -/
def consume (hh : Hearth) (v n : Nat) (tag : W16) : Hearth :=
  let t := tileAt hh v
  let x := inLive t n
  let x' := { x with opened := x.opened.filter (· != tag), flags := x.flags.filter (fun f => heldTag t n f != tag) }
  if inType t n = 2 then
    let tbl := senderTable hh t.active v n
    let x' := { x' with sums := x.sums.filter (fun k => k.tag != tag), contrib := x.contrib.filter (fun c => c.1 != tag) }
    let idx := List.range (min (inSenders t n) tbl.length)
    let x' := { x' with owed := idx.foldl (fun m i => mupd 0 m i (· + 1)) x'.owed }
    idx.foldl (fun hh i => match tbl[i]? with
      | some s => sendCredit hh s.2.1 s.2.2 x.epoch 1
      | none => hh) (putTile hh v (putIn t n x'))
  else if isFn v then
    let keep := t.matches_.filter (fun m => !(m.inp == n && m.tok.tag == tag))
    let freed := t.matches_.length - keep.length
    unspill (putTile hh v { putIn t n x' with matches_ := keep }) v freed
  else if inType t n = 3 then putTile hh v (freeStaging (putIn t n x'))
  else
    let front := (admitted x).filter (fun k => k.tag != tag)
    unmark (putTile hh v (putIn t n { x' with queue := front ++ x.queue.drop (admitted x).length })) v n
      ((admitted x).filter (fun k => k.tag == tag))

/-! ### Granting (R89, R208, R209) -/

/-- Grant an input's sender up to a target of unspent credits. -/
def grantIn (hh : Hearth) (v n : Nat) (target : Nat) : Hearth :=
  let t := tileAt hh v
  let x := inLive t n
  let have_ := mget 0 x.owed 0
  if target ≤ have_ then hh else
  match senderOf hh v n with
  | none => hh
  | some (u, o) =>
    sendCredit (putTile hh v (putIn t n { x with owed := mput 0 x.owed 0 target })) u o x.epoch (target - have_)

/-- Free queue slots of an input, and its promises; a token past the slots holds a promised entry (R209). -/
def capacityOf (hh : Hearth) (v : Nat) (t : Tile) (n : Nat) : Nat :=
  let x := inLive t n
  8 + x.promised - (x.queue.length - spilledQ hh v n)

/-- An open input whose credits follow its free slots: not a combining input (Table 7-3). -/
def grantsFreely (t : Tile) (n : Nat) : Bool := nbit (inReg t n).toNat 63 && !(inLive t n).closed && inType t n != 2

/-- Grant every open input of a tile what its capacity allows. -/
def grantTile (hh : Hearth) (v : Nat) : Hearth :=
  (List.range 16).foldl (fun hh n =>
    let t := tileAt hh v
    if grantsFreely t n then grantIn hh v n (capacityOf hh v t n) else hh) hh

/-- Promise one entry of the shared store to an input (R209), at most 8 unused at once. -/
def promiseOne (hh : Hearth) (v n : Nat) : Hearth :=
  let t := tileAt hh v
  let x := inLive t n
  if pooled v t n ∧ nbit (inReg t n).toNat 63 ∧ !x.closed ∧ x.promised < 8 ∧ poolUsed v t + promisedAll t < 256 ∧
      capacityOf hh v t n ≤ mget 0 x.owed 0 then
    putTile hh v (putIn t n { x with promised := x.promised + 1 })
  else hh

/-- Operand D of a function-tile slot selects a stream. -/
def dStream (t : Tile) (s : Nat) : Bool := !nbit (param t s 6 2) 15

/-- The tokens that a firing of slot s for tag t sends on each of its outputs (R51, R54, R82, R91). -/
def outTokens (v : Nat) (t : Tile) (s : Nat) (tag : W16) : Nat :=
  match opCode t s with
  | 0x02 => ceilDiv (param t s 2 2 * param t s 4 1) 16
  | 0x10 => if dStream t s then opCount t s else 0
  | 0x11 => if dStream t s then opCount t s else 0
  | 0x12 => if dStream t s then opCount t s else 0
  | 0x13 => if dStream t s then 1 else 0
  | 0x14 =>
    let p := (groupAt v t (param t s 0 1) tag).any (fun k => k.last && k.pred)
    (groupAt v t (if p then param t s 1 1 else param t s 2 1) tag).length
  | 0x15 => if param t s 0 1 = 1 then opCount t s else 0
  | _ => 0

/-- Tokens that a sender's next group on an output needs credits for. -/
def senderNeeds (hh : Hearth) (u : UnitRef) (o : Nat) : Nat :=
  match u.kind.toNat with
  | 1 => (match tileOfId u.id.toNat with
    | some v =>
      let t := tileAt hh v
      (slotsOn t).foldl (fun a s =>
        if !(opOuts t s).contains o then a
        else if opCode t s = 0x14 then
          (inLive t (param t s 0 1)).opened.foldl (fun a tag => max a (outTokens v t s tag)) a
        else max a (outTokens v t s 0)) 0
    | none => 0)
  | 2 => (threadAt hh u.id.toNat).toSend.length
  | 4 => (epAt hh (u.id.toNat % 512)).toSend.length
  | _ => 0

/-- Credits that a sender's output holds, those on their way to it counted too. -/
def senderHas (hh : Hearth) (u : UnitRef) (o : Nat) : Nat :=
  let x := sndLive hh u o
  x.credits + (hh.creditFlights.filter (fun c => c.snd == u && c.out == o && c.epoch == x.epoch)).foldl
    (fun a c => a + c.count) 0

/-- Promise entries one at a time, to the inputs whose slots are all granted and whose sender needs more, in increasing
input index (R209). -/
def promiseTile (hh : Hearth) (v : Nat) : Nat → Hearth
  | 0 => hh
  | fuel + 1 =>
    let hh' := (List.range 16).foldl (fun hh n =>
      match senderOf hh v n with
      | none => hh
      | some (u, o) =>
        if grantsFreely (tileAt hh v) n ∧ senderHas hh u o < senderNeeds hh u o then
          let hh := promiseOne hh v n
          grantIn hh v n (capacityOf hh v (tileAt hh v) n)
        else hh) hh
    if hh' = hh then hh else promiseTile hh' v fuel

/-! ### Opening and closing inputs -/

/-- Close one input: its queue is discarded (R211). -/
def closeIn (count : Bool) (x : InLive) : InLive :=
  { x with
    closed := true, queue := [], opened := [], owed := x.owed, promised := 0, contrib := [], sums := [], flags := []
    dropped := if count then sat 32 (x.dropped + x.queue.length) else x.dropped }

/-- Close every input of a tile, clearing the match store and the staging. -/
def closeTile (count bump : Bool) (hh : Hearth) (v : Nat) : Hearth :=
  let t := tileAt hh v
  let ins := (List.range 16).foldl (fun m n =>
    let x := closeIn count (mget {} t.ins n)
    mput {} m n (if bump then { x with epoch := x.epoch + 1 } else x)) t.ins
  let hh := (List.range 16).foldl (fun hh n => forgetClosed hh (tileRef v) n) hh
  let hh := setSpill hh (hh.spill.filter (fun s => s.1 != v))
  putTile hh v { t with ins := ins, matches_ := [], staging := [], emits := [], waitSlots := [] }

/-- Forget the ledger words of a tile's objects: they count from the last time the objects were loaded (R230). -/
def dropWords (hh : Hearth) (v : Nat) : Hearth :=
  { hh with syncWords := hh.syncWords.filter (fun x => !(x.1 / 48 == v && decide (x.1 < 0x10000))) }

/-- A write of ACTIVE starts a context change; it is ignored outside IDLE and CONFIGURED, and for a context that is not valid
(Table 2-12). -/
def writeActive (hh : Hearth) (v c : Nat) : Hearth :=
  let t := tileAt hh v
  if present hh.st ∧ tileEnabled hh v ∧ (t.state = .idle ∨ t.state = .configured) ∧ nbit t.valid.toNat c ∧ t.switching = none then
    updTile hh v (fun t => { t with switching := some c })
  else hh

/-- The initial live state of the sync objects of a configuration (R222). -/
def freshSyncs (cfg : TileCfg) : SMap SyncLive :=
  (List.range 48).foldl (fun m n =>
    let w := mget syncReset cfg.syncs n
    let v := if wb w 63 62 = 2 then wb w 31 16 else 0
    mput {} m n { value := v, init := v }) []

end Sys2Proof.Machine
end

