-- ==== Sys2Proof/Machine/StepEnd.lean ====
section
/-! DEFINITION. The end of a hearth step (R352): closed inputs, poisoned outputs (R271), empty ember buffers (R158),
calibration, report (R353); and what follows in the mantel: accounts, completions, module state. -/

namespace Sys2Proof.Machine

/-- The hearth state that its contexts and steps give (Table 12-9b). -/
def refreshSt (hh : Hearth) : Hearth :=
  if readyFrozen hh.st then
    { hh with st :=
        if (runStep hh).isSome then .running
        else if (frozenStep hh).isSome then .frozen
        else if (List.range 4).any (fun c => (mget {} hh.ctxs c).valid) then .loaded else .ready }
  else hh

/-! ### What an aborted step leaves -/

/-- The byte ranges that a STORE or COPY could write for tags 0 to n − 1 (R271). -/
def declaredRanges (d : Stk) (n : Nat) : List (Nat × Nat) :=
  let slots := if d.mem.wrap then min n d.mem.tagMod else n
  (List.range slots).flatMap (fun m => (List.range d.mem.rows).flatMap (fun r =>
    if d.mode = 1 then rowRanges d.mem m r
    else if d.mode = 3 then [(copyAddr d m r, packedRow d.tokFmt d.mem.elems)] else []))

/-- Poison over the declared outputs of a step (R271). -/
def poisonOutputs (hh : Hearth) (st : Step) : Hearth :=
  (secThreads hh st.ctx st.ran).foldl (fun hh x =>
    (declaredRanges (stkOf x.2.body) st.n).foldl (fun hh a => hPoison hh a.1 a.2) hh) hh

/-- STATE = EMPTY in the header of every ember buffer that a narrowing control of the step names (R158). -/
def emptyEmbers (hh : Hearth) (st : Step) : Hearth :=
  let clear (hh : Hearth) (base : Nat) : Hearth :=
    hWrite hh (base + 7) [hByte hh (base + 7) &&& 0x3F]
  let hh := (secThreads hh st.ctx st.ran).foldl (fun hh x =>
    let d := stkOf x.2.body
    if stkEmber d then clear hh d.nar.emberBase else hh) hh
  (secEps hh st.ctx st.ran).foldl (fun hh x =>
    let d := epOf x.2.body
    if epEmber d then clear hh d.nar.emberBase else hh) hh

/-- A tile of an ended step: its firing is abandoned, its inputs close, it is CONFIGURED (R77, R211). -/
def stopTile (hh : Hearth) (v : Nat) : Hearth :=
  let hh := closeTile false false hh v
  updTile hh v (fun t => { t with
    cur := none, flags := []
    state := if t.state = .running ∨ t.state = .frozen then .configured else t.state })

/-- A thread of an ended step. -/
def stopThread (hh : Hearth) (u : Nat) : Hearth :=
  forgetClosed (updThread hh u (fun t =>
    { t with
      state := 0, closed := true, buf := [], toSend := [], owed := t.owed, fetch := none, outstanding := 0, unacked := []
      waiting := false, held := none, flags := [], part := [], ring := [] })) (threadRef u) 0

/-- An endpoint of an ended step. -/
def stopEp (hh : Hearth) (e home : Nat) : Hearth :=
  forgetClosed (updEp hh e (fun x =>
    { x with
      closed := true, buf := [], toSend := [], part := [], writes := [], want := [], fetching := false, reads := []
      readData := [], half0 := none, contrib := [], parts := [], arrived := [], unperformed := [] })) (epRef home e) 0

/-- Close every input of a step's section, and drop its requests on the networks. A frozen step that a running step has
taken units from closes only the units it still has. -/
def closeSection (hh : Hearth) (st : Step) : Hearth :=
  let taken (u : UnitRef) : Bool := st.state == .frozen &&
    (match runStep hh with | some r => unitInSec hh r.ctx r.ran u | none => false)
  let mine (u : UnitRef) : Bool := unitInSec hh st.ctx st.ran u && !taken u
  let tiles := (secTiles hh st.ctx st.ran).filter (fun v => (tileAt hh v).active == st.ctx && !taken (tileRef v))
  let ths := (secThreads hh st.ctx st.ran).filter (fun x => !taken (threadRef x.1))
  let eps := (secEps hh st.ctx st.ran).filter (fun x => !taken (epRef x.2.home x.1))
  let hh := { hh with
    reqs := hh.reqs.filter (fun r => !mine r.who), replies := hh.replies.filter (fun r => !mine r.who)
    acks := hh.acks.filter (fun a => !mine a.1), grants := hh.grants.filter (fun g => !mine g.1) }
  let hh := tiles.foldl stopTile hh
  let hh := ths.foldl (fun hh x => stopThread hh x.1) hh
  eps.foldl (fun hh x => stopEp hh x.1 x.2.home) hh

/-- The threads of a step that ends PREEMPTED show idle; its inputs stay open and hold their tokens (R211). -/
def idleThreads (hh : Hearth) (st : Step) : Hearth :=
  (secThreads hh st.ctx st.ran).foldl (fun hh x =>
    if (threadAt hh x.1).state = 5 then updThread hh x.1 (fun t => { t with state := 0 }) else hh) hh

/-- The lifetime counters of a step that ends while it is frozen or restored take its saved step counters (R144, R145). -/
def endSavedCal (hh : Hearth) (c : Nat) : Hearth :=
  match hh.snap with
  | none => hh
  | some sn => (List.range 32).foldl (fun hh s => updCal hh c s (fun r =>
      let q := mget {} sn.cal (calKey c s)
      { r with
        lifeElems := sat 64 (r.lifeElems + q.elems), lifeClip := sat 64 (r.lifeClip + q.clip)
        lifeNar := sat 64 (r.lifeNar + q.nar) })) hh

/-- Statuses of an ended step that leave its outputs poisoned and its ember buffers empty (R158, R271). -/
def abortStatus (st : Status) : Bool :=
  st == .abortedFault || st == .abortedByHost || st == .timeoutSync || st == .deadlock

/-- End a step with a status (R352). A PENDING or HELD step ends without starting. -/
def endStepH (e : Env) (hh : Hearth) (id : Nat) (status : Status) : Hearth :=
  match hh.steps.find? (fun x => x.id == id) with
  | none => hh
  | some x =>
    if x.state = .ended then hh else
    let hh := accrue e hh
    let mark (f : Step → Step) (hh : Hearth) : Hearth :=
      updStep { hh with flushCharge := true } id (fun y => f { y with state := .ended, endTime := e.now })
    let free (hh : Hearth) : Hearth := { hh with
      slotLat := if hh.slotLat = some id then none else hh.slotLat
      slotBest := if hh.slotBest = some id then none else hh.slotBest }
    if x.state = .pending ∨ x.state = .held then free (mark (fun y => { y with status := status }) hh)
    else
      let frozen := x.state == .frozen
      let saved := frozen || x.state == .saving || x.state == .restoring
      let done := status == .done
      let hh := if status = .preempted then idleThreads hh x else closeSection hh x
      let hh := if abortStatus status then emptyEmbers (poisonOutputs hh x) x else hh
      let hh := if frozen ∨ x.state = .restoring then endSavedCal hh x.ctx
        else if x.state = .starting then hh else endCal hh x.ctx done
      let (esc, hh) := escalate hh x.ctx x.sec (x.ran == x.sec) done
      let hh := { hh with
        ports := if saved then mmap {} (fun _ p => { p with saveBuf := [] }) hh.ports else hh.ports
        snap := if saved then none else hh.snap
        spill := if frozen then hh.spill else []
        spilling := if frozen then hh.spilling else false
        spillFree := if frozen then hh.spillFree else spillBytes
        spillBusy := if frozen then hh.spillBusy else 0
        arb := if frozen then hh.arb else none
        flags := if frozen then hh.flags else [] }
      let fin (y : Step) : Status :=
        if done ∧ (0 < y.closedSends ∨ 0 < y.spillRounds ∨ esc = 1 ∨ esc = 2 ∨ esc = 5) then .doneWithReport else status
      refreshSt (mark (fun y => { y with escCode := esc, status := fin y }) hh)

/-- The running step ends with a status. -/
def endRun (e : Env) (hh : Hearth) (status : Status) : Hearth :=
  match runStep hh with
  | some x => endStepH e hh x.id status
  | none => hh

/-! ### Step reports (Table 10-7) -/

/-- The estimate of a section for n tags; 0 for none (R170). -/
def estimateOf (hh : Hearth) (c sec n : Nat) : Nat :=
  let x := sectionOf hh c sec
  if x.estFixed = 0 ∧ x.estPerTag = 0 then 0 else x.estFixed + x.estPerTag * n

/-- The stall figures of a report: free values for a step that has begun, and 0 for one that never left PENDING or HELD, whose
cycles are not counted (R354; log 3). -/
def stallFigure (x : Step) (n k : Nat) : Nat := if x.began then Config.stallCycles x.id n k % 2 ^ 64 else 0

/-- The bytes of a step report. -/
def stepReport (h : Nat) (x : Step) (frozen : Bool) : List Byte :=
  let n := if frozen then x.freezes else 0
  let status := if frozen then Status.preempted else x.status
  leBytes 2 x.workload ++ leBytes 1 h ++ leBytes 1 x.sec ++ leBytes 1 x.ran ++ leBytes 1 x.ctx
  ++ leBytes 2 (stCode status) ++ leBytes 1 (if frozen then 0 else x.escCode)
  ++ leBytes 1 (b2n x.latency + 2 * b2n x.linked + 4 * b2n frozen)
  ++ leBytes 2 (sat 16 x.freezes) ++ leBytes 2 x.first.toNat ++ zeros 2 ++ leBytes 8 x.n ++ leBytes 8 x.measured
  ++ leBytes 8 x.est ++ leBytes 8 x.charged ++ leBytes 8 x.launchTime ++ leBytes 8 (if frozen then 0 else x.endTime)
  ++ leBytes 8 x.heldNs ++ leBytes 8 x.frozenNs
  ++ leBytes 8 (stallFigure x n 0) ++ leBytes 8 (stallFigure x n 1) ++ leBytes 8 (stallFigure x n 2)
  ++ leBytes 8 (stallFigure x n 3) ++ leBytes 4 x.spillRounds ++ leBytes 4 x.spillPeak ++ leBytes 4 x.remoteWaits
  ++ leBytes 4 x.closedSends

/-- Write a step report to the launch's buffer and to the hearth's ring of 256; whether the buffer was written (R353,
R366). -/
def writeReport (s : State) (h : Nat) (x : Step) (frozen : Bool) : State × Bool :=
  let bs := stepReport h x frozen
  let s := updH s h (fun hh => { hh with
    reportRing := mput 0 hh.reportRing (hh.reportNo % 256) (BitVec.ofNat 1024 (ofLE bs)), reportNo := hh.reportNo + 1 })
  let w := x.report.toNat
  if spaceOf w then bufWrite s (w + 128 * x.rank) bs
  else if s.hostPortFailed then (s, false)
  else if inWindow s.regs (hostAddr w + 128 * x.rank) 128 then (hostWrite s (hostAddr w + 128 * x.rank) bs, true)
  else (blocked s (some h) (hostAddr w + 128 * x.rank), false)

/-! ### Completion of launches and resumes (R347, R353) -/

/-- The hearths of a mask all have a result. -/
def allIn (mask : W16) (results : List (Nat × Status × Bool × Nat)) : Bool :=
  (setBits 9 mask.toNat).all (fun h => results.any (fun r => r.1 == h))

/-- The statuses of a failed check of Table 10-2, whose rules fix a detail word (R264, R388, R389). -/
def rejects (st : Status) : Bool := st == .rejectedParameter || st == .rejectedState || st == .rejectedTarget

/-- Complete a launch or a resume from its hearths' results (R353, R397, R388). For a status whose rule fixes the detail word it
is that of the lowest hearth that ended with it. -/
def finishSteps (s : State) (id : Nat) (results : List (Nat × Status × Bool × Nat)) : State :=
  match startedOf s id with
  | none => s
  | some x =>
    let st := results.foldl (fun a r => worse a r.2.1) .done
    let same := results.filter (fun r => r.2.1 == st)
    let mask := maskOf (same.map (·.1))
    let det := if st = .deadlock ∨ rejects st then
        (match (List.range 9).findSome? (fun h => same.find? (fun r => r.1 == h)) with | some r => r.2.2.2 | none => 0)
      else mask
    let launch := x.org.opcode == 0x40
    finish s id st det (if launch then maskOf ((results.filter (fun r => r.2.2.1)).map (·.1)) else 0)
      (if launch then s.time.ns else 0)

/-- A hearth's result for the started command that waits for it. -/
def stepResult (s : State) (waiter h : Nat) (st : Status) (variant : Bool) (det : Nat) : State :=
  match startedOf s waiter with
  | some { wait := some (.steps mask results), .. } =>
    let results := results ++ [(h, st, variant, det)]
    let s := setWait s waiter (.steps mask results)
    if allIn mask results then finishSteps s waiter results else s
  | _ => s

/-- An ended step leaves the hearth: report, account, completion. -/
def settleEnded (s : State) (h : Nat) (x : Step) : State :=
  let (s, ok) := writeReport s h x false
  let st := if ok then x.status else worse x.status .abortedFault
  let good := st == .done || st == .doneWithReport
  let s := updH s h (fun hh => { hh with steps := hh.steps.filter (fun y => y.id != x.id) })
  let s := { s with accounts := mupd {} s.accounts x.workload (fun a =>
      if !a.known then a else
      { a with
        stepsDone := if good then sat 32 (a.stepsDone + 1) else a.stepsDone
        stepsOther := if good then a.stepsOther else sat 32 (a.stepsOther + 1)
        stalled := sat 64 (a.stalled + stallFigure x 0 0 + stallFigure x 0 1 + stallFigure x 0 2) }) }
  if x.told then s else stepResult s x.waiter h st (x.ran != x.sec) x.det

/-- A step frozen by the host and not yet reported: the waiting command counts it as PREEMPTED (R347). -/
def settleFrozen (s : State) (h : Nat) (x : Step) : State :=
  let (s, ok) := writeReport s h x true
  let s := updH s h (fun hh => updStep hh x.id (fun y => { y with told := true }))
  stepResult s x.waiter h (if ok then .preempted else .abortedFault) (x.ran != x.sec) 0

/-- Settle the steps of a hearth. -/
def settleSteps (s : State) (h : Nat) : State :=
  (hearthOf s h).steps.foldl (fun s x =>
    if x.state = .ended then settleEnded s h x
    else if x.state = .frozen ∧ x.byHost ∧ !x.told then settleFrozen s h x else s) s

/-- A workload is active: it has a step in a state other than ENDED (R339). -/
def workloadActive (s : State) (w : Nat) : Bool :=
  s.hearths.any (fun x => x.2.steps.any (fun st => st.workload == w && st.state != .ended))

/-! ### Endpoints that feed tiles -/

/-- A NOTICE record (Table 9-10) to an endpoint of a peer hearth. -/
def sendNotice (h : Nat) (hh : Hearth) (d : Dest) (ep kind epoch reason tag count addr : Nat) : Hearth :=
  sendCell h hh d 13 1 1 ep 4 0
    (leBytes 8 (kind * 2 ^ 60 + epoch % 16 * 2 ^ 56 + reason % 16 * 2 ^ 52 + tag % 65536 * 2 ^ 32 + count % 2 ^ 32)
      ++ leBytes 8 (addr % 2 ^ 40))

/-- The tokens at the front of an endpoint's queue whose tags lie within the issue window: those behind wait for them, and the
peer for their credits (R86). -/
def admittedEp (hh : Hearth) (st : Step) (x : EpLive) : List Tok :=
  x.toSend.takeWhile (fun k => withinIssue hh st (posAround st x.donePre k.tag))

/-- An endpoint that feeds a tile input sends what the issue window and its credits allow (R86, R303); a RECEIVE grants its
peer one credit for each token delivered (R304). -/
def pumpEp (h : Nat) (hh : Hearth) (st : Step) (k home : Nat) (d : EpD) : Hearth :=
  let x := epAt hh k
  let out := (admittedEp hh st x).take x.out.credits
  let n := out.length
  if n = 0 then hh else
  let hh := sendToks hh (epRef home k) 0 out
  let (p, l) := (out.filter (·.last)).foldl (fun (a : Nat × List Nat) t => markDone a.1 a.2 (posAround st x.donePre t.tag))
    (x.donePre, x.done)
  let hh := updEp hh k (fun y => { y with toSend := x.toSend.drop n, donePre := p, done := l })
  if d.kind = 2 then sendNotice h hh (.peer d.peerModule d.peerHearth) d.peerEp 0 x.epoch.toNat 0 0 n 0 else hh

/-- Every source endpoint of the running step sends what it can. -/
def pumpEps (h : Nat) (hh : Hearth) : Hearth :=
  match runStep hh with
  | none => hh
  | some st =>
    if st.state ≠ .running then hh else
    (secEps hh st.ctx st.ran).foldl (fun hh x =>
      let d := epOf x.2.body
      if epSource d then pumpEp h hh st x.1 x.2.home d else hh) hh

/-- Promises and grants of the readers of a hearth's running step (R209). -/
def regrant (hh : Hearth) : Hearth :=
  match runStep hh with
  | none => hh
  | some st =>
    if st.state ≠ .running ∧ st.state ≠ .halting then hh else
    let hh := (secTiles hh st.ctx st.ran).foldl (fun hh v => promiseTile (grantTile hh v) v 16) hh
    let hh := (secThreads hh st.ctx st.ran).foldl (fun hh x =>
      let d := stkOf x.2.body
      let t := threadAt hh x.1
      let free := 16 - t.buf.length
      if (d.mode = 1 ∨ d.mode = 2) ∧ !t.closed ∧ t.owed < free then
        sendCredit (updThread hh x.1 (fun t => { t with owed := free })) ⟨1, BitVec.ofNat 16 d.src⟩ d.srcOut t.epoch
          (free - t.owed)
      else hh) hh
    (secEps hh st.ctx st.ran).foldl (fun hh x =>
      let d := epOf x.2.body
      let t := epAt hh x.1
      let free := 16 - t.buf.length
      if epSink d ∧ !t.closed ∧ t.owed < free then
        sendCredit (updEp hh x.1 (fun t => { t with owed := free })) ⟨1, BitVec.ofNat 16 d.loc⟩ d.localIo t.epoch
          (free - t.owed)
      else hh) hh

end Sys2Proof.Machine
end

