-- ==== Sys2Proof/Machine/Faults.lean ====
section
/-! DEFINITION. Events and permanence (R423 to R425), the retirement tree (R426 to R429), reshapes (R247 to R250, R431),
fatal events (R392, R432). -/

namespace Sys2Proof.Machine

/-! ### Records of events -/

/-- A record that concerns a step, before it is written (Table 13-15). -/
def stepRec (hh : Hearth) (st : Option Step) (tag : W16) (cls path syn : Nat) (det : BitVec 2048) : AshRec :=
  match st with
  | none => { cls := cls, path := BitVec.ofNat 64 path, syndrome := BitVec.ofNat 64 syn, detail := det }
  | some x =>
    { cls := cls, flags := 2, path := BitVec.ofNat 64 path, syndrome := BitVec.ofNat 64 syn, detail := det
      step := BitVec.ofNat 64 (x.workload * 2 ^ 48 + x.sec % 64 * 2 ^ 42 + x.ctx % 4 * 2 ^ 40 + tag.toNat * 2 ^ 24)
      image := BitVec.ofNat 64 (mget {} hh.ctxs x.ctx).digest.toNat }

/-- The unit path of a bucket's unit (Table 13-16). -/
def keyPath (key : Nat) : Nat :=
  let k := key / 1024
  let i := key % 1024
  if k = 1 then pathOf 1 i 0 0 0 0 else if k = 2 then tilePath i
  else if k = 6 then pathOf 6 0 0 0 (i / 4) (i % 4) else pathOf k 0 0 0 i 0

/-- What retires when a unit's fault is permanent (Table 13-11): a slice group goes with its slices, a memory port tile
with both its sub-channels, one after the other (R247). -/
def retireeOf (key : Nat) : List Deferred :=
  let k := key / 1024
  let i := key % 1024
  let one (u : UnitSel) : List Deferred := [{ sels := [u], path := keyPath key }]
  match k with
  | 0 => one .hearth
  | 1 => one (.die i)
  | 2 => one (.tile i)
  | 3 => one (.slice i)
  | 4 => one (.subch i)
  | 5 => one (.port i)
  | 6 => one (.lane (i / 4) (i % 4))
  | 7 => [{ sels := (List.range 16).map (fun j => .slice (16 * i + j)), path := keyPath key }]
  | 8 => [{ sels := [.subch (2 * i)], path := keyPath key }, { sels := [.subch (2 * i + 1)], path := pathOf 4 0 0 0 (2 * i + 1) 0 }]
  | _ => []

/-- A fault of a unit is permanent: the retirement is decided (R425, R426). -/
def permanent (hh : Hearth) (key origin cls seq : Nat) (cmd : Option Nat := none) : Hearth :=
  { hh with deferred := hh.deferred ++ (retireeOf key).map (fun d =>
      { d with origin := origin, cause := cls, causeSeq := seq, cmd := cmd }) }

/-- Count an event of a unit, write its record with the bucket's level and window, and retire the unit when the event makes
the fault permanent (R423). Answers whether it did. -/
def eventRec (e : Env) (hh : Hearth) (key : Nat) (r : AshRec) : Hearth × Bool :=
  let (hh, lvl, perm) := countEvent e hh key
  let seq := hh.ashNext
  let hh := logRec e hh { r with level := lvl, window := bucketMinutes key }
  (if perm then permanent hh key 0 r.cls seq else hh, perm)

/-! ### Words of memory -/

/-- The sub-channel or slice that holds an address, as a bucket's unit. -/
def memKey (hh : Hearth) (a : Nat) : Nat :=
  match sliceHolding hh a with
  | some (i, _) => bucketKey 3 i
  | none => bucketKey 4 (subOf hh a)

/-- The status register's unit of an address (Table 2-28). -/
def statusKey (hh : Hearth) (a : Nat) : Nat :=
  match sliceHolding hh a with
  | some (i, _) => 2 * 1024 + i / 16
  | none => 3 * 1024 + subOf hh a / 2

/-- SYNDROME of a record about a word: [7:0] syndrome, [47:8] address (Table 13-15). -/
def synOf (hh : Hearth) (a : Nat) : Nat := (errSyndrome (errAt hh (a / 8))).toNat + a % 2 ^ 40 * 256

/-- DETAIL of MEM_UE and POISON_READ: address, then kind of read or reader (the layout is the model's; log 28). -/
def addrDetail (a kind : Nat) : BitVec 2048 := detailOf [(0, 8, a), (8, 8, kind)]

/-- An uncorrectable word was read: UE_COUNT, a MEM_UE record and one event at its unit (Table 13-4). -/
def memUe (e : Env) (hh : Hearth) (a kind : Nat) (st : Option Step) (tag : W16) (path : Nat) : Hearth :=
  let hh := { hh with cnt := mupd {} hh.cnt (statusKey hh a) (fun c => { c with ue := sat 16 (c.ue + 1) }) }
  (eventRec e hh (memKey hh a) (stepRec hh st tag 0x0004 path (synOf hh a) (addrDetail a kind))).1

/-- A corrected word: written back, CE_COUNT, and an event when it falls again within W of its last correction (R413,
R424). -/
def corrected (e : Env) (hh : Hearth) (word : Nat) : Hearth :=
  let a := 8 * word
  let key := memKey hh a
  let syn := synOf hh a
  let rk := 64 * 1024 + key
  let recent := (mget {} hh.cnt rk).recent
  let again := recent.any (fun x => x.1 == word && decide (e.now < x.2 + bucketMinutes key * 60000000000))
  let keep := (recent.filter (fun x => x.1 != word)).reverse.take 15
  let hh := { hh with
    errs := mput (0, 0) hh.errs word (0, 0)
    cnt := mupd {} (mupd {} hh.cnt (statusKey hh a) (fun c => { c with ce := sat 16 (c.ce + 1), ceHour := c.ceHour + 1 }))
      rk (fun c => { c with recent := keep.reverse ++ [(word, e.now)] }) }
  if again then (eventRec e hh key (stepRec hh none 0 0x0002 (keyPath key) syn (addrDetail a 0))).1 else hh

/-- Correct every word of [a, a + n) that reads as a single error. -/
def correctRange (e : Env) (hh : Hearth) (a n : Nat) : Hearth :=
  if hh.errs = [] then hh else
  (wordsOf a n).foldl (fun hh w => match wordReads hh w with
    | .data _ => corrected e hh w
    | .check => corrected e hh w
    | _ => hh) hh

/-- Uncorrectable words that a read met, and that end no step: each counts (Table 13-4). -/
def countBad (e : Env) (hh : Hearth) (path : Nat) (l : List (Nat × Bool)) : Hearth :=
  (l.filter (fun b => !b.2)).foldl (fun hh b => memUe e hh b.1 1 none 0 path) hh

/-- A read by a step that met a bad word ends the step with ABORTED_FAULT; only an uncorrectable word counts an event
(R270). -/
def readFault (e : Env) (hh : Hearth) (st : Option Step) (tag : W16) (path a : Nat) (poisoned : Bool) : Hearth :=
  let hh := if poisoned then logStep e hh st tag 0x0005 path (synOf hh a) (addrDetail a 2)
    else memUe e hh a 1 st tag path
  endRun e hh .abortedFault

/-- A step's read that met bad words: the first one ends the step, every uncorrectable one counts (R270). -/
def readFaults (e : Env) (hh : Hearth) (st : Option Step) (tag : W16) (path : Nat) (l : List (Nat × Bool)) : Hearth :=
  match l with
  | [] => hh
  | (a, p) :: rest => readFault e (countBad e hh path rest) st tag path a p

/-- The bad words that [a, a + n) touches: address, and whether poisoned. -/
def badWords (hh : Hearth) (a n : Nat) : List (Nat × Bool) :=
  if hh.errs = [] then [] else
  (wordsOf a n).filterMap (fun w => match wordReads hh w with
    | .poisoned => some (8 * w, true)
    | .uncorrectable => some (8 * w, false)
    | _ => none)

/-- An address fault of a unit of the running step (R234). -/
def addressFault (e : Env) (hh : Hearth) (tag : W16) (path a : Nat) : Hearth :=
  endRun e (logStep e hh (runStep hh) tag 0x0054 path (a % 2 ^ 40 * 256) (addrDetail a 0)) .abortedFault

/-! ### Stopping a hearth -/

/-- End every step of the hearth. -/
def endAll (e : Env) (hh : Hearth) (status : Status) : Hearth :=
  hh.steps.foldl (fun hh x => endStepH e hh x.id status) hh

/-- A load that ends before step 9 (R197): its context is not valid, its calibration records have their reset values, and its
report holds the records found so far. -/
def abortLoad (st : Status) (hh : Hearth) : Hearth :=
  match hh.load with
  | none => hh
  | some l =>
    { hh with
      load := none, cal := hh.cal.filter (fun x => x.1 / 32 != l.ctx)
      ctxs := mput {} hh.ctxs l.ctx { report := { l.info.report with status := st } } }

/-- The hearth stops as R392 says and enters FAULTED. -/
def stopHearth (e : Env) (hh : Hearth) : Hearth :=
  { abortLoad .abortedFault (endAll e hh .abortedFault) with st := .faulted, sampling := none }

/-- A fatal event: the hearth stops, a HEARTH_FATAL record, one event at the hearth; retired when the fault is permanent
(R432). -/
def fatal (e : Env) (hh : Hearth) (n : Nat) (perm : Bool) : Hearth :=
  if !(readyFrozen hh.st || hh.st == .booting) then hh else
  let hh := stopHearth e hh
  let seq := hh.ashNext
  let (hh, p) := eventRec e hh (bucketKey 0 0)
    { cls := 0x0080, path := BitVec.ofNat 64 (pathOf 0 0 0 0 0 0), detail := detailOf [(0, 1, n)] }
  if perm && !p then permanent hh (bucketKey 0 0) 3 0x0080 seq
  else { hh with deferred := hh.deferred.map (fun d => if d.cause = 0x0080 then { d with origin := 3 } else d) }

/-! ### Flue ports that leave -/

/-- A port tile leaves service or goes down: its cells take other paths or wait (R290, R319), its transit cells are
dropped. -/
def portLeaves (h : Nat) (hh : Hearth) (t : Nat) (st : LinkState) : Hearth :=
  let p := fport hh t
  let cells := p.inj.flatMap (·.2)
  let lost := p.transit.foldl (fun a x => a + x.2.length) 0
  let out := linkUp hh t && (List.range 4).any (fun c => mget 0 p.txCredits c < rxSlots t c)
  let hh := (List.range 4).foldl (fun hh c => (mget [] p.transit c).foldl (fun hh q => freeSlot hh q.port c) hh) hh
  let p := fport hh t
  let hh := putPort hh t { p with
    st := st, inj := [], transit := [], txCredits := [], owed := [], damper := 0, draining := false, lost := out }
  requeue h { hh with noPath := hh.noPath ++ cells, discards := hh.discards + lost }

/-! ### Retirement -/

/-- A unit is out of service already. -/
def isOut (hh : Hearth) (u : UnitSel) : Bool :=
  match u with
  | .hearth => hh.st == .retired
  | .die d => (dieOf hh d).down
  | .tile v => !tileEnabled hh v
  | .slice i => hh.slicesOut.contains i
  | .subch i => hh.subsOut.contains i || (match hh.reshape with | some r => r.leaving && r.sub == i | none => false)
  | .port t => hh.portsOut.contains t
  | .lane t l => hh.lanesOut.contains (4 * t + l)

/-- A tile stops for good. -/
def retireTile (hh : Hearth) (v : Nat) : Hearth :=
  updTile (closeTile false false hh v) v (fun t => { t with state := .retired, cur := none, flags := [] })

/-- Hearth-local bytes whose contents a change of the slices leaves undefined: data windows and spill window (R239). -/
def slicesUndef (hh : Hearth) (gen : Nat) : Hearth := hUndef hh 0xF000000000 0xF008000000 gen

/-- The frozen step ends with ABORTED_FAULT (R239, Table 10-5). -/
def endFrozen (e : Env) (hh : Hearth) : Hearth :=
  match frozenStep hh with
  | some x => endStepH e hh x.id .abortedFault
  | none => hh

/-- The lowest address of unit u (R241). -/
def unitAddr (u : Nat) : Nat := if u < 917504 then 0xE000000000 + 256 * u else 256 * u - 0xE000000

/-- The scrub of one word: a single error is corrected and written back; an uncorrectable word is written back poisoned and
recorded (R245, R413, Table 13-4). -/
def scrubWord (e : Env) (hh : Hearth) (w : Nat) : Hearth :=
  match wordReads hh w with
  | .data _ => corrected e hh w
  | .check => corrected e hh w
  | .uncorrectable => hPoisonWord (memUe e hh (8 * w) 3 none 0 (keyPath (memKey hh (8 * w)))) w
  | _ => hh

/-- Move unit u: an uncorrectable word counts where it was read from, as a scrub read does, and is written poisoned (R248). -/
def moveUnit (e : Env) (hh : Hearth) (u : Nat) : Hearth := (wordsOf (unitAddr u) 256).foldl (scrubWord e) hh

/-- Insert a unit into a rising list, once. -/
def insertUnit (u : Nat) : List Nat → List Nat
  | [] => [u]
  | x :: l => if u < x then u :: x :: l else if u = x then x :: l else x :: insertUnit u l

/-- Units that hold words with errors, in a range, rising. -/
def badUnits (hh : Hearth) (lo hi : Nat) : List Nat :=
  (((hh.errs.map (fun x => 8 * x.1)).filter (fun a => a < topOf hh || (0xE000000000 ≤ a && a < 0xE00E000000))).map unitOf
    |>.filter (fun u => lo ≤ u && u < hi)).foldl (fun l u => insertUnit u l) []

/-- Start a reshape: units 0 to 4,095 go to the spill window (R248 step 1, R431). -/
def startReshape (e : Env) (hh : Hearth) (sub : Nat) (leaving : Bool) : Hearth :=
  let hh := (badUnits hh 0 4096).foldl (moveUnit e) hh
  let n := (subsIn hh).length
  { hh with reshape := some ⟨sub, leaving, if leaving then (n - 1) * 2 ^ 24 - 1 else 4096⟩ }

/-- The units of a reshape not yet moved, those with errors only: moving another changes no contents. -/
def reshapeLeft (hh : Hearth) (r : Reshape) : List Nat :=
  if r.leaving then (badUnits hh 4096 (r.next + 1)).reverse
  else badUnits hh r.next ((subsIn hh).length * 2 ^ 24)

/-- The end of a reshape: the units left move, those below 4,096 leave the spill window, TOP moves by 4 GiB (R248 steps 2 to 4,
R431); addresses that a return adds are undefined. -/
def endReshape (e : Env) (gen : Nat) (hh : Hearth) (r : Reshape) : Hearth :=
  let hh := (reshapeLeft hh r).foldl (moveUnit e) hh
  let hh := (badUnits hh 0 4096).foldl (moveUnit e) hh
  let old := topOf hh
  let hh := { hh with
    reshape := none
    subsOut := if r.leaving then hh.subsOut ++ [r.sub] else hh.subsOut.filter (· != r.sub) }
  let lost (m : Mem) : Mem := m.filter (fun x => x.1 < topOf hh || old ≤ x.1)
  if r.leaving then
    { hh with mem := lost hh.mem, wild := unwild hh.wild (topOf hh) old
              errs := hh.errs.filter (fun x => 8 * x.1 < topOf hh || old ≤ 8 * x.1) }
  else hUndef hh old (topOf hh) gen

/-- A unit goes out of service. -/
def takeOut (e : Env) (gen : Nat) (hh : Hearth) (u : UnitSel) : Hearth :=
  match u with
  | .hearth => hh
  | .die d =>
    let x := dieOf hh d
    let m := BitVec.ofNat 48 (dieEnabled x)
    let hh := (setBits 48 m.toNat).foldl (fun hh b => retireTile hh (48 * d + b)) hh
    { hh with dies := mput {} hh.dies d { x with retired := x.retired ||| m, moved := m, down := true } }
  | .tile v =>
    let x := dieOf hh (v / 48)
    let hh := retireTile hh v
    { hh with dies := mput {} hh.dies (v / 48) { x with retired := x.retired ||| BitVec.ofNat 48 (2 ^ (v % 48)) } }
  | .slice i => slicesUndef { hh with slicesOut := hh.slicesOut ++ [i] } gen
  | .subch i => startReshape e hh i true
  | .port t => portLeaves e.h { hh with portsOut := hh.portsOut ++ [t] } t .retired
  | .lane t l =>
    let hh := { hh with lanesOut := hh.lanesOut ++ [4 * t + l] }
    putPort hh t { fport hh t with lanes := (fport hh t).lanes &&& BitVec.ofNat 4 (15 - 2 ^ l) }

/-- The die of a tile or die. -/
def dieOfSel (u : UnitSel) : Option Nat :=
  match u with
  | .die d => some d
  | .tile v => some (v / 48)
  | _ => none

/-- A retirement at once ends the running step whose region contains the unit (R427, R429); one of slices ends the frozen
step (R239). -/
def endFor (e : Env) (hh : Hearth) (u : UnitSel) (byHost : Bool) : Hearth :=
  match u with
  | .hearth => endAll e hh .abortedFault
  | .slice _ => endFrozen e hh
  | _ =>
    match runStep hh, dieOfSel u with
    | some x, some d =>
      if (mget {} hh.ctxs x.ctx).region.dieMask.getLsbD d then
        endStepH e hh x.id (if byHost then .abortedByHost else .abortedFault) else hh
    | _, _ => hh

/-- The bucket of a unit. -/
def selKey (u : UnitSel) : Nat :=
  match u with
  | .hearth => bucketKey 0 0
  | .die d => bucketKey 1 d
  | .tile v => bucketKey 2 v
  | .slice i => bucketKey 3 i
  | .subch i => bucketKey 4 i
  | .port t => bucketKey 5 t
  | .lane t l => bucketKey 6 (4 * t + l)

/-- A die whose last tile has gone retires with it (Table 13-11), so its entry shows it retired (R24). -/
def settledDie (x : Die) : Die := if dieEnabled x = 0 then { x with down := true } else x

/-- CENSUS of a RETIRE record: the die's entry for KIND 1 and 2 (Table 13-20). -/
def retireCensus (hh : Hearth) (l : List UnitSel) : Nat :=
  match l with
  | u :: _ => (match dieOfSel u with | some d => (censusEntry (settledDie (dieOf hh d))).toNat | none => 0)
  | [] => 0

/-- The RETIRE record (Table 13-20). -/
def retireRecord (e : Env) (hh : Hearth) (d : Deferred) (unsaved : Bool) : Hearth :=
  logRec e hh
    { cls := 0x0030, path := BitVec.ofNat 64 d.path, flags := if unsaved then 8 else 0
      detail := detailOf [(0, 2, d.cause), (2, 1, d.origin), (8, 8, d.causeSeq), (0x10, 16, retireCensus hh d.sels)] }

/-- A retired hearth: rails off (R17), its state gone but for what manufacture and the retirement map fix. Its log is
kept until it boots again (log 29). -/
def railsOff (hh : Hearth) : Hearth :=
  { ({} : Hearth) with
    st := .retired, retiredWhole := true, dies := hh.dies, slicesOut := hh.slicesOut, subsOut := hh.subsOut
    portsOut := hh.portsOut, lanesOut := hh.lanesOut, ash := hh.ash, ashNext := hh.ashNext, sigNew := hh.sigNew
    forwardFrom := hh.forwardFrom, epochBase := hh.epochBase, resets := hh.resets
    everReady := hh.everReady, steps := hh.steps, chargeSum := hh.chargeSum, freezeSum := hh.freezeSum
    flushCharge := true, moduleId := hh.moduleId, idValid := hh.idValid, reportRing := hh.reportRing
    reportNo := hh.reportNo, restoring := hh.restoring, returning := hh.returning, deferred := hh.deferred
    ports := hh.portsOut.foldl (fun m t => mupd {} m t (fun p => { p with st := .retired })) [] }

/-- The larger units that a retirement takes with it (last column of Table 13-11). -/
def treeOf (hh : Hearth) (u : UnitSel) : Hearth :=
  let also (hh : Hearth) (v : UnitSel) : Hearth :=
    { hh with deferred := hh.deferred ++ [{ sels := [v], path := keyPath (selKey v), origin := 2 }] }
  let hh := match u with
    | .lane t _ =>
      if ((List.range 4).all (fun l => hh.lanesOut.contains (4 * t + l)) || (linkUp hh t && (fport hh t).lanes == 0)) &&
          !hh.portsOut.contains t && !hh.deferred.any (fun d => d.sels == [UnitSel.port t]) then
        also hh (.port t) else hh
    | .tile v => if dieEnabled (dieOf hh (v / 48)) = 0 ∧ !(dieOf hh (v / 48)).down then also hh (.die (v / 48)) else hh
    | _ => hh
  let seen := match hh.reshape with
    | some r => if r.leaving then { hh with subsOut := hh.subsOut ++ [r.sub] } else hh
    | none => hh
  let part := match u with | .port _ => false | .lane _ _ => false | .hearth => false | _ => true
  if part && !computeSet seen && !hh.deferred.any (fun d => d.sels == [UnitSel.hearth]) then also hh .hearth else hh

/-- A retirement takes effect in its hearth (R427). -/
def retireEffect (e : Env) (gen : Nat) (unsaved : Bool) (d : Deferred) (hh : Hearth) : Hearth :=
  let out := d.sels.filter (fun u => !isOut hh u)
  let hh := out.foldl (fun hh u => endFor e hh u (d.origin == 1)) hh
  let hh := out.foldl (takeOut e gen) hh
  let hh := d.sels.foldl (fun hh u => emptyBucket hh (selKey u)) hh
  let hh := if d.path / 2 ^ 37 = 7 ∨ d.path / 2 ^ 37 = 8 then
      emptyBucket hh (bucketKey (d.path / 2 ^ 37) (nbits d.path 26 17)) else hh
  let hh := retireRecord e hh d unsaved
  if d.sels.contains .hearth then railsOff hh else out.foldl treeOf hh

/-- A retirement of memory takes effect only while no step of the hearth is RUNNING (R239, R247). -/
def isMemory (u : UnitSel) : Bool := match u with | .slice _ => true | .subch _ => true | _ => false

/-- A sub-channel. -/
def isSubch (u : UnitSel) : Bool := match u with | .subch _ => true | _ => false

/-- Whether a decided retirement may take effect now; one reshape at a time (R247). -/
def retireDue (hh : Hearth) (d : Deferred) : Bool :=
  if !present hh.st then true
  else if d.sels.any isMemory then
    d.fresh && (runStep hh).isNone && (hh.reshape.isNone || d.sels.all (fun u => match u with | .slice _ => true | _ => false))
  else true

/-- The power tokens of a hearth whose rails go off return to the pool (R17). -/
def returnTokens (s : State) (h : Nat) : State :=
  let n := (hearthOf s h).tokens
  updH { s with power := { s.power with pool := s.power.pool + n } } h (fun hh => { hh with tokens := 0 })

/-- Retired units enter the map in flash, where it can be written (R428). -/
def mapRetired (s : State) (h : Nat) (l : List UnitSel) : State :=
  if s.flash.writable then
    { s with flash := { s.flash with
      retired := s.flash.retired ++ (l.map (fun u => (h, u))).filter (fun x => !s.flash.retired.contains x) } }
  else s

/-- One retirement: the flash map first (R428), then the effect, then the command that asked for it. -/
def retireOne (s : State) (h : Nat) (d : Deferred) : State :=
  let hh := hearthOf s h
  let fin (s : State) (det : Nat) : State :=
    match d.cmd with | some id => finish s id .done det 0 0 | none => s
  if !present hh.st ∨ d.sels.all (isOut hh) then fin s 1
  else
    let s := mapRetired s h d.sels
    let s := if d.sels.contains .hearth then returnTokens s h else s
    fin (onHearth { s with fresh := s.fresh + 1 } h (fun e hh => retireEffect e s.fresh (!s.flash.writable) d hh)) 0

/-- Carry out the retirements of a hearth that are due; those that must wait stay (R247). -/
def retireAll (s : State) (h : Nat) : Nat → State
  | 0 => s
  | fuel + 1 =>
    let hh := hearthOf s h
    match hh.deferred.findIdx? (retireDue hh) with
    | none =>
      if hh.deferred.any (·.fresh) then
        updH s h (fun hh => { hh with deferred := hh.deferred.map (fun d => { d with fresh := false }) }) else s
    | some i =>
      match hh.deferred[i]? with
      | none => s
      | some d => retireAll (retireOne (updH s h (fun hh => { hh with deferred := hh.deferred.eraseIdx i })) h d) h fuel

end Sys2Proof.Machine
end

