-- ==== Sys2Proof/Machine/Ready.lean ====
section
/-! DEFINITION. When an operation of a compute tile is ready (R74 to R76, R80), and what it waits for otherwise. -/

namespace Sys2Proof.Machine

/-- What a slot waits for (Table 3-6): an input's group, an output's credits, a sync object, a weight bank, or an earlier
firing of its own tile. -/
inductive Missing where
  | group (n : Nat) | credits (o : Nat) | sync | bank | order
  deriving DecidableEq, Repr

/-- OBJECT of a SYNC slot. -/
def syncObj (t : Tile) (s : Nat) : Nat := param t s 2 2

/-- The slot has started its firing for a tag. -/
def hasFired (t : Tile) (s : Nat) (tag : W16) : Bool := t.fired.contains (s, tag)

/-- Tags that a slot may fire for next: those open at its inputs, the EMITs not resolved, or the next tag of a slot with an
empty IN_MASK (R75). -/
def candTags (t : Tile) (st : Step) (s : Nat) : List W16 :=
  if opCode t s = 0x02 then
    (t.emits.filter (fun x => x.1 == s && !hasFired t s x.2.1)).map (·.2.1) |>.eraseDups
  else if opIns t s = [] then
    (if mget 0 t.fireNo s < st.n then [tagAt st (mget 0 t.fireNo s)] else [])
  else (((opIns t s).flatMap (fun n => (inLive t n).opened)).eraseDups).filter (fun tag => !hasFired t s tag)

/-- Every candidate of a tile, as (slot, tag). -/
def candidates (t : Tile) (st : Step) : List (Nat × W16) :=
  (slotsOn t).flatMap (fun s => (candTags t st s).map (fun g => (s, g)))

/-- The complete group of a tag is there, and no flag holds it (R74, R417). -/
def groupReady (v : Nat) (t : Tile) (n : Nat) (tag : W16) : Bool :=
  let g := groupAt v t n tag
  !flaggedAt t n tag && (if inType t n = 2 then !g.isEmpty else complete g)

/-- An MMA slot covers some accumulator row of another. -/
def rowsMeet (t : Tile) (a b : Nat) : Bool :=
  decide (param t a 8 2 < param t b 8 2 + param t b 2 2) && decide (param t b 8 2 < param t a 8 2 + param t a 2 2)

/-- An MMA slot with a lower K_START over the same rows has not fired for the tag (R80). -/
def kWaits (t : Tile) (s : Nat) (tag : W16) : Bool :=
  (slotsOn t).any (fun q => q != s && opCode t q == 0x01 && rowsMeet t s q && decide (param t q 4 2 < param t s 4 2)
    && !hasFired t q tag)

/-- Bank b of a matrix tile. -/
def bankOfTile (t : Tile) (b : Nat) : Bank := if b = 0 then t.bank0 else t.bank1

/-- The weight bank that a slot names. -/
def slotBank (t : Tile) (s : Nat) : Nat := if opCode t s = 0x01 then b2n (nbit (param t s 1 1) 0) else param t s 1 1 % 2

/-- The bank state allows the firing (R48). -/
def bankOk (t : Tile) (s : Nat) : Bool :=
  match opCode t s with
  | 0x01 => (bankOfTile t (slotBank t s)).st == .ready || (bankOfTile t (slotBank t s)).st == .inUse
  | 0x03 => (bankOfTile t (slotBank t s)).st == .empty
  | _ => true

/-- The generation that a slot's wait at a tile barrier compares (R224): its own, latched when the wait became ready with no
arrive of the tile before it, or that of the tile's last arrive. -/
def latchFor (o : SyncLive) (s : Nat) : Option W16 :=
  match mget none o.latch (s + 1) with
  | some g => some g
  | none => mget none o.latch 0

/-- A wait that its object permits (R224): a tile object's barrier whose generation moved on from the latch, a counter
above zero; a hearth object that has granted. -/
def waitOk (t : Tile) (s : Nat) (tag : W16) : Bool :=
  if opCode t s ≠ 0x20 ∨ param t s 0 1 ≠ 1 then true
  else if 0x100 ≤ syncObj t s then t.waitSlots.contains (s, tag, true)
  else
    let o := mget {} t.syncs (syncObj t s)
    match wb (syncReg t (syncObj t s)) 63 62 with
    | 1 => (match latchFor o s with | some g => g != o.gen | none => false)
    | 2 => decide (1 ≤ o.value)
    | _ => true

/-- The first condition of R74 that a slot lacks for a tag. -/
def missing (v : Nat) (t : Tile) (s : Nat) (tag : W16) : Option Missing :=
  match (opIns t s).find? (fun n => !groupReady v t n tag) with
  | some n => some (.group n)
  | none =>
    match (opOuts t s).find? (fun o => (outLive t o).credits < outTokens v t s tag) with
    | some o => some (.credits o)
    | none =>
      if !bankOk t s then some .bank
      else if opCode t s = 0x02 ∧ !(setBits 32 (param t s 8 4)).all (fun q => hasFired t q tag) then some .order
      else if opCode t s = 0x01 ∧ kWaits t s tag then some .order
      else if !waitOk t s tag then some .sync else none

/-- The tile's lowest open tag (R76), or the lowest candidate where no tag is open at an input. DESIGN CHOICE, log 52. -/
def baseTag (t : Tile) (st : Step) : W16 :=
  let opened := (List.range 16).flatMap (fun n => (inLive t n).opened)
  match lowestTag (if opened = [] then (candidates t st).map (·.2) else opened) with
  | some b => b
  | none => st.first

/-- R76's order: the smaller distance from the base tag, then the lower slot. -/
def firesBefore (base : W16) (a b : Nat × W16) : Bool :=
  decide ((a.2 - base).toNat < (b.2 - base).toNat) || (a.2 == b.2 && decide (a.1 < b.1))

/-- The slot and tag that R76 chooses among some. -/
def chooseSlot (base : W16) (l : List (Nat × W16)) : Option (Nat × W16) :=
  l.find? (fun a => l.all (fun b => a == b || !firesBefore base b a))

/-- The slot and tag that the tile fires next. -/
def nextFiring (v : Nat) (t : Tile) (st : Step) : Option (Nat × W16) :=
  chooseSlot (baseTag t st) ((candidates t st).filter (fun c => (missing v t c.1 c.2).isNone))

/-- The tile may start a firing: RUNNING, none in progress, no tile of a halting step (R342). -/
def mayStart (t : Tile) (st : Step) : Bool := t.state == .running && t.cur.isNone && st.state == .running

/-- The running step of a tile's section. -/
def tileStep (hh : Hearth) (v : Nat) : Option Step :=
  match runStep hh with
  | some st => if tileInSec hh st.ctx st.ran v && (tileAt hh v).active == st.ctx then some st else none
  | none => none

end Sys2Proof.Machine
end

