-- ==== Sys2Proof/Machine/Waits.lean ====
section
/-! DEFINITION. What the units of a section wait for (R97, R98): the wait-for graph, and since when each unit is blocked. -/

namespace Sys2Proof.Machine

/-- Where a wait leads: to a unit of the hearth, or out of the streams (a flue port, an outstanding read or write, a sync
object; R99). -/
inductive WaitOn where
  | unit (u : UnitRef) | remote
  deriving DecidableEq, Repr

/-- An edge of the wait-for graph: DIR, STREAM and REASON of Table 3-6, and where it leads. -/
structure WaitEdge where
  dir : Nat := 0
  stream : Nat := 0
  reason : Nat := 0
  on : WaitOn
  deriving DecidableEq, Repr

/-- The sender that an input lacks a group from: of a combining input, the first that has not contributed. -/
def lacking (hh : Hearth) (v n : Nat) (tag : W16) : WaitOn :=
  let t := tileAt hh v
  if inType t n = 2 then
    let tbl := senderTable hh t.active v n
    let x := inLive t n
    match (List.range (inSenders t n)).find? (fun i => !x.contrib.any (fun c => c.1 == tag && c.2.1 == i)) with
    | some i => (match tbl[i]? with | some s => .unit s.2.1 | none => .remote)
    | none => .unit (tileRef v)
  else if (inSrc t n).kind = 0 then .remote else .unit (inSrc t n)

/-- REASON of a missing group: 2 not admitted by the window, 3 the store is full, else 0. -/
def lackReason (v : Nat) (t : Tile) (n : Nat) (tag : W16) : Nat :=
  let x := inLive t n
  match x.queue with
  | k :: _ =>
    if !x.queue.any (fun q => q.tag == tag) then 0
    else if !admits (inWindowOf t n) x.opened k.tag then 2
    else if pooled v t n && poolUsed v t ≥ 256 then 3 else 0
  | [] => 0

/-- The slot whose firing for the same tag a slot waits for on its own tile: the first MMA of DEPS, or one of a lower K_START. -/
def orderSlot (t : Tile) (s : Nat) (tag : W16) : Option Nat :=
  if opCode t s = 0x02 then (setBits 32 (param t s 8 4)).find? (fun q => !hasFired t q tag)
  else (slotsOn t).find? (fun q => q != s && opCode t q == 0x01 && rowsMeet t s q && decide (param t q 4 2 < param t s 4 2)
    && !hasFired t q tag)

/-- What a slot waits for: of a wait for a firing of its own tile, what the slot of that firing waits for. DESIGN CHOICE,
log 117. -/
def waitsFor (v : Nat) (t : Tile) : Nat → Nat → W16 → Option Missing
  | 0, s, tag => missing v t s tag
  | fuel + 1, s, tag =>
    match missing v t s tag, orderSlot t s tag with
    | some .order, some q => waitsFor v t fuel q tag
    | m, _ => m

/-- The edge of a compute tile: that of the oldest slot that R76 would choose if its conditions held (R98). A wait for a
weight bank leads out of the hearth's units while the bank loads, and to the tile itself otherwise. DESIGN CHOICE, log 117. -/
def tileEdge (hh : Hearth) (st : Step) (v : Nat) : Option WaitEdge :=
  let t := tileAt hh v
  match chooseSlot (baseTag t st) (candidates t st) with
  | some (s, tag) =>
    match waitsFor v t 32 s tag with
    | some (.group n) => some { stream := n, reason := lackReason v t n tag, on := lacking hh v n tag }
    | some (.credits o) => some
        { dir := 1, stream := o, reason := 1
          on := match destOf hh (tileRef v) o with | some (r, _) => .unit r | none => .remote }
    | some .sync => some { reason := 4, on := .remote }
    | some .bank => some { reason := 5, on := if (bankOfTile t (slotBank t s)).st = .loading then .remote else .unit (tileRef v) }
    | some .order => some { on := .unit (tileRef v) }
    | none => none
  | none =>
    match (slotsOn t).find? (fun s => opIns t s != []) with
    | some s => ((opIns t s).head?).map (fun n =>
        { stream := n, on := lacking hh v n ((runStep hh).elim 0 (fun x => x.first)) })
    | none => none

/-- The sink that holds the issue window shut (R86). -/
def slowSink (hh : Hearth) (st : Step) : WaitOn :=
  let r := retiredTags hh st
  match (secThreads hh st.ctx st.ran).find? (fun x =>
      ((stkOf x.2.body).mode == 1 || (stkOf x.2.body).mode == 2) && (threadAt hh x.1).donePre == r) with
  | some x => .unit (threadRef x.1)
  | none => match (secEps hh st.ctx st.ran).find? (fun x => epSink (epOf x.2.body) && (epAt hh x.1).donePre == r) with
    | some x => .unit (epRef x.2.home x.1)
    | none => .remote

/-- The edge of a stoker thread. -/
def threadEdge (hh : Hearth) (st : Step) (u : Nat) (d : Stk) : Option WaitEdge :=
  let t := threadAt hh u
  let reads : WaitEdge := { stream := 0, on := .unit ⟨1, BitVec.ofNat 16 d.src⟩ }
  if t.waiting then some { reason := 4, on := .remote }
  else if t.fetch.isSome ∨ t.outstanding ≠ 0 ∨ t.unacked ≠ [] then some { on := .remote }
  else if t.toSend ≠ [] then
    (if t.out.credits < t.toSend.length then
      some { dir := 1, reason := 1, on := .unit ⟨1, BitVec.ofNat 16 d.dest⟩ } else none)
  else if d.mode = 1 then (if t.donePre < st.n then some reads else none)
  else if d.mode = 2 then
    (if t.next < t.donePre ∧ !mayIssue hh st t.next then some { reason := 2, on := slowSink hh st }
     else if t.donePre < st.n then some reads else none)
  else if d.mode = 3 then none
  else if t.next < st.n ∧ !mayIssue hh st t.next then some { reason := 2, on := slowSink hh st }
  else none

/-- The edge of a flue endpoint. -/
def epEdge (hh : Hearth) (st : Step) (k : Nat) (d : EpD) : Option WaitEdge :=
  let x := epAt hh k
  if epSink d then
    if x.buf ≠ [] then some { on := .remote }
    else if x.donePre < st.n then some { on := .unit ⟨1, BitVec.ofNat 16 d.loc⟩ } else none
  else if x.toSend ≠ [] ∧ x.toSend.all (fun k => !withinIssue hh st (posAround st x.donePre k.tag)) then
    some { reason := 2, on := slowSink hh st }
  else if x.toSend ≠ [] ∧ x.out.credits < x.toSend.length then
    some { dir := 1, reason := 1, on := .unit ⟨1, BitVec.ofNat 16 d.loc⟩ }
  else if epSource d ∧ x.donePre < st.n then some { on := .remote } else none

/-- The edge of a unit of the section. -/
def edgeOf (hh : Hearth) (st : Step) (u : UnitRef) : Option WaitEdge :=
  match u.kind.toNat with
  | 1 => (tileOfId u.id.toNat).bind (tileEdge hh st)
  | 2 => (threadDesc hh st.ctx u.id.toNat).bind (threadEdge hh st u.id.toNat)
  | 4 => (epDesc hh st.ctx (u.id.toNat % 512)).bind (epEdge hh st (u.id.toNat % 512))
  | _ => none

/-- The units of a step's section. -/
def secUnits (hh : Hearth) (st : Step) : List UnitRef :=
  (secTiles hh st.ctx st.ran).map tileRef ++ (secThreads hh st.ctx st.ran).map (fun x => threadRef x.1)
    ++ (secEps hh st.ctx st.ran).map (fun x => epRef x.2.home x.1)

/-- Where a walk along the edges ends: outside the streams, at a unit that waits on nothing, or on a unit met before. -/
inductive WalkEnd where
  | remote | nothing | cycle (u : UnitRef)
  deriving DecidableEq, Repr

/-- Follow the edges from a unit: the units passed, with their edges, and the end. -/
def walk (hh : Hearth) (st : Step) : Nat → UnitRef → List (UnitRef × WaitEdge) → List (UnitRef × WaitEdge) × WalkEnd
  | 0, u, l => (l, .cycle u)
  | fuel + 1, u, l =>
    if l.any (fun x => x.1 == u) then (l, .cycle u)
    else match edgeOf hh st u with
      | none => (l, .nothing)
      | some e => match e.on with
        | .remote => (l ++ [(u, e)], .remote)
        | .unit w => walk hh st fuel w (l ++ [(u, e)])

/-- A blocked unit of R98, from which the walks start: a tile that R76 has a slot and tag for, or a thread or endpoint that
waits. A tile with no tag to fire for is passed through, but no walk starts there. -/
def blockedUnit (hh : Hearth) (st : Step) (u : UnitRef) : Bool :=
  (edgeOf hh st u).isSome &&
    (match u.kind.toNat, tileOfId u.id.toNat with
     | 1, some v => (candidates (tileAt hh v) st) != []
     | _, _ => true)

/-- The units of the running step that are blocked now: a tile with a firing in progress is not. -/
def blockedNow (hh : Hearth) (st : Step) (u : UnitRef) : Bool :=
  blockedUnit hh st u &&
    (match u.kind.toNat, tileOfId u.id.toNat with
     | 1, some v => (tileAt hh v).cur.isNone
     | _, _ => true)

/-- Note since when each unit of a running step is blocked (R103). -/
def noteBlocked (now : Nat) (hh : Hearth) : Hearth :=
  match runStep hh with
  | none => { hh with blocked := [] }
  | some st =>
    if st.state ≠ .running ∧ st.state ≠ .halting then { hh with blocked := [] } else
    { hh with blocked := ((secUnits hh st).filter (blockedNow hh st)).map (fun u =>
        (u, ((hh.blocked.find? (fun b => b.1 == u)).map (·.2)).getD now)) }

end Sys2Proof.Machine
end

