-- ==== Sys2Proof/Machine/Settle.lean ====
section
/-! DEFINITION. What follows an event at once: retirements, charges, reports, completions, module state. -/

namespace Sys2Proof.Machine

/-- The steps that a PREEMPT_STEP named: all frozen, halted or ended, and the mask of hearths frozen. -/
def preemptDone (s : State) (l : List (Nat × Nat)) (halt : Bool) : Option Nat :=
  let ready (x : Nat × Nat) : Bool :=
    match (hearthOf s x.1).steps.find? (fun st => st.id == x.2) with
    | none => true
    | some st => st.state == .frozen || (halt && st.state == .halting && st.treeHold)
  if l.all ready then
    some (maskOf ((l.filter (fun x => (hearthOf s x.1).steps.any (fun st => st.id == x.2 && st.state == .frozen))).map (·.1)))
  else none

/-- Complete a load when no hearth is left (R190, R396): the largest status; for DONE_WITH_REPORT the records made and the
hearths that made them; for a fatal load the detail of R188. -/
def finishLoad (s : State) (id : Nat) (left : W16) (st : Status) (det records : Nat) (mask : W16) : State :=
  if left ≠ 0 then setWait s id (.load left st det records mask)
  else finish s id st (if st = .doneWithReport then sat 32 records else det) mask.toNat 0

/-- A hearth of a load has ended its part with a status. -/
def loadPart (s : State) (id h : Nat) (r : Status) (d n : Nat) : State :=
  match startedOf s id with
  | some { wait := some (.load left st det records mask), .. } =>
    let bit := BitVec.ofNat 16 (2 ^ h)
    finishLoad s id (left &&& ~~~bit) (worse st r) (if stCode st < stCode r then d else det) (records + n)
      (if n = 0 then mask else mask ||| bit)
  | _ => s

/-- A load whose hearth has stopped loading ends there (R197). -/
def loadStopped (s : State) (id : Nat) (left : W16) : State :=
  ((setBits 9 left.toNat).filter (fun h => !((hearthOf s h).load.any (fun l => l.cmd == id)))).foldl (fun s h =>
    let hs := (hearthOf s h).st
    loadPart s id h (if hs = .faulted ∨ hs = .retired then .abortedFault else .abortedByHost) 0 0) s

/-- End every step of a workload in a hearth; how many. -/
def endWorkload (e : Env) (hh : Hearth) (w : Nat) (status : Status) : Hearth :=
  (hh.steps.filter (fun x => x.workload == w && x.state != .ended)).foldl (fun hh x => endStepH e hh x.id status) hh

/-- Send ABORT_STEP for a workload through the tree (R349, R351): to every ENABLED child, and to this module's hearths. -/
def abortTree (s : State) (w : Nat) : State :=
  let slot := leBytes 2 0x43 ++ [1, 1] ++ zeros 4 ++ leBytes 2 0x1FF ++ leBytes 2 w ++ zeros 52
  let s := (enabledChildren s).foldl (fun s i => sendCommand s i slot) s
  onHearths s allHearths (fun e hh => endWorkload e hh w .abortedByHost)

/-- The participants of a HALT round begin to save (R349). -/
def beginSave (s : State) (l : List (Nat × Nat)) : State :=
  l.foldl (fun s x => onHearth s x.1 (fun e hh =>
    if hh.steps.any (fun y => y.id == x.2 && y.state == .halting && y.treeHold) then
      updStep { accrue e hh with flushCharge := true } x.2 (fun y => { y with state := .saving, treeHold := false })
    else hh)) s

/-- A tree PREEMPT_STEP after its HALT round: SAVE follows once every child has halted, or ABORT_STEP where a child was lost
(R349). -/
def afterHalt (s : State) (x : Started) (l : List (Nat × Nat)) (slot : BitVec 512) : State :=
  if x.children ≠ [] then s
  else if x.lost then finish (abortTree s x.workload) x.id .abortedFault 0 0 0
  else
    let kids := enabledChildren s
    let s := kids.foldl (fun s i => sendCommand s i (leBytes 64 slot.toNat)) s
    let s := updStarted s x.id (fun y => { y with children := kids, wait := some (.preempt l false none) })
    beginSave s l

/-! ### Links (R282) -/

/-- The bit of a link in the results: 14 bits per hearth. -/
def linkMask (l : List (Nat × Nat)) : BitVec 128 := BitVec.ofNat 128 (maskOf (l.map (fun x => 14 * x.1 + x.2)))

/-- Links of a mask. -/
def linkCount (m : BitVec 128) : Nat := popcount 128 m.toNat

/-- Complete a FLUE command: its marked links, and DONE_WITH_REPORT with their number when there are any. -/
def finishLinks (s : State) (id : Nat) (m : BitVec 128) : State :=
  finish s id (if m = 0 then .done else .doneWithReport) (linkCount m) (m.toNat % 2 ^ 64) (m.toNat / 2 ^ 64)

/-- The links of a mask, as (hearth, port tile). -/
def maskLinks (m : BitVec 128) : List (Nat × Nat) := (setBits 126 m.toNat).map (fun i => (i / 14, i % 14))

/-- Settle a FLUE command: the links no longer awaited leave `left`, those that `bad` marks go into the result. -/
def settleLinks (s : State) (id : Nat) (left m : BitVec 128) (waits bad : Hearth → Nat → Bool)
    (again : BitVec 128 → BitVec 128 → Wait) : State :=
  let l := maskLinks left
  let w := l.filter (fun x => waits (hearthOf s x.1) x.2)
  let b := l.filter (fun x => !waits (hearthOf s x.1) x.2 && bad (hearthOf s x.1) x.2)
  let m' := m ||| linkMask b
  if w = [] then finishLinks s id m' else setWait s id (again (linkMask w) m')

/-! ### Firmware (R448, R449) -/

/-- A verified image goes into its target's inactive slot; its measurement is that of the staged copy (R445, R448). -/
def stageImage (s : State) (target : Nat) (x : FwImage) : State :=
  if target = 0 then { s with
    flash := { s.flash with
      modSlots := mput none s.flash.modSlots (1 - s.flash.modActive) (some x), modStaged := true, sigFails := 0 }
    trust := { s.trust with measModuleStaged := x.hash } }
  else { s with
    flash := { s.flash with
      hearthSlots := mput none s.flash.hearthSlots (1 - s.flash.hearthActive) (some x), hearthStaged := true, sigFails := 0 }
    trust := { s.trust with measHearthStaged := x.hash } }

/-- FW_STAGE after verification: a flash that cannot be written leaves nothing staged. -/
def finishStage (s : State) (id target : Nat) (x : FwImage) : State :=
  if s.flash.writable then finish (stageImage s target x) id .done 0 0 0
  else
    let f := s.flash
    finish { s with flash := if target = 0 then { f with modStaged := false } else { f with hearthStaged := false } }
      id .abortedFault 1 0 0

/-- The hearth whose turn it is in an activation has entered FAULTED or RETIRED: the activation stops there (R449). -/
def activationStopped (s : State) (a : Activation) : Bool :=
  a.target == 1 && (match a.left with
    | h :: _ => (hearthOf s h).st == .faulted || (hearthOf s h).st == .retired
    | [] => false)

/-- Settle the started commands whose wait is over. -/
def settleWait (s : State) (x : Started) : State :=
  match x.wait with
  | some (.preempt l halt save) =>
    (match preemptDone s l halt, save with
     | some _, some slot => afterHalt s x l slot
     | some m, none => finish s x.id .done m 0 0
     | none, _ => s)
  | some (.load left _ _ _ _) => loadStopped s x.id left
  | some (.reset left st) =>
    let busy := (setBits 9 left.toNat).filter (fun h => (hearthOf s h).st == .booting)
    let bad := (setBits 9 left.toNat).any (fun h => !readyFrozen (hearthOf s h).st)
    if busy = [] then finish s x.id (if bad then worse st .abortedFault else st) 0 0 0 else s
  | some (.flueUp left m) => settleLinks s x.id left m (fun hh t => (fport hh t).st == .training)
      (fun hh t => !linkUp hh t) .flueUp
  | some (.flueDown left m) => settleLinks s x.id left m (fun hh t => (fport hh t).draining) (fun hh t => (fport hh t).lost)
      .flueDown
  | some (.fwStage t img) =>
    if s.activation.any (fun a => a.target == t) then s else finishStage s x.id t img
  | some .fwActivate =>
    (match s.activation with
     | a :: rest => if a.cmd = x.id ∧ activationStopped s a then
         finish { s with activation := rest } x.id .abortedFault a.switched.toNat 0 0 else s
     | [] => s)
  | some (.attest _ _) => if s.fuses.kill then finish s x.id .rejectedSecurity 10 0 0 else s
  | some (.remoteCopy _ left _) =>
    (match left.find? (fun y => y.2 != 0 && !readyFrozen (hearthOf s y.1).st) with
     | some y => finish s x.id (if readyFaulted (hearthOf s y.1).st ∨ (hearthOf s y.1).st = .retired then .abortedFault
         else .abortedByHost) 0 0 0
     | none => s)
  | some .slew => if s.time.slew = 0 ∧ !s.time.half then finish s x.id .done 0 0 0 else s
  | some .warmReset =>
    if s.mod = .service ∨ s.mod = .operational then finish { s with power := { s.power with warm := none } } x.id .done 0 0 0 else s
  | _ => s

/-- The module ports that are UP, one bit each. -/
def portsUp (s : State) : Nat :=
  maskOf ((List.range 54).filter (fun p => portUp (hearthOf s (p / 6)) (p % 6)))

/-- Every hearth knows which ports of its module are UP (R319; log 136). -/
def tellPorts (s : State) : State :=
  let up := portsUp s
  allHearths.foldl (fun s h => if (hearthOf s h).modulePorts = up then s else
    updH s h (fun hh => { hh with modulePorts := up })) s

/-- The DSMAS entries of the CDAT, as (DPA, bytes): for each hearth in service its memory up to TOP, then its store-slice windows
(R360, R267). -/
def dsmas (s : State) : List (Nat × Nat) :=
  (allHearths.filter (fun h => readyFaulted (hearthOf s h).st)).flatMap (fun h =>
    [(h * 0x4000000000, topOf (hearthOf s h)), (h * 0x4000000000 + windowOffset 0xF000000000, 32 * 0x3E0000)])

/-- Every hearth has ended its first boot since the reset, in READY, FAULTED or RETIRED. -/
def firstBoots (s : State) : Bool := allHearths.all (fun h => (hearthOf s h).firstBoot || (hearthOf s h).retiredWhole)

/-- What the host sees of the module as memory (R360): Memory_Active is set once and stays, and the sequence number of the CDAT
changes with it. -/
def memoryShown (s : State) : State :=
  let l := dsmas s
  { s with
    memActive := s.memActive || firstBoots s
    cdat := if l = s.cdat.entries then s.cdat else { entries := l, seq := (s.cdat.seq + 1) % 2 ^ 32 } }

/-- What follows an event at once: retirements (R427), charges at a change of step state (R341), cells that can move on,
grants, ended and frozen steps, finished commands, the module's state. -/
def settle (s : State) : State :=
  let s := allHearths.foldl (fun s h => if (hearthOf s h).deferred = [] then s else retireAll s h 32) s
  let s := tellPorts s
  let s := onHearths s allHearths (fun e hh => noteBlocked e.now (requeue e.h (pumpEps e.h (regrant hh))))
  let s := allHearths.foldl (fun s h => if (hearthOf s h).flushCharge then reportCharges s h else s) s
  let s := allHearths.foldl settleSteps s
  let s := s.started.foldl settleWait s
  memoryShown (modRefresh s)

/-- The end of a meaning that touches steps, streams or commands. -/
def done (s : State) : Host.Outcome State Fault Refusal := nextOf (settle s)

/-- The end of a meaning that changes one hearth by its own rules. -/
def hearthEvent (s : State) (h : Nat) (f : Env → Hearth → Hearth) : Host.Outcome State Fault Refusal :=
  done (onHearth s h f)

end Sys2Proof.Machine
end

