-- ==== Sys2Proof/Machine/Power.lean ====
section
/-! DEFINITION. Power, boot, clocks, tokens, temperatures and sensors (R446, R464 to R481). -/

namespace Sys2Proof.Machine

/-! ### Resets of the whole module -/

/-- A hearth after a module cold reset: nothing but what manufacture fixed, its fused-off tiles. -/
def coldHearth (hh : Hearth) : Hearth := { dies := mmap {} (fun _ d => { ({} : Die) with bad := d.bad }) hh.dies }

/-- A module cold reset keeps fuses and module flash (Table 15-3), and what is not the module's: host memory. -/
def coldReset (s : State) : State :=
  { State.reset with
    pending := s.pending, fresh := s.fresh, fuses := s.fuses, flash := s.flash, hostMem := s.hostMem
    hostWild := s.hostWild, hearths := mmap {} (fun _ hh => coldHearth hh) s.hearths
    hostPortFailed := s.hostPortFailed, sidebandFailed := s.sidebandFailed, pairsFailed := s.pairsFailed, pairBucket := s.pairBucket
    trust := { engineFailed := s.trust.engineFailed, verifyFailed := s.trust.verifyFailed }
    power := { s.power with booted := false, warm := none, pool := 0, budget := 0 }
    saves := s.saves }

/-- Blow what is left of PUF_HELPER when KILL is blown (Table 14-7 event 1, R460). -/
def finishKill (f : Fuses) : Fuses := if f.kill then { f with helperLeft := 0 } else f

/-- Boot count B plus one in flash (R468); a flash that cannot be written keeps it. -/
def countBoot (s : State) : State :=
  if s.flash.writable then { s with flash := { s.flash with bootCount := (s.flash.bootCount + 1) % 2 ^ 32 } } else s

/-- The boot sequence starts: fuses are read, the boot is counted (Table 14-7). -/
def startBoot (s : State) : State :=
  countBoot { s with mod := .boot, fuses := finishKill s.fuses, power := { s.power with booted := true, perst := false } }

/-- A failed mantel unit is recorded in the logs of hearths (Table 1-12); the class of the record is open (log 22). -/
def mantelFailAt (s : State) (hs : List Nat) (unit : Nat) : State :=
  onHearths s hs (fun e hh => logOf e hh (Config.mantelFailClass unit % 65536) (pathOf 13 0 0 0 0 0) 0 0)

/-- A failed mantel unit is recorded in the log of every hearth that is not ABSENT or RETIRED (Table 1-12). -/
def mantelFail (s : State) (unit : Nat) : State :=
  mantelFailAt s (allHearths.filter (fun h => present (hearthOf s h).st)) unit

/-! ### Firmware images at boot (R446, R447) -/

/-- Whether the image of a slot verifies at boot (R445). -/
def slotVerifies (slots : SMap (Option FwImage)) (rollback i : Nat) : Option FwImage :=
  match mget none slots i with
  | some x => if x.verifies ∧ rollback ≤ x.secver then some x else none
  | none => none

/-- The slot and image that run: the active slot, then the other, then F (R446). -/
def bootImage (slots : SMap (Option FwImage)) (active rollback : Nat) : Option (Nat × FwImage) :=
  [active, 1 - active, 2].findSome? (fun i => (slotVerifies slots rollback i).map (fun x => (i, x)))

/-- The module image that a boot runs; none where the verification engine has failed (Table 1-12). -/
def moduleImage (s : State) : Option (Nat × FwImage) :=
  if s.trust.verifyFailed then none else
  bootImage s.flash.modSlots s.flash.modActive s.fuses.rollbackModule

/-- The hearth image that a boot runs; none where the verification engine has failed (Table 1-12). -/
def hearthImage (s : State) : Option (Nat × FwImage) :=
  if s.trust.verifyFailed then none else
  bootImage s.flash.hearthSlots s.flash.hearthActive s.fuses.rollbackHearth

/-- POWER_UP: the input first lies within 44 to 56 V; mantel rails come into regulation (R466). After a mantel
over-temperature the module stays off until the input has been removed (R479). -/
def execPowerUp (s : State) : Host.Outcome State Fault Refusal :=
  nextOf (if s.power.inputOk then s else
    let s := coldReset s
    { s with power := { s.power with inputOk := true, mantelOn := true, latchedOff := false } })

/-- INPUT_OUT_OF_RANGE: every rail goes off; all state but fuses and module flash is lost (R464). -/
def execInputOutOfRange (s : State) : Host.Outcome State Fault Refusal :=
  let s := coldReset s
  nextOf { s with power := { s.power with inputOk := false, mantelOn := false, latchedOff := false } }

/-- PERST_ASSERT: a module cold reset; mantel rails stay on (R467, R469). -/
def execPerstAssert (s : State) : Host.Outcome State Fault Refusal :=
  let s := coldReset s
  nextOf { s with power := { s.power with perst := true } }

/-- PERST_RELEASE starts the boot sequence (R446). -/
def execPerstRelease (s : State) : Host.Outcome State Fault Refusal :=
  nextOf (if s.power.mantelOn ∧ s.power.perst then startBoot s else s)

/-- PERST_WAIT_EXPIRY: 200 ms after power good without a host, PERST# reads deasserted and the module boots as though it
had been released (R467); not out of ALARM (R463). -/
def execPerstWaitExpiry (s : State) : Host.Outcome State Fault Refusal :=
  nextOf (if s.power.mantelOn ∧ !s.power.booted ∧ s.mod ≠ .alarm then startBoot s else s)

/-- Hearths that the retirement map retires whole read RETIRED from SERVICE on (R428). -/
def markRetired (s : State) : State :=
  onHearths s allHearths (fun e hh =>
    if s.flash.retired.any (fun x => x.1 == e.h && x.2 == UnitSel.hearth) then
      { hh with st := .retired, retiredWhole := true, rail := false } else hh)

/-- MODULE_FIRMWARE_START: the first module image that verifies runs; SERVICE (Table 14-7). A higher SECVER of the active
slot is fused (R447). The second command-processor pair counts as a standby again (DESIGN CHOICE, log 129). A running boot ROM engine gives way to nothing: it starts only when no image verifies. -/
def execModuleFirmwareStart (s : State) : Host.Outcome State Fault Refusal :=
  done (match moduleImage s with
    | none => s
    | some (i, x) =>
      if s.mod ≠ .boot ∨ !s.power.booted ∨ s.ringsOn ∨ s.romEngine ∨ s.pairsFailed then s
      else
        let roll := if i = s.flash.modActive then max s.fuses.rollbackModule x.secver else s.fuses.rollbackModule
        let s := { s with
          mod := .service, ringsOn := true, standbyOk := true, sidebandOn := !s.sidebandFailed
          fuses := { s.fuses with rollbackModule := roll }
          trust := { s.trust with measModule := x.hash, fwVersion := x.version }
          regs := { s.regs with cfgOk := true } }
        markRetired s)

/-- BOOT_ROM_RING_ENGINE: no module image verifies; the boot ROM's ring engine answers in BOOT (R446). -/
def execBootRomRingEngine (s : State) : Host.Outcome State Fault Refusal :=
  nextOf (if s.mod = .boot ∧ s.power.booted ∧ !s.ringsOn ∧ moduleImage s = none then
    { s with romEngine := true, regs := { s.regs with cfgOk := true } } else s)

/-- Units of a hearth that the retirement map holds go out of service before READY (R428). A die that is out already keeps
the record of what its retirement moved (R25). -/
def applyRetired (l : List UnitSel) (hh : Hearth) : Hearth :=
  l.foldl (fun hh u => match u with
    | .die d =>
      let x := dieOf hh d
      if x.down then hh else
      let m := BitVec.ofNat 48 (dieEnabled x)
      { hh with dies := mput {} hh.dies d { x with retired := x.retired ||| m, moved := m, down := true } }
    | .tile v =>
      let x := dieOf hh (v / 48)
      { hh with dies := mput {} hh.dies (v / 48) { x with retired := x.retired ||| BitVec.ofNat 48 (2 ^ (v % 48)) } }
    | .slice i => if hh.slicesOut.contains i then hh else { hh with slicesOut := hh.slicesOut ++ [i] }
    | .subch i => if hh.subsOut.contains i then hh else { hh with subsOut := hh.subsOut ++ [i] }
    | .port t => if hh.portsOut.contains t then hh else
        { hh with portsOut := hh.portsOut ++ [t], ports := mupd {} hh.ports t (fun p => { p with st := .retired }) }
    | .lane t k => if hh.lanesOut.contains (4 * t + k) then hh else { hh with lanesOut := hh.lanesOut ++ [4 * t + k] }
    | .hearth => hh) hh

/-- The retirement map's entries of a hearth: single tiles before whole dies, so that a die records only what it moves. -/
def retiredOf (s : State) (h : Nat) : List UnitSel :=
  let l := (s.flash.retired.filter (fun x => x.1 == h)).map (·.2)
  let isDie (u : UnitSel) : Bool := match u with | .die _ => true | _ => false
  l.filter (fun u => !isDie u) ++ l.filter isDie

/-- A lower-numbered hearth still waits for its rails. -/
def lowerWaits (s : State) (h : Nat) : Bool := (List.range h).any (fun k => (hearthOf s k).st == .absent)

/-- HEARTH_POWER_ON: rails on in ascending order; ABSENT to BOOTING (R465, R466). -/
def execHearthPowerOn (h : Nat) (s : State) : Host.Outcome State Fault Refusal :=
  nextOf (if (s.mod = .service ∨ s.mod = .operational) ∧ s.ringsOn ∧ (hearthOf s h).st = .absent ∧ !lowerWaits s h then
    updH s h (fun hh => { hh with st := .booting, fromPower := true, rail := true, clkStep := 64, timeBase := s.time.ns })
    else s)

/-- JD_SCRUB_CFG from the ROM defaults and the census (Table 13-13). -/
def scrubDefault (hh : Hearth) : W64 :=
  BitVec.ofNat 64 (3 * 2 ^ 62 + 12 * 2 ^ 56 + 60 * 2 ^ 50 + (48 - hh.subsOut.length) * 2 ^ 44 + sliceCount hh * 2 ^ 34)

/-- TOKEN_SHARE: what each reporting hearth may hold (R475). -/
def shareRound (demand : Nat → Nat) (hs : List Nat) : Nat → SMap Nat → Nat → SMap Nat
  | 0, held, _ => held
  | fuel + 1, held, rest =>
    let want := hs.filter (fun h => mget 0 held h < demand h)
    let per := if want.length = 0 then 0 else rest / want.length
    if per = 0 then held
    else
      let give (h : Nat) : Nat := min per (demand h - mget 0 held h)
      let held' := want.foldl (fun m h => mupd 0 m h (· + give h)) held
      shareRound demand hs fuel held' (rest - want.foldl (fun a h => a + give h) 0)

/-- The module budget in tokens: ⌊0.92 × cap in force⌋ − 45 (R474). -/
def tokenBudget (s : State) : Nat := 92 * min s.regs.capW s.fuses.fusedW / 100 - 45

/-- Hearths that report DEMAND: BOOTING to FAULTED. -/
def reporting (st : HState) : Bool := st != .absent && st != .retired

/-- TOKEN_SHARE (R475, R477): hearths return what they hold above their last grant; the budget follows the cap, a rise at
once and a fall only as tokens arrive in the pool; new grants come from the pool. -/
def execTokenShare (demand : List Nat) (s : State) : Host.Outcome State Fault Refusal :=
  nextOf (
    if s.power.controllerFailed ∨ s.mod = .boot then s else
    let hs := allHearths.filter (fun h => reporting (hearthOf s h).st)
    let dem (h : Nat) : Nat := max 140 (demand.getD h 140)
    -- reports: tokens above the last grant return to the pool
    let back := allHearths.foldl (fun a h =>
      let hh := hearthOf s h
      a + (hh.tokens - if reporting hh.st then hh.grant else 0)) 0
    let s := onHearths s allHearths (fun e hh =>
      { hh with
        tokens := min hh.tokens (if reporting hh.st then hh.grant else 0)
        demand := if reporting hh.st then dem e.h else 0 })
    let pool := s.power.pool + back
    let target := tokenBudget s
    let (pool, budget) := if s.power.budget ≤ target then (pool + (target - s.power.budget), target)
      else
        let d := min pool (s.power.budget - target)
        (pool - d, s.power.budget - d)
    let floor := hs.map (fun h => (h, 140))
    let share := shareRound dem hs 64 floor (target - 140 * hs.length)
    -- grants below what is held are sent; above it they come from the pool
    let (s, pool) := hs.foldl (fun (a : State × Nat) h =>
      let hh := hearthOf a.1 h
      let g := mget 0 share h
      if g ≤ hh.tokens then (updH a.1 h (fun hh => { hh with grant := g }), a.2)
      else
        let d := min (g - hh.tokens) a.2
        (updH a.1 h (fun hh => { hh with tokens := hh.tokens + d, grant := hh.tokens + d }), a.2 - d)) (s, pool)
    { s with power := { s.power with pool := pool, budget := budget } })

/-- CLOCK_STEP_CHANGE: the hearth runs at the smaller of its token step and its thermal step limit (R473, R479), and at step
16 while a cap written after the power controller failed lies below the sum of the grants (Table 1-12). -/
def execClockStepChange (h step : Nat) (s : State) : Host.Outcome State Fault Refusal :=
  nextOf (if 16 ≤ step ∧ step ≤ 64 ∧ (hearthOf s h).rail then
    onHearth s h (fun e hh => setClock e (min (heldStep s step) hh.thermStep) { hh with tokenStep := heldStep s step }) else s)

/-- POWER_OVERSHOOT: DRAW_W above the cap in force by more than 5 % puts every hearth to step 16 (R477). -/
def execPowerOvershoot (watts : Nat) (s : State) : Host.Outcome State Fault Refusal :=
  let cap := min s.regs.capW s.fuses.fusedW
  nextOf (if watts * 100 > cap * 105 ∧ !s.power.controllerFailed then
    let s := { s with regs := { s.regs with drawW := sat 16 watts } }
    allTo16 s else s)

/-- THERMAL_CHECK: the thermal step limit falls by one while the hottest point is at or above 95 °C, and rises by one
while it is below 93 °C (R478; one event per period of the rule, log 3). -/
def execThermalCheck (h : Nat) (eighths : Int) (s : State) : Host.Outcome State Fault Refusal :=
  nextOf (if (hearthOf s h).rail then
    onHearth s h (fun e hh =>
      let lim := if 760 ≤ eighths then max 16 (hh.thermStep - 1)
        else if eighths < 744 then min 64 (hh.thermStep + 1) else hh.thermStep
      setClock e (min hh.tokenStep lim)
        { hh with thermStep := lim, hottest := eighths, cooled := decide (eighths < 760) })
    else updH s h (fun hh => { hh with hottest := eighths, cooled := decide (eighths < 760) }))

/-- MANTEL_OVERTEMP: every rail goes off and stays off until the input has been removed and applied again (R479). -/
def execMantelOvertemp (s : State) : Host.Outcome State Fault Refusal :=
  let s := coldReset s
  nextOf { s with power := { s.power with mantelOn := false, latchedOff := true } }

/-- POWER_CONTROLLER_FAILURE: grants freeze; module sensors 3 to 5 read STATE 4; recorded in every hearth's log
(Table 1-12, R437). -/
def execPowerControllerFailure (s : State) : Host.Outcome State Fault Refusal :=
  nextOf (if s.power.controllerFailed ∨ !s.power.mantelOn then s else
    let s := { s with
      power := { s.power with controllerFailed := true }
      sensors := [3, 4, 5].foldl (fun m i => mupd {} m i (fun x => { x with state := 4 })) s.sensors }
    mantelFail s 0)

/-! ### Sensors (R480, R481) -/

/-- The thresholds of a sensor by its record index (Table 15-7); temperatures in 1/8 °C. -/
def sensorLimits (idx : Nat) : Limits :=
  if idx < 16 then match idx with
    | 0 => .band 44000 56000 42000 58000
    | 2 => .overCap
    | 6 => .above 760 840 920
    | 7 => .tolerance 5
    | 8 => .above 304 320 360
    | 9 => .above 440 480 520
    | _ => .none
  else
    let i := (idx - 16) % 96
    if i < 64 ∨ i = 86 then .above 760 840 920
    else if i < 68 then .tolerance 5
    else if i = 76 then .overTokens 3
    else if i = 77 then .belowStep 64
    else if 80 ≤ i ∧ i ≤ 85 then .above 680 760 840
    else .none

/-- STATE of a sensor from its value (Tables 15-6, 15-7, R464). The setpoints of the rails are the regulators' own, so whether a
rail is within its tolerance comes with the reading (log 145). -/
def sensorLevel (s : State) (idx : Nat) (v : Int) (given : Nat) : Nat :=
  let hh := hearthOf s ((idx - 16) / 96)
  match sensorLimits idx with
  | .none => 0
  | .above w c f => if f ≤ v then 3 else if c ≤ v then 2 else if w ≤ v then 1 else 0
  | .band lo hi fl fh => if v < fl ∨ fh < v then 3 else if v < lo ∨ hi < v then 5 else 0
  | .tolerance _ => min given 1
  | .overCap => b2n (decide (1000 * (min s.regs.capW s.fuses.fusedW : Nat) < v))
  | .overTokens p => b2n (decide ((1000 * (hh.tokens * (100 + p)) : Nat) < 100 * v))
  | .belowStep n => b2n (decide (hh.clkStep < n) && decide (hh.thermStep < n) && decide (hh.thermStep ≤ hh.tokenStep))

/-- A count or figure of the module's own that a sensor shows (Table 15-7): the cap in force, the module budget, the pool;
CLK_STEP, tokens held and DEMAND of a hearth. -/
def ownFigure (s : State) (idx : Nat) : Option Int :=
  let hh := hearthOf s ((idx - 16) / 96)
  if idx = 3 then some (1000 * (min s.regs.capW s.fuses.fusedW : Nat))
  else if idx = 4 then some (tokenBudget s : Nat)
  else if idx = 5 then some (s.power.pool : Nat)
  else if idx < 16 then none
  else if (idx - 16) % 96 = 77 then some (hh.clkStep : Nat)
  else if (idx - 16) % 96 = 78 then some (hh.tokens : Nat)
  else if (idx - 16) % 96 = 79 then some (hh.demand : Nat)
  else none

/-- The sensors of the module's own figures. -/
def ownSensors : List Nat := [3, 4, 5] ++ allHearths.flatMap (fun h => [16 + 96 * h + 77, 16 + 96 * h + 78, 16 + 96 * h + 79])

/-- Take one reading: value, state, and the lowest and highest since boot. A reading that its sensor could not make is
unavailable (STATE 4). -/
def takeReading (s : State) (idx : Nat) (v : Int) (given : Nat) (x : Sensor) : Sensor :=
  if given = 4 then { x with state := 4 } else
  { state := sensorLevel s idx v given, value := v, seen := true
    low := if x.seen then min x.low v else v
    high := if x.seen then max x.high v else v }

/-- Sensors that Table 15-7 defines. -/
def sensorDefined (i : Nat) : Bool := i < 10 || (16 ≤ i && i < 880 && (i - 16) % 96 ≤ 86)

/-- A hearth whose rails are off reports STATE 4 for its sensors (R481). -/
def sensorOff (s : State) (i : Nat) : Bool := 16 ≤ i && !(hearthOf s ((i - 16) / 96)).rail

/-- The hottest junction point of a hearth from its sensors 0 to 63: value and index. -/
def hottestOf (m : SMap Sensor) (h : Nat) : Int × Nat :=
  (List.range 64).foldl (fun (a : Int × Nat) i =>
    let v := (mget {} m (16 + 96 * h + i)).value
    if a.1 < v then (v, i) else a) ((mget {} m (16 + 96 * h)).value, 0)

/-- A sensor that reports STATE 4: one of a hearth whose rails are off (R481), or one of the power controller's figures after
its failure (Table 1-12). -/
def sensorSilent (s : State) (idx : Nat) : Bool :=
  sensorOff s idx || (s.power.controllerFailed && decide (3 ≤ idx) && decide (idx ≤ 5))

/-- A value enters a sensor's record. -/
def putReading (s : State) (m : SMap Sensor) (idx : Nat) (v : Int) (given : Nat) : SMap Sensor :=
  if !sensorDefined idx then m
  else mupd {} m idx (takeReading s idx v (if sensorSilent s idx then 4 else given))

/-- Sensor 86 of a hearth: the hottest point, with its index in LOW. -/
def putHottest (s : State) (m : SMap Sensor) (h : Nat) : SMap Sensor :=
  let (v, i) := hottestOf m h
  mupd {} m (16 + 96 * h + 86) (fun x =>
    { takeReading s (16 + 96 * h + 86) v 0 x with low := i })

/-- The records of the sensors after readings: each reading enters its record, then the module's own figures; sensor 86 of a
hearth that gave a temperature takes the hottest point and its index (R480, R481). -/
def sensorsAfter (s : State) (readings : List Reading) : SMap Sensor :=
  let upd := readings.foldl (fun m r =>
    if (ownFigure s r.idx).isSome then m else putReading s m r.idx r.value r.state) s.sensors
  let upd := ownSensors.foldl (fun m i => match ownFigure s i with | some v => putReading s m i v 0 | none => m) upd
  let hs := allHearths.filter (fun h => (hearthOf s h).rail &&
    readings.any (fun r => 16 + 96 * h ≤ r.idx && r.idx < 16 + 96 * h + 64))
  hs.foldl (putHottest s) upd

/-- SENSOR_UPDATE: the readings enter their records, and DRAW_W follows the module's input power (R480). -/
def execSensorUpdate (readings : List Reading) (s : State) : Host.Outcome State Fault Refusal :=
  nextOf (if !s.power.mantelOn ∨ s.power.perst then s else
    let draw := match readings.find? (fun r => r.idx == 2) with
      | some r => (r.value / 1000).toNat | none => s.regs.drawW
    { s with sensors := sensorsAfter s readings, sensorTime := s.time.ns, regs := { s.regs with drawW := sat 16 draw } })

end Sys2Proof.Machine
end

