-- ==== Sys2Proof/Machine/Units.lean ====
section
/-! DEFINITION. Units that fail, retire, return and reset: RETIRE_UNIT, RESTORE_UNIT (R429 to R431), resets (R402, R469),
hearth boot (R391, R446), fatal events, the scrub configuration (R433, R434) and failures of mantel units (Table 1-12). -/

namespace Sys2Proof.Machine

/-! ### Retirement and restoration -/

/-- The unit that a unit reference names (R401). -/
def unitRefOf (p : Pkt) : UnitSel :=
  let i := fld p 0x14 2
  match fld p 0x10 1 with
  | 0 => .hearth
  | 1 => .die (fld p 0x11 1)
  | 2 => .tile (48 * fld p 0x11 1 + 8 * fld p 0x12 1 + fld p 0x13 1)
  | 3 => .slice i
  | 4 => .subch i
  | 5 => .port i
  | _ => .lane i (fld p 0x16 1)

/-- Field checks of a unit reference: fields that the KIND does not use are zero (R401). -/
def unitFields (k : Nat) : List (Nat × Nat × Nat) :=
  let all := 6 < k
  let m (b : Bool) (n : Nat) : Nat := if b || all then full n else 0
  [(0x10, 1, full 1), (0x11, 1, m (k == 1 || k == 2) 1), (0x12, 1, m (k == 2) 1), (0x13, 1, m (k == 2) 1),
    (0x14, 2, m (3 ≤ k) 2), (0x16, 1, m (k == 6) 1), (0x17, 1, 0)]

/-- Ranges of a unit reference (R401). -/
def unitRanges (p : Pkt) : List (Nat × Bool) :=
  let k := fld p 0x10 1
  let i := fld p 0x14 2
  [(0x10, decide (k ≤ 6)), (0x11, decide (fld p 0x11 1 ≤ 9)), (0x12, decide (fld p 0x12 1 ≤ 5)),
    (0x13, decide (fld p 0x13 1 ≤ 7)),
    (0x14, decide (i < (if k = 3 then 512 else if k = 4 then 48 else if k = 5 ∨ k = 6 then 14 else 65536))),
    (0x16, decide (fld p 0x16 1 ≤ 3))]

/-- An absent virtual position, or a lane of an on-package link, is no target (R401). -/
def unitExists (hh : Hearth) (u : UnitSel) : Bool :=
  match u with
  | .tile v => tilePresent hh v
  | .die d => !dieFused (dieOf hh d)
  | .lane t _ => t < 6
  | _ => true

/-- The checks that RETIRE_UNIT and RESTORE_UNIT share. -/
def unitSpec (code : Nat) (p : Pkt) : CmdSpec :=
  { code := code, need := .one, fields := unitFields (fld p 0x10 1), ranges := unitRanges p, named := named p
    anyState := false }

/-- What the checks of Table 12-5 look at in RETIRE_UNIT. -/
def retireUnitSpec (p : Pkt) (s : State) : CmdSpec :=
  let h := named1 p
  let u := unitRefOf p
  { unitSpec 0x0082 p with hst := alive, targets := [(0x10, unitExists (hearthOf s h) u)] }

/-- RETIRE_UNIT retires the unit as a permanent fault would (R429). -/
def execRetireUnit (p : Pkt) (s : State) : Host.Outcome State Fault Refusal :=
  let h := named1 p
  let u := unitRefOf p
  done (submit s p (retireUnitSpec p s)
    (fun id s =>
      if isOut (hearthOf s h) u then finish s id .done 1 0 0
      else updH (setWait s id (.retire h u)) h (fun hh => permanent hh (selKey u) 1 0 0 (some id))))

/-- The unit that contains a unit is retired (R430). -/
def containerOut (hh : Hearth) (u : UnitSel) : Bool :=
  match u with
  | .tile v => (dieOf hh (v / 48)).down
  | .lane t _ => hh.portsOut.contains t
  | _ => false

/-- A unit is retired, wholly: a sub-channel that is still leaving is not yet. -/
def wholeOut (hh : Hearth) (u : UnitSel) : Bool :=
  match u with
  | .tile v => nbit (dieRetired (dieOf hh (v / 48))) (v % 48)
  | _ => isOut hh u

/-- The state checks of RESTORE_UNIT: no step RUNNING for memory units (R430), and no reshape for a sub-channel (R247). -/
def restoreState (hh : Hearth) (h : Nat) (u : UnitSel) : Option Nat :=
  if isMemory u ∧ (runStep hh).isSome then some (stateDetail 1 h 4)
  else match u with
    | .subch _ => if hh.reshape.isSome then some (stateDetail 3 h 2) else none
    | _ => none

/-- What the checks of Table 12-5 look at in RESTORE_UNIT. -/
def restoreUnitSpec (p : Pkt) (s : State) : CmdSpec :=
  let h := named1 p
  let u := unitRefOf p
  let hh := hearthOf s h
  { unitSpec 0x0083 p with
    hst := if fld p 0x10 1 = 0 then [.retired] else rdyFlt
    targets := [(0x10, fld p 0x10 1 == 0 || (unitExists hh u && wholeOut hh u && !containerOut hh u))]
    own9 := (restoreState hh h u).map (fun d => (.rejectedState, d)) }

/-- RESTORE_UNIT: the test of a unit begins (R430); a hearth boots (R17). -/
def execRestoreUnit (p : Pkt) (s : State) : Host.Outcome State Fault Refusal :=
  let h := named1 p
  let u := unitRefOf p
  done (submit s p (restoreUnitSpec p s)
    (fun id s =>
      updH (setWait s id (.restore h u)) h (fun hh =>
        if u = .hearth then { hh with
          st := .booting, rail := true, clkStep := 64, retiredWhole := false, everReady := false, timeBase := s.time.ns
          restoring := hh.restoring ++ [(u, id)] }
        else { hh with restoring := hh.restoring ++ [(u, id)] })))

/-- The code that a failed restore test answers (Table 13-12). -/
def testCode (u : UnitSel) : Nat :=
  match u with
  | .tile _ => 1
  | .die _ => 2
  | .slice _ => 3
  | .subch _ => 4
  | .port _ => 5
  | .lane _ _ => 5
  | .hearth => 6

/-- A unit that passed its test is in service again. -/
def putBack (e : Env) (gen : Nat) (hh : Hearth) (u : UnitSel) : Hearth :=
  let wake (hh : Hearth) (v : Nat) : Hearth :=
    updTile hh v (fun t => { t with state := if nbit t.valid.toNat t.active then .configured else .idle })
  match u with
  | .hearth => hh
  | .die d =>
    let x := dieOf hh d
    let hh := { hh with
      dies := mput {} hh.dies d { x with retired := x.retired &&& ~~~x.moved, moved := 0, down := false } }
    (setBits 48 x.moved.toNat).foldl (fun hh b => wake hh (48 * d + b)) hh
  | .tile v =>
    let x := dieOf hh (v / 48)
    wake { hh with dies := mput {} hh.dies (v / 48) { x with retired := x.retired &&& ~~~BitVec.ofNat 48 (2 ^ (v % 48)) } } v
  | .slice i =>
    let hh := endFrozen e hh
    slicesUndef { hh with slicesOut := hh.slicesOut.filter (· != i) } gen
  | .subch i => startReshape e hh i false
  | .port t =>
    let lanes := if t < 6 then
        BitVec.ofNat 4 (maskOf ((List.range 4).filter (fun l => !hh.lanesOut.contains (4 * t + l)))) else 0
    putPort { hh with portsOut := hh.portsOut.filter (· != t) } t
      { fport hh t with st := .up, lanes := lanes, lanesFar := lanes }
  | .lane t l =>
    let hh := { hh with lanesOut := hh.lanesOut.filter (· != 4 * t + l) }
    putPort hh t { fport hh t with lanes := (fport hh t).lanes ||| BitVec.ofNat 4 (2 ^ l) }

/-- A restoration: the map entry goes, the unit returns with an empty bucket, a RESTORE record is written (R430). A die
that returns with no enabled tile retires again (R25). -/
def restored (s : State) (h : Nat) (u : UnitSel) : State :=
  let s := if s.flash.writable then
      { s with flash := { s.flash with retired := s.flash.retired.filter (· != (h, u)) } } else s
  onHearth { s with fresh := s.fresh + 1 } h (fun e hh =>
    let hh := emptyBucket (putBack e s.fresh hh u) (selKey u)
    let hh := logRec e hh { cls := 0x0031, path := BitVec.ofNat 64 (keyPath (selKey u)) }
    match u with
    | .die d => if dieEnabled (dieOf hh d) = 0 then permanent hh (bucketKey 1 d) 2 0 0 else hh
    | _ => hh)

/-- A unit of memory that passed its test waits: a step is RUNNING (R239, R247), or a reshape of the hearth runs or is to run
first. -/
def returnWaits (hh : Hearth) (u : UnitSel) : Bool :=
  isMemory u && ((runStep hh).isSome ||
    (isSubch u && (hh.reshape.isSome || hh.deferred.any (fun d => d.sels.any isSubch))))

/-- The oldest unit that waits to return does so, once nothing holds it back. -/
def returnUnit (s : State) (h : Nat) : State :=
  let hh := hearthOf s h
  match hh.returning.find? (fun x => !returnWaits hh x.1) with
  | none => s
  | some (u, id) =>
    let s := updH s h (fun hh => { hh with returning := hh.returning.filter (fun x => x.2 != id) })
    if present hh.st ∧ wholeOut hh u ∧ !containerOut hh u then finish (restored s h u) id .done 0 0 0
    else finish s id .abortedFault (testCode u) 0 0

/-- Every unit that may return does so, in order. -/
def returnUnits (s : State) (h : Nat) : State := (hearthOf s h).returning.foldl (fun s _ => returnUnit s h) s

/-- RESTORE_TEST_COMPLETE: the oldest test of the hearth ends. A unit of memory returns once no step is RUNNING and no reshape is
before it (R239, R247). -/
def execRestoreTestComplete (h : Nat) (pass : Bool) (s : State) : Host.Outcome State Fault Refusal :=
  let hh := hearthOf s h
  done (match hh.restoring with
    | [] => s
    | (u, id) :: rest =>
      if u = .hearth then s else
      let s := updH s h (fun hh => { hh with restoring := rest })
      if pass ∧ readyFaulted hh.st ∧ wholeOut hh u ∧ !containerOut hh u then
        returnUnits (updH s h (fun hh => { hh with returning := hh.returning ++ [(u, id)] })) h
      else finish s id .abortedFault (testCode u) 0 0)

/-- What waited for the running step or a reshape to end goes on: retirements first, then units that return. -/
def memoryGoesOn (s : State) (h : Nat) : State :=
  let s := updH s h (fun hh => { hh with deferred := hh.deferred.map (fun d => { d with fresh := true }) })
  returnUnits (retireAll s h 32) h

/-- DEFERRED_RETIREMENT: retirements that waited for the running step take effect, and units that waited to return (R239,
R247). -/
def execDeferredRetirement (h : Nat) (s : State) : Host.Outcome State Fault Refusal :=
  done (if (runStep (hearthOf s h)).isSome then s else memoryGoesOn s h)

/-- RESHAPE_UNIT_MOVE: the next unit is read under the old map and written under the new one (R248, R431). -/
def execReshapeUnitMove (h : Nat) (s : State) : Host.Outcome State Fault Refusal :=
  hearthEvent s h (fun e hh =>
    match hh.reshape with
    | none => hh
    | some r =>
      if r.leaving then
        if r.next < 4096 then hh else { moveUnit e hh r.next with reshape := some { r with next := r.next - 1 } }
      else if r.next < (subsIn hh).length * 2 ^ 24 then
        { moveUnit e hh r.next with reshape := some { r with next := r.next + 1 } }
      else hh)

/-- RESHAPE_COMPLETE: the units not yet moved are moved, and TOP changes (R248, R431; log 30). A retirement that queued
behind the reshape follows (R247). -/
def execReshapeComplete (h : Nat) (s : State) : Host.Outcome State Fault Refusal :=
  done (match (hearthOf s h).reshape with
    | none => s
    | some r => memoryGoesOn (onHearth { s with fresh := s.fresh + 1 } h (fun e hh => endReshape e s.fresh hh r)) h)

/-- BUCKET_LEAK: the oldest event of a unit's bucket leaks out (R423). -/
def execBucketLeak (h unit : Nat) (s : State) : Host.Outcome State Fault Refusal :=
  nextOf (if unit / 1024 = 10 then { s with pairBucket := s.pairBucket.drop 1 }
    else updH s h (fun hh => { hh with buckets := mput [] hh.buckets unit ((mget [] hh.buckets unit).drop 1) }))

/-! ### Fatal events and the hearth's own records -/

/-- Place of a fatal event in R432's list, from 1. -/
def fatalNo : FatalEvent → Nat
  | .mgmtPair => 1 | .syncEngine => 2 | .stateWord => 3 | .railFault => 4 | .closNetwork => 5 | .mantelPort => 6
  | .commandLink => 7

/-- A fatal event that cuts the hearth off from the mantel: the command link, or the mantel port tile at its end (R12). -/
def cutsLink : FatalEvent → Bool
  | .mantelPort => true
  | .commandLink => true
  | _ => false

/-- A fatal event in one hearth (R392, R432); a lost link stays lost until the hearth is reset. -/
def fatalEvent (e : Env) (ev : FatalEvent) (permanent : Bool) (hh : Hearth) : Hearth :=
  let hh := if present hh.st ∧ cutsLink ev then { hh with linkLost := true } else hh
  fatal e hh (fatalNo ev) permanent

/-- HEARTH_FATAL (R392, R432). The loss of a command link is a failure of a mantel unit, so every other hearth's log has a
record of it too (Table 1-12). -/
def execHearthFatal (h : Nat) (ev : FatalEvent) (permanent : Bool) (s : State) : Host.Outcome State Fault Refusal :=
  let s' := onHearth s h (fun e hh => fatalEvent e ev permanent hh)
  done (if ev = .commandLink ∧ present (hearthOf s h).st then
    mantelFailAt s' (allHearths.filter (fun k => k != h && present (hearthOf s k).st)) (4 + h) else s')

/-- THERMAL_SHUTDOWN: the rail set goes off as a rail fault; LPDDR6 and slices lose their contents (R479; log 31). -/
def execThermalShutdown (h : Nat) (s : State) : Host.Outcome State Fault Refusal :=
  done (if (hearthOf s h).rail ∧ (readyFrozen (hearthOf s h).st ∨ (hearthOf s h).st = .booting) then
    onHearth { s with fresh := s.fresh + 1 } h (fun e hh =>
      let hh := fatal e hh 4 false
      { hUndef hh 0 0xF008000000 s.fresh with rail := false, cooled := false, everReady := false })
    else s)

/-- The vote of the three copies (R433): the value that two agree on, and the copy that differs. -/
def scrubVote (a b c : W64) : Option (W64 × Option Nat) :=
  if a = b then some (a, if c = a then none else some 2)
  else if a = c then some (a, some 1)
  else if b = c then some (b, some 0) else none

/-- SCRUB_CFG_VOTE (R433, R434). -/
def execScrubCfgVote (h : Nat) (votesAgree : Bool) (s : State) : Host.Outcome State Fault Refusal :=
  hearthEvent s h (fun e hh =>
    if !readyFrozen hh.st then hh else
    match (if votesAgree then scrubVote hh.scrubA hh.scrubB hh.scrubC else none) with
    | some (_, none) => hh
    | some (v, some i) =>
      logOf e { hh with scrubA := v, scrubB := v, scrubC := v } 0x0040 (pathOf 9 0 0 0 0 0) 0 (detailOf [(0, 1, i)])
    | none =>
      let c := scrubDefault hh
      let d := detailOf [(0, 8, hh.scrubA.toNat), (8, 8, hh.scrubB.toNat), (16, 8, hh.scrubC.toNat)]
      (eventRec e { hh with scrubA := c, scrubB := c, scrubC := c, scrubPos := [] } (bucketKey 0 0)
        { cls := 0x0041, path := BitVec.ofNat 64 (pathOf 9 0 0 0 0 0), detail := d }).1)

/-- Unit path of a status register's unit (Table 2-28): slice group, memory port, flue port. -/
def statusPath (key : Nat) : Nat :=
  let k := key / 1024
  pathOf (if k = 2 then 7 else if k = 3 then 8 else 5) 0 0 0 (key % 1024) 0

/-- CE_SUMMARY: one record for each unit whose CE_COUNT rose in the hour (R437). -/
def execCeSummary (h : Nat) (s : State) : Host.Outcome State Fault Refusal :=
  hearthEvent s h (fun e hh =>
    if !present hh.st then hh else
    let up := hh.cnt.filter (fun x => 0 < x.2.ceHour)
    let hh := up.foldl (fun hh x => logOf e hh 0x0001 (statusPath x.1) 0 (detailOf [(0, 8, x.2.ceHour)])) hh
    { hh with cnt := mmap {} (fun _ c => { c with ceHour := 0 }) hh.cnt })

/-- CHIMNEY_FAULT: a permanent fault of the tile, without an event (R19, R425). -/
def execChimneyFault (h v : Nat) (s : State) : Host.Outcome State Fault Refusal :=
  hearthEvent s h (fun _ hh =>
    if present hh.st ∧ tileEnabled hh v then
      permanent (updTile hh v (fun t => { t with fault := t.fault ||| 0x200 })) (bucketKey 2 v) 0 0 0
    else hh)

/-! ### Duplicated control (R414) -/

/-- The number of a unit of Table 13-5, as DETAIL of SEQ records (log 28), its unit path, and its bucket. -/
def ctrlInfo : CtrlUnit → Nat × Nat × Nat
  | .tile v => (0, tilePath v, bucketKey 2 v)
  | .tileRoute v => (1, tilePath v, bucketKey 2 v)
  | .threadRoute u => (1, pathOf 11 0 0 0 u 0, bucketKey 7 (u / 32))
  | .portRoute t => (1, pathOf 5 0 0 0 t 0, bucketKey 5 t)
  | .tileSync v => (2, tilePath v, bucketKey 2 v)
  | .hearthSync => (3, pathOf 12 0 0 0 0 0, bucketKey 0 0)
  | .mgmtPair => (4, pathOf 9 0 0 0 0 0, bucketKey 0 0)
  | .cmdPair => (5, pathOf 10 0 0 0 0 0, bucketKey 10 0)

/-- The tile of a unit of Table 13-5. -/
def ctrlTile : CtrlUnit → Option Nat
  | .tile v => some v
  | .tileRoute v => some v
  | .tileSync v => some v
  | _ => none

/-- A mismatch in a hearth: a permanent fault during a retry, or a second one at a unit during its own arbitration (R421);
one event otherwise. -/
def ctrlHearth (e : Env) (hh : Hearth) (u : CtrlUnit) (inRetry : Bool) : Hearth :=
  if !(readyFrozen hh.st || hh.st == .booting) then hh else
  let (n, path, key) := ctrlInfo u
  let mine := match hh.arb, ctrlTile u with
    | some a, some v => a.flag.producer == tileRef v
    | _, _ => false
  let second := mine && (match hh.arb with | some a => a.mismatch | none => false)
  let hh := match ctrlTile u with
    | some v => updTile hh v (fun t => { t with fault := t.fault ||| 0x100 })
    | none => hh
  let hh := if mine then { hh with arb := hh.arb.map (fun a => { a with mismatch := true }) } else hh
  let r : AshRec := { cls := 0x0010, path := BitVec.ofNat 64 path, detail := detailOf [(0, 1, n)] }
  let ev := match u with | .hearthSync => 2 | .mgmtPair => 1 | _ => 0
  if inRetry || second then
    let seq := hh.ashNext
    let hh := logRec e hh { r with cls := 0x0011 }
    if ev ≠ 0 then fatal e hh ev true
    else
      let hh := match u with | .tile _ => endRun e hh .abortedFault | _ => hh
      permanent hh key 0 0x0011 seq
  else if ev ≠ 0 then
    let (hh', perm) := eventRec e hh key r
    if perm then fatal e { hh' with deferred := hh.deferred } ev true else hh'
  else (eventRec e hh key r).1

/-- Command processing moves to the standby pair, or ends when there is none (R35, R415). -/
def failPair (s : State) : State :=
  let pair := if s.standbyOk then 0 else 1
  let s := logAll { s with pairBucket := [] } 0x0064 (pathOf 10 0 0 0 pair 0) 0 (detailOf [(0, 1, pair)])
  if s.standbyOk then { s with standbyOk := false, regs := { s.regs with failover := true } }
  else { s with pairsFailed := true }

/-- CONTROL_MISMATCH (R414). -/
def execControlMismatch (h : Nat) (u : CtrlUnit) (inRetry : Bool) (s : State) : Host.Outcome State Fault Refusal :=
  done (match u with
    | .cmdPair =>
      if s.pairsFailed ∨ !s.power.booted then s else
      let b := s.pairBucket ++ [s.time.ns]
      let perm := decide (3 ≤ b.length)
      let s := { s with pairBucket := b }
      let r : AshRec :=
        { cls := if inRetry then 0x0011 else 0x0010, path := BitVec.ofNat 64 (pathOf 10 0 0 0 (if s.standbyOk then 0 else 1) 0)
          detail := detailOf [(0, 1, 5)], level := if inRetry then 0 else b.length, window := if inRetry then 0 else 10080 }
      let s := onHearths s (allHearths.filter (fun h => present (hearthOf s h).st)) (fun e hh => logRec e hh r)
      if inRetry ∨ perm then failPair s else s
    | _ => onHearth s h (fun e hh => ctrlHearth e hh u inRetry))

/-! ### Failures of mantel units (Table 1-12) -/

/-- DETAIL of HOST_PORT_FAIL: link up, width, speed (log 28). -/
def linkDetail (r : Regs) : BitVec 2048 := detailOf [(0, 1, b2n r.linkUp), (1, 1, r.linkWidth), (2, 1, r.linkSpeed)]

/-- HOST_PORT_FAIL: host access ends; every hearth records it; hearths keep running (R36). -/
def execHostPortFail (s : State) : Host.Outcome State Fault Refusal :=
  done (if s.hostPortFailed then s else
    logAll { s with hostPortFailed := true } 0x0063 (pathOf 13 0 0 0 0 0) 0 (linkDetail s.regs))

/-- FAILOVER: the active command-processor pair fails; the standby pair completes every started command from the mirrored
state (R35, R406). -/
def execFailover (s : State) : Host.Outcome State Fault Refusal :=
  done (if s.standbyOk ∧ !s.pairsFailed then failPair s else s)

/-- COMMAND_PROCESSORS_FAIL: no ring and no command cell is read; hearths keep running (R415). -/
def execCommandProcessorsFail (s : State) : Host.Outcome State Fault Refusal :=
  done (if s.pairsFailed then s else
    logAll { s with pairsFailed := true, standbyOk := false } 0x0064 (pathOf 10 0 0 0 1 0) 0 (detailOf [(0, 1, 1)]))

/-- VERIFICATION_ENGINE_FAILURE: FW_STAGE fails with detail 2 from now on. -/
def execVerificationEngineFailure (s : State) : Host.Outcome State Fault Refusal :=
  done (if s.trust.verifyFailed then s else mantelFail { s with trust := { s.trust with verifyFailed := true } } 2)

/-! ### The alarm (R461 to R463) -/

/-- The bit of an alarm source in SOURCES (Table 14-10). -/
def alarmBit : AlarmSource → Nat
  | .voltage => 0 | .clock => 1 | .temperature => 2 | .signature => 3 | .debug => 4

/-- KILL, then every bit of PUF_HELPER (R460). -/
def blowKill (f : Fuses) : Fuses := { f with kill := true, helperLeft := 0 }

/-- The alarm (R462); with POLICY_SET at 0 it never blows KILL (R463). A source that comes while the alarm is in force only sets its bit. -/
def raiseAlarm (s : State) (src : AlarmSource) : State :=
  let sources := s.trust.sources ||| BitVec.ofNat 5 (2 ^ alarmBit src)
  let first := s.mod != .alarm
  let s := { s with
    mod := .alarm
    trust := { s.trust with sources := sources, debug := [], engineOn := false, challenge := none } }
  let s := if s.fuses.policyKill ∧ s.fuses.policySet then { s with fuses := blowKill s.fuses } else s
  let s := if first then
      onHearths s (allHearths.filter (fun h => present (hearthOf s h).st)) (fun e hh =>
        logRec e (stopHearth e hh)
          { cls := 0x0080, path := BitVec.ofNat 64 (pathOf 0 0 0 0 0 0), detail := detailOf [(0, 1, 0x80), (1, 1, sources.toNat)] })
    else s
  if src = .signature ∧ s.flash.writable then { s with flash := { s.flash with sigFails := 0 } } else s

/-- ALARM: a source raises the alarm (R461). -/
def execAlarm (source : AlarmSource) (s : State) : Host.Outcome State Fault Refusal :=
  done (if s.power.mantelOn ∧ !s.power.perst then raiseAlarm s source else s)

/-! ### Resets and boot -/

/-- Tiles after a hearth reset: contexts dropped, counters since power-up kept, retired tiles retired. -/
def resetTile (t : Tile) : Tile :=
  { ({} : Tile) with
    fireCount := t.fireCount, busyCycles := t.busyCycles, state := if t.state = .retired then .retired else .idle }

/-- What a hearth reset leaves: LPDDR6 contents, the maps of its units, its log, links and routes; steps, loads, contexts
and peer contexts are gone; slice contents are undefined (R402, Table 15-3; log 32). -/
def resetHearth (gen : Nat) (hh : Hearth) : Hearth :=
  let ddr (a : Nat) : Bool := a < 0xF000000000
  let hh := dropTransit hh
  slicesUndef
    { ({} : Hearth) with
      st := .booting, rail := true, clkStep := 64, resets := hh.resets + 1, epochBase := hh.epochBase, timeBase := hh.timeBase
      firstBoot := hh.firstBoot, tokens := hh.tokens, grant := hh.grant, demand := hh.demand, hottest := hh.hottest
      cooled := hh.cooled, thermStep := hh.thermStep, tokenStep := hh.tokenStep, dies := hh.dies
      slicesOut := hh.slicesOut, subsOut := hh.subsOut, portsOut := hh.portsOut, lanesOut := hh.lanesOut
      buckets := hh.buckets, mem := hh.mem.filter (fun x => ddr x.1), wild := hh.wild.filter (fun x => ddr x.1)
      errs := hh.errs.filter (fun x => ddr (8 * x.1)), tiles := mmap {} (fun _ t => resetTile t) hh.tiles
      steps := hh.steps.filter (fun x => x.state == .ended), chargeSum := hh.chargeSum, freezeSum := hh.freezeSum
      flushCharge := true, moduleId := hh.moduleId, idValid := hh.idValid, resend := hh.resend, damperEn := hh.damperEn
      routeLocal := hh.routeLocal, routeGroup := hh.routeGroup, ash := hh.ash, ashNext := hh.ashNext
      sigNew := hh.sigNew, forwardFrom := hh.forwardFrom, reshape := hh.reshape, sent := hh.sent
      deferred := hh.deferred, restoring := hh.restoring, returning := hh.returning, lastTrain := hh.lastTrain, reportRing := hh.reportRing
      reportNo := hh.reportNo
      ctxs := if hh.load.isSome then
        (abortLoad .abortedByHost { ({} : Hearth) with load := hh.load }).ctxs else []
      ports := mmap {} (fun _ p => { p with inj := [], transit := [], altTransit := [], altBulk := false, damper := 0, saveBuf := [] })
        hh.ports } gen

/-- A hearth that a thermal shutdown put out restarts only once every point has read below 95 °C (R479). -/
def tooHot (hh : Hearth) : Bool := !hh.rail && !hh.cooled

/-- What the checks of Table 12-5 look at in RESET_HEARTH. -/
def resetHearthSpec (p : Pkt) : CmdSpec :=
  { code := 0x0084, need := if fld p 0x10 1 = 0 then .some else .none, named := named p, hst := alive, anyState := false
    fields := [(0x10, 1, full 1)], ranges := [(0x10, decide (fld p 0x10 1 = 0))] }

/-- RESET_HEARTH with LEVEL 0 (R402). -/
def execResetHearth (p : Pkt) (s : State) : Host.Outcome State Fault Refusal :=
  done (submit s p (resetHearthSpec p)
    (fun id s =>
      let hs := (named p).filter (fun h => !tooHot (hearthOf s h))
      let s := setWait s id (.reset p.hearths .done)
      let s := onHearths s hs (fun e hh => endAll e hh .abortedByHost)
      hs.foldl (fun s h =>
        updH { s with
          fresh := s.fresh + 1
          trust := { s.trust with measHearth := mput 0 s.trust.measHearth h 0 } } h (resetHearth s.fresh)) s))

/-- Every command in progress but one completes with ABORTED_BY_HOST (R402). -/
def abortCommands (s : State) (but : Nat) : State :=
  (s.started.filter (fun x => x.id != but)).foldl (fun s x =>
    post (dropStarted s x.id) x.org .abortedByHost 0 0 0 none) s

/-- A hearth at a module warm reset: as for LEVEL 0, with its links down, its log empty, its retired units as the map in
flash has them, until the power controller starts it (R402, R428, R469). -/
def warmHearth (l : List UnitSel) (gen : Nat) (hh : Hearth) : Hearth :=
  let r := resetHearth gen hh
  let map := applyRetired l { ({} : Hearth) with dies := mmap {} (fun _ d => { ({} : Die) with bad := d.bad }) hh.dies }
  let r := if map.subsOut = hh.subsOut then r else hUndef r 0 0xF000000000 gen
  { r with
    st := .absent, retiredWhole := false, rail := hh.rail && !l.contains .hearth, resets := 0, firstBoot := false, steps := []
    restoring := [], returning := [], deferred := [], reshape := none, chargeSum := [], freezeSum := [], flushCharge := false
    dies := map.dies, slicesOut := map.slicesOut, subsOut := map.subsOut, portsOut := map.portsOut
    lanesOut := map.lanesOut, ports := map.ports, sent := [], ash := [], ashNext := 1, sigNew := false, forwardFrom := 1
    routeLocal := [], routeGroup := [], resend := 20, damperEn := true, reportRing := [], reportNo := 0 }

/-- What the checks of Table 12-5 look at in MODULE_WARM_RESET. -/
def moduleWarmResetSpec (p : Pkt) : CmdSpec :=
  { code := 0x0084, fields := [(0x10, 1, full 1)], ranges := [(0x10, decide (fld p 0x10 1 = 1))]
    noHearths := true }

/-- The module warm reset (R402, R469), asked for by the started command `id`: every step and every other started command ends
with ABORTED_BY_HOST, every hearth is ABSENT, and the module boots. Its record is written when the module reaches SERVICE. -/
def warmReset (id : Nat) (s : State) : State :=
  let s := onHearths s allHearths (fun e hh => endAll e hh .abortedByHost)
  let s := allHearths.foldl settleSteps s
  let s := abortCommands s id
  let s := setWait s id .warmReset
  let s := allHearths.foldl (fun s h => updH s h (warmHearth (retiredOf s h) (s.fresh + h))) s
  countBoot { s with
    fresh := s.fresh + 9, mod := .boot, ringsOn := false, romEngine := false, accounts := [], role := {}, activation := []
    cmdCells := [], linkCells := [], standbyOk := false, memActive := false
    power := { s.power with warm := some id, pool := 0, budget := 0, flueRef := 0 }
    trust := { ({} : Trust) with engineFailed := s.trust.engineFailed, verifyFailed := s.trust.verifyFailed }
    regs := { s.regs with
      failover := false, dmaBlocked := false, timeUnlocked := false, cqDropped := 0, drawW := 0, winSel := 0 } }

/-- MODULE_WARM_RESET: RESET_HEARTH with LEVEL 1 (R402, R469). -/
def execModuleWarmReset (p : Pkt) (s : State) : Host.Outcome State Fault Refusal :=
  done (submit s p (moduleWarmResetSpec p) warmReset)

/-- A hearth reaches READY: its firmware runs, the retirement map is applied at the first boot (R428), the module id and
epoch base are taken, the scrub configuration is derived (R433), the LPDDR6 interfaces are trained (Table 13-12). -/
def bootReady (s : State) (h : Nat) (fw : FwImage) : State :=
  let s := updH s h (fun hh =>
    let hh := if hh.firstBoot then hh else applyRetired (retiredOf s h) hh
    let c := scrubDefault hh
    let hh := { hh with
      st := .ready, fw := fw.version, everReady := true, firstBoot := true, fromPower := false
      moduleId := s.flash.moduleId, idValid := s.flash.idValid, epochBase := s.flash.bootCount
      scrubA := c, scrubB := c, scrubC := c
      lastTrain := (subsIn hh).foldl (fun m i => mput 0 m i (deviceTemp s h i)) [] }
    if computeSet hh then hh else permanent hh (bucketKey 0 0) 2 0 0)
  { s with trust := { s.trust with measHearth := mput 0 s.trust.measHearth h fw.hash } }

/-- HEARTH_BOOT_COMPLETE: READY, or FAULTED when boot fails or no hearth image verifies (R391, R446). A hearth under
RESTORE_UNIT that fails stays retired (R430). A higher SECVER of the active slot is fused (R447). -/
def execHearthBootComplete (h : Nat) (ok : Bool) (s : State) : Host.Outcome State Fault Refusal :=
  let hh := hearthOf s h
  done (if hh.st ≠ .booting then s else
    let waiting := hh.restoring.find? (fun x => x.1 == .hearth)
    let s := updH s h (fun hh => { hh with
      firstBoot := hh.firstBoot || !ok, fromPower := false
      restoring := hh.restoring.filter (fun x => x.1 != .hearth) })
    match hearthImage s, ok with
    | some (i, fw), true =>
      let s := { s with fuses := { s.fuses with
        rollbackHearth := if i = s.flash.hearthActive then max s.fuses.rollbackHearth fw.secver else s.fuses.rollbackHearth } }
      let s := bootReady s h fw
      match waiting with
      | some (_, id) => finish (restored s h .hearth) id .done 0 0 0
      | none => s
    | _, _ =>
      match waiting with
      | some (_, id) =>
        finish (updH (returnTokens s h) h (fun hh => { railsOff hh with firstBoot := true })) id .abortedFault 6 0 0
      | none => updH s h (fun hh => { hh with st := .faulted, firstBoot := true }))

end Sys2Proof.Machine
end

