-- ==== Sys2Proof/Machine/Check.lean ====
section
/-! DEFINITION. Plausibility checks (R416 to R422, R166): the bounds, what violates them, and arbitration. -/

namespace Sys2Proof.Machine

/-! ### Bounds -/

/-- The bounds in force for one checked value (Table 2-27, R166). -/
structure Bounds where
  min : W32
  max : W32
  maxMag : W32
  clip : Nat
  emin : Nat
  emax : Nat
  narOk : Bool
  live : Bool
  deriving DecidableEq, Repr

/-- Bounds from the limit and control words and the statistics record that live bounds read (R166). -/
def boundsOf (lim ctl : W64) (live : Bool) (r : CalRec) : Bounds :=
  let on := live && r.latEnable && 0 < r.latAmax.toNat && r.latAmax.toNat < 0x80000000
  let l := round32 (xMul (f32 r.latAmax) (.fin (qPow2 (wb ctl 4 1)) false))
  { min := if on then l ||| 0x80000000 else lim.extractLsb' 0 32
    max := if on then l else lim.extractLsb' 32 32
    maxMag := if on then l else ctl.extractLsb' 32 32
    clip := wb ctl 31 20, emin := wb ctl 13 8, emax := wb ctl 19 14, narOk := nbit ctl.toNat 7, live := on }

/-- The bounds of output stream n of a function tile for a token of a statistics stream. -/
def tileBounds (hh : Hearth) (v n stream : Nat) : Bounds :=
  let t := tileAt hh v
  let ctl := mget ctlReset (cfgOf t).ctl n
  boundsOf (mget limReset (cfgOf t).lim n) ctl (wb ctl 6 5 == 1) (calOf hh t.active stream)

/-- The checker of stream n of a function tile is active. -/
def checkOn (t : Tile) (n : Nat) : Bool := nbit (mget ctlReset (cfgOf t).ctl n).toNat 0

/-- Which bound a Flue32 value exceeds, with the limit (Table 13-6). -/
def exceeds (b : Bounds) (x : W32) : Option (Nat × W32) :=
  if isNan32 x then (if b.narOk then none else some (3, 0))
  else if less32 x b.min then some (0, b.min)
  else if less32 b.max x then some (1, b.max)
  else if less32 b.maxMag (abs32 x) then some (2, b.maxMag)
  else none

/-- Which bound a Scale8 code exceeds. -/
def exceedsScale (b : Bounds) (c : Nat) : Option (Nat × W32) :=
  if scaleNar c then (if b.narOk then none else some (3, 0))
  else if c / 4 < b.emin then some (5, BitVec.ofNat 32 b.emin)
  else if b.emax < c / 4 then some (6, BitVec.ofNat 32 b.emax)
  else none

/-- A violation: place in the group, element number, value, bound and limit. -/
abbrev Viol := Nat × Nat × W32 × Nat × W32

/-- The order in which a token's or a tag's violations are taken: those of NAR_OK, which stop the step, first, then element
order. The first is the flag; the others come up only when a replay differs (R418, R421; log 53). -/
def flagged (l : List Viol) : List Viol :=
  l.filter (fun x => x.2.2.2.1 == 3) ++ l.filter (fun x => x.2.2.2.1 != 3)

/-- The violations of one token. A token with NAR set breaks NAR_OK, whichever its elements. -/
def tokViols (b : Bounds) (k : Tok) : List Viol :=
  let base := 128 * k.seq.toNat
  let own : List Viol :=
    if k.payload = 0 then
      (List.range 16).filterMap (fun i =>
        (exceeds b (elem32 k.data i)).map (fun x => (base + i, 16 * k.seq.toNat + i, elem32 k.data i, x.1, x.2)))
    else if k.payload = 2 then
      (List.range 64).filterMap (fun i =>
        let c := nbits k.data.toNat (8 * i + 7) (8 * i)
        (exceedsScale b c).map (fun x => (base + i, 64 * k.seq.toNat + i, BitVec.ofNat 32 c, x.1, x.2)))
    else []
  flagged (own ++ if k.nar && !b.narOk then [(base + 100, 16 * k.seq.toNat, nan32, 3, 0)] else [])

/-- The CLIP_CEIL violation of a whole group. -/
def clipViol (b : Bounds) (clipped total : Nat) : List Viol :=
  if b.clip * total < clipped * 4096 then
    [(1000000, 0, BitVec.ofNat 32 (clipped * 4096 / total), 4, BitVec.ofNat 32 b.clip)] else []

/-- A flag from a violation. -/
def flagOf (site : CheckSite) (producer : UnitRef) (slot stream : Nat) (tag : W16) (live : Bool) (src : Option Nat)
    (x : Viol) : Flag :=
  { site := site, producer := producer, slot := slot, stream := stream, tag := tag, bound := x.2.2.2.1, elem := x.2.1
    pos := x.1, orig := x.2.2.1, limit := x.2.2.2.2, live := live, srcTile := src }

/-- The flags of a firing's outputs (R57). -/
def firingFlags (hh : Hearth) (v : Nat) (f : Firing) : List Flag :=
  f.outs.flatMap (fun o =>
    if !isFn v || !checkOn (tileAt hh v) o.1 then [] else
    let mk (b : Bounds) (x : Viol) : Flag := flagOf (.fnOut v) (tileRef v) f.slot o.1 f.tag b.live (some v) x
    let toks := o.2.flatMap (fun k =>
      let b := tileBounds hh v o.1 k.stream.toNat
      (tokViols b k).map (mk b))
    let b := tileBounds hh v o.1 ((o.2.head?.map (fun k => k.stream.toNat)).getD 0)
    toks ++ (clipViol b (o.2.filter (·.clipped)).length o.2.length).map (mk b))

/-! ### EMITs and their retention (R49) -/

/-- A bank with RELEASE and no EMIT that depends on it becomes EMPTY (Table 2-5). -/
def releaseBanks (t : Tile) : Tile :=
  let busy (b : Nat) : Bool := t.emits.any (fun x => x.2.2 == b)
  let firing (b : Nat) : Bool := t.cur.any (fun f => f.releaseBank == some b)
  { t with
    bank0 := if t.bank0.release && !busy 0 && !firing 0 then {} else t.bank0
    bank1 := if t.bank1.release && !busy 1 && !firing 1 then {} else t.bank1 }

/-- An EMIT is resolved: its rows and bank are kept no longer. -/
def resolveEmit (hh : Hearth) (v slot : Nat) (tag : W16) : Hearth :=
  updTile hh v (fun t => releaseBanks (freeStaging
    { t with emits := t.emits.filter (fun x => !(x.1 == slot && x.2.1 == tag)) }))

/-- The EMIT slot of tile v that sends on output o and is not resolved for a tag. -/
def emitSlot (hh : Hearth) (v o : Nat) (tag : W16) : Option Nat :=
  let t := tileAt hh v
  (t.emits.find? (fun x => x.2.1 == tag && (opOuts t x.1).contains o)).map (·.1)

/-- The EMIT whose tokens arrive from a unit output is resolved. -/
def resolveFrom (hh : Hearth) (snd : UnitRef) (out : Nat) (tag : W16) : Hearth :=
  match snd.kind.toNat, tileOfId snd.id.toNat with
  | 1, some v => (match emitSlot hh v out tag with | some s => resolveEmit hh v s tag | none => hh)
  | _, _ => hh

/-- Every row of an EMIT is started by an MMA with ZERO: its replay is possible (R419). -/
def arbitrable (t : Tile) (slot : Nat) : Bool :=
  let deps := setBits 32 (param t slot 8 4)
  let row0 := param t slot 0 2
  (List.range (param t slot 2 2)).all (fun i =>
    let r := row0 + i
    let cover := deps.filter (fun s => param t s 8 2 ≤ r && r < param t s 8 2 + param t s 2 2)
    match cover.find? (fun s => cover.all (fun q => param t s 4 2 ≤ param t q 4 2)) with
    | some s => nbit (param t s 1 1) 5
    | none => false)

/-! ### Flags at a site -/

/-- The first unresolved flag of a site. -/
def siteHead (hh : Hearth) (site : CheckSite) : Option Flag :=
  match site with
  | .fnOut v => (tileAt hh v).flags.head?
  | .fnIn v n => (inLive (tileAt hh v) n).flags.head?
  | .writePath u => (threadAt hh u).flags.head?

/-- A checker delivers a token: STEP_AMAX of its stream (R143). A token with no finite value is no observation. DESIGN CHOICE,
log 124. -/
def observeTok (hh : Hearth) (c : Nat) (k : Tok) : Hearth :=
  match (if k.payload = 0 then amaxWords (elems32 k.data) else none) with
  | some m => updCal hh c k.stream.toNat (observe m)
  | none => hh

/-- Two violations of one token, or of one tag on the write path. A CLIP_CEIL of a tag group of tokens stands alone. -/
def sameUnit (f g : Flag) : Bool :=
  match f.site with
  | .writePath _ => f.tag == g.tag
  | _ => f.tag == g.tag && f.stream == g.stream && f.bound != 4 && g.bound != 4 && f.pos / 128 == g.pos / 128

/-- The flags left once the first is resolved: by a delivery of the original its whole token or tag is (R421; log 53). -/
def restFlags (whole : Bool) (f : Flag) (l : List Flag) : List Flag :=
  if whole then (l.drop 1).dropWhile (sameUnit f) else l.drop 1

/-- The tokens of the group of a flag that its input holds, wherever they stand. -/
def heldToks (t : Tile) (n : Nat) (f : Flag) : List Tok :=
  let x := inLive t n
  let tag := heldTag t n f
  x.queue.filter (fun k => k.tag == tag) ++ (t.matches_.filter (fun m => m.inp == n && m.tok.tag == tag)).map (·.tok)
    ++ (x.contrib.filter (fun c => c.1 == tag && c.2.1 == f.idx)).map (·.2.2)

/-- A held token is the one that a flag concerns: of its SEQ, or the group's last where the group's clipping is flagged. -/
def flagsTok (f : Flag) (k : Tok) : Bool := if f.bound = 4 then k.last else k.seq.toNat == f.pos / 128

/-- The site's first flag is resolved. An input whose flags are all resolved and whose group has ended resolves its EMIT. -/
def dropFlag (hh : Hearth) (f : Flag) (whole : Bool) : Hearth :=
  match f.site with
  | .fnOut v => updTile hh v (fun t => { t with flags := restFlags whole f t.flags })
  | .fnIn v n =>
    let x := inLive (tileAt hh v) n
    let left := restFlags whole f x.flags
    let hh := updTile hh v (fun t => putIn t n { x with flags := left })
    let t := tileAt hh v
    let held := heldToks t n f
    let hh := if left = [] then (held.filter (flagsTok f)).foldl (fun hh k => observeTok hh t.active k) hh else hh
    if left = [] && held.any (·.last) then
      (match tileOfId f.producer.id.toNat with | some w => resolveEmit hh w f.slot f.tag | none => hh)
    else hh
  | .writePath u => updThread hh u (fun t => { t with flags := restFlags whole f t.flags })

/-- Replace the flagged value in a token of a tag by its replay (R421). -/
def patchTok (tag : W16) (f : Flag) (v : W32) (k : Tok) : Tok :=
  let seq := f.pos / 128
  let i := f.pos % 128
  if k.tag ≠ tag ∨ k.seq.toNat ≠ seq then k
  else if k.payload = 0 ∧ i < 16 then
    let l := (elems32 k.data).set i v
    { k with data := packElems l, nar := l.any isNan32 }
  else if k.payload = 2 ∧ i < 64 then
    { k with data := k.data &&& ~~~(BitVec.ofNat 512 (255 * 2 ^ (8 * i))) ||| BitVec.ofNat 512 (v.toNat % 256 * 2 ^ (8 * i)) }
  else k

/-- The NaNs that a firing counts once a replay stands for a value (R126, R141): it wrote one more or one fewer. -/
def patchCounts (f : Flag) (v : W32) (s : Nat) (l : List (Nat × Nat × Nat)) : List (Nat × Nat × Nat) :=
  if isNan32 f.orig = isNan32 v ∨ f.bound = 4 then l
  else if isNan32 v then l ++ [(s, 1, 0)]
  else match l.reverse.findIdx? (fun c => c.1 == s && 0 < c.2.1) with
    | some i => (l.reverse.modify i (fun c => (c.1, c.2.1 - 1, c.2.2))).reverse
    | none => l

/-- The replay replaces the original where the site holds it. -/
def patchSite (hh : Hearth) (f : Flag) (v : W32) : Hearth :=
  match f.site with
  | .fnOut u => updTile hh u (fun t => { t with cur := t.cur.map (fun c =>
      let s := ((c.outs.find? (fun o => o.1 == f.stream)).bind (fun o => o.2.head?)).elim 0 (fun k => k.stream.toNat)
      { c with
        outs := c.outs.map (fun o => if o.1 = f.stream then (o.1, o.2.map (patchTok f.tag f v)) else o)
        counts := patchCounts f v s c.counts }) })
  | .fnIn u n => updTile hh u (fun t =>
      let x := inLive t n
      let tag := heldTag t n f
      { putIn t n { x with
          queue := x.queue.map (patchTok tag f v)
          contrib := x.contrib.map (fun c => if c.2.1 = f.idx then (c.1, c.2.1, patchTok tag f v c.2.2) else c) } with
        matches_ := t.matches_.map (fun m => if m.inp = n then { m with tok := patchTok tag f v m.tok } else m)
        store := if inType t n = 2 ∧ f.pos < 16 then mput 0 t.store (lineAt (contribLine t n f.idx tag) + f.pos) v else t.store })
  | .writePath u => updThread hh u (fun t => { t with held := t.held.map (fun x =>
      match f.bound with
      | 4 => x
      | 5 => { x with redoScale := (f.pos, v.toNat % 256) :: x.redoScale }
      | 6 => { x with redoScale := (f.pos, v.toNat % 256) :: x.redoScale }
      | _ => { x with
          redo := x.redo ++ [(f.pos, v)]
          toks := x.toks.map (fun k =>
            if k.payload = 0 ∧ k.seq.toNat = f.pos / 16 then
              { k with data := packElems ((elems32 k.data).set (f.pos % 16) v) } else k) }) })

/-- A replayed value against the bound it broke, with the limit in force. -/
def stillOver (f : Flag) (v : W32) : Bool :=
  match f.bound with
  | 0 => !isNan32 v && less32 v f.limit
  | 1 => !isNan32 v && less32 f.limit v
  | 2 => !isNan32 v && less32 f.limit (abs32 v)
  | 3 => isNan32 v
  | 4 => decide (f.limit.toNat < v.toNat)
  | 5 => decide (v.toNat / 4 < f.limit.toNat)
  | _ => decide (f.limit.toNat < v.toNat / 4)

/-! ### Referees and records -/

/-- Rows in the order of R420: the row itself, then one above, one below, two above, and so on. -/
def nearOrder (n limit : Nat) : List Nat :=
  ((List.range limit).flatMap (fun k => if k = 0 then [n] else
    (if n + k < limit then [n + k] else []) ++ (if k ≤ n then [n - k] else [])))

/-- The referee of a function tile (R420). -/
def refereeTile (hh : Hearth) (v : Nat) : Option Nat :=
  let d := v / 48
  let r := v % 48 / 8
  let dies := nearOrder d 10
  let cand := dies.flatMap (fun e => (nearOrder r 6).flatMap (fun q => [48 * e + 8 * q, 48 * e + 8 * q + 7]))
  cand.find? (fun w => w != v && tileEnabled hh w)

/-- The referee that a CHECK record names: a tile identifier or a slice group. -/
def refereeId (hh : Hearth) (site : CheckSite) : Nat :=
  match site with
  | .fnOut v => (match refereeTile hh v with | some w => idOfTile w | none => 0xFFFF)
  | .fnIn v _ => idOfTile v
  | .writePath u =>
    let g := u / 32
    ((((List.range 32).map (fun k => (g + 1 + k) % 32)).find? (fun k => groupSlices hh k != [])).getD g)

/-- The unit path and bucket of a flag's producer: a tile, or the slice group of a write path. -/
def producerKey (f : Flag) : Nat × Nat :=
  match f.site with
  | .writePath u => (pathOf 7 0 0 0 (u / 32) 0, bucketKey 7 (u / 32))
  | _ => (refPath f.producer, bucketKey 2 ((tileOfId f.producer.id.toNat).getD 0))

/-- A CHECK record (Table 13-18), not yet written. -/
def checkRec (hh : Hearth) (f : Flag) (cls : Nat) (replay ref : W32) (refRan : Bool) : AshRec :=
  let site := match f.site with | .fnOut _ => 0 | .fnIn _ _ => 1 | .writePath _ => 2
  let slot := match f.site with | .writePath u => u % 32 | _ => f.slot
  stepRec hh (runStep hh) f.tag cls (producerKey f).1 0 (detailOf
    [(0, 1, f.bound), (1, 1, site), (2, 1, slot), (3, 1, f.stream), (4, 2, f.elem), (6, 2, refereeId hh f.site)
    , (8, 4, f.orig.toNat), (12, 4, replay.toNat), (16, 4, if refRan then ref.toNat else 0), (20, 4, f.limit.toNat)
    , (24, 1, b2n f.live), (28, 4, Config.arbCycles hh.ashNext)])

/-! ### Arbitration (R421, R422) -/

/-- The next waiting flag is arbitrated; flags that their site no longer holds are forgotten. -/
def nextArb (hh : Hearth) : Hearth :=
  match hh.flags.filter (fun f => siteHead hh f.site == some f) with
  | [] => { hh with arb := none, flags := [] }
  | f :: rest => { hh with arb := some { flag := f }, flags := rest }

/-- A flag's arbitration is over; whole where the original is delivered. -/
def closeArb (hh : Hearth) (f : Flag) (whole : Bool) : Hearth := nextArb (dropFlag hh f whole)

/-- PERMANENT: the producing unit retires and the step ends. -/
def permanentOutcome (e : Env) (hh : Hearth) (f : Flag) (r : AshRec) : Hearth :=
  let seq := hh.ashNext
  let hh := endRun e (logRec e hh r) .abortedFault
  permanent { hh with arb := none, flags := [] } (producerKey f).2 0 0x0022 seq

/-- CHECK_FLAG: a flag is noted at the tile that produced the value, and its replay starts, or waits its turn. An EMIT that
cannot be replayed ends the step (R419). -/
def checkFlag (e : Env) (hh : Hearth) (site : CheckSite) : Hearth :=
  match siteHead hh site with
  | none => hh
  | some f =>
    if hh.flags.contains f ∨ hh.arb.any (fun a => a.flag == f) ∨ hh.arb.any (fun a => a.flag.site == site) then hh else
    let hh := match f.srcTile with
      | some v => updTile hh v (fun t => { t with fault := t.fault ||| 0x20 })
      | none => hh
    let can := match site with
      | .fnIn _ _ => (match tileOfId f.producer.id.toNat with | some w => arbitrable (tileAt hh w) f.slot | none => true)
      | _ => true
    if !can then endRun e (logRec e hh (checkRec hh f 0x0024 0 0 false)) .abortedFault
    else if hh.arb.isSome then { hh with flags := hh.flags ++ [f] }
    else { hh with arb := some { flag := f } }

/-- REPLAY_COMPLETE (Table 13-8): an equal replay starts the referee; a different one is a transient, counted as one event,
whose replay takes the original's place and is checked again. -/
def replayDone (e : Env) (hh : Hearth) (v : W32) : Hearth :=
  match hh.arb with
  | none => hh
  | some a =>
    let f := a.flag
    if a.referee then hh
    else if v = f.orig then { hh with arb := some { a with referee := true } }
    else
      let (counted, lvl, perm) := countEvent e hh (producerKey f).2
      if perm then permanentOutcome e counted f
        { checkRec hh f 0x0022 v 0 false with level := lvl, window := bucketMinutes (producerKey f).2 }
      else
        let hh := (eventRec e hh (producerKey f).2 (checkRec hh f 0x0021 v 0 false)).1
        let hh := patchSite hh f v
        if stillOver f v then
          let g := { f with replay := some v }
          let hh := match f.site with
            | .fnOut u => updTile hh u (fun t => { t with flags := g :: t.flags.drop 1 })
            | .fnIn u n => updTile hh u (fun t => putIn t n { inLive t n with flags := g :: (inLive t n).flags.drop 1 })
            | .writePath u => updThread hh u (fun t => { t with flags := g :: t.flags.drop 1 })
          { hh with arb := some { a with flag := g, referee := true } }
        else closeArb hh f false

/-- REFEREE_COMPLETE (Table 13-8): BOUND_MISS when it agrees, PERMANENT when it does not. A miss of NAR_OK stops the step. -/
def refereeDone (e : Env) (hh : Hearth) (v : W32) : Hearth :=
  match hh.arb with
  | none => hh
  | some a =>
    let f := a.flag
    let base := f.replay.getD f.orig
    if !a.referee then hh
    else if v ≠ base then permanentOutcome e hh f (checkRec hh f 0x0022 base v true)
    else if f.bound = 3 then endRun e (logRec e hh (checkRec hh f 0x0023 base v true)) .abortedFault
    else closeArb (logRec e hh (checkRec hh f 0x0020 base v true)) f true

/-- CHECK_FLAG (R418). -/
def execCheckFlag (h : Nat) (site : CheckSite) (s : State) : Host.Outcome State Fault Refusal :=
  hearthEvent s h (fun e hh => if (runStep hh).isSome then checkFlag e hh site else hh)

/-- REPLAY_COMPLETE (R421). -/
def execReplayComplete (h : Nat) (value : W32) (s : State) : Host.Outcome State Fault Refusal :=
  hearthEvent s h (fun e hh => if (runStep hh).isSome then replayDone e hh value else hh)

/-- REFEREE_COMPLETE (R421). -/
def execRefereeComplete (h : Nat) (value : W32) (s : State) : Host.Outcome State Fault Refusal :=
  hearthEvent s h (fun e hh => if (runStep hh).isSome then refereeDone e hh value else hh)

end Sys2Proof.Machine
end

