-- ==== Sys2Proof/Machine/Streams.lean ====
section
/-! DEFINITION. Streams: arrival of tokens and credits (R203 to R214), admission (R84 to R90), combining (R215 to R220),
timeouts (R87), tile resets and context changes (R41, R43), progress and spills (R97 to R103), sampling (R105). -/

namespace Sys2Proof.Machine

/-! ### Faults of groups and waits -/

/-- DETAIL of GROUP_SIZE, TIMEOUT_SYNC and SYNC_FAULT (Table 13-19), with the fields that the cause does not use zero but
for SLOT, STREAM and OBJECT. -/
def faultDetail (cause : Nat) (u : UnitRef) (tag : W16) (slot stream : Nat) (more : List (Nat × Nat × Nat))
    (object : Nat := 0xFFFF) : BitVec 2048 :=
  detailOf ([(0, 1, cause), (1, 1, u.kind.toNat), (2, 2, u.id.toNat), (4, 1, slot), (5, 1, stream), (6, 2, tag.toNat),
    (8, 2, object)] ++ more)

/-- The running step ends with a status after a record of a class about a unit. -/
def unitFault (e : Env) (hh : Hearth) (cls : Nat) (u : UnitRef) (tag : W16) (status : Status) (d : BitVec 2048) : Hearth :=
  endRun e (logStep e hh (runStep hh) tag cls (refPath u) 0 d) status

/-- A group-size fault (R82, R220, R255, R257). -/
def groupFault (e : Env) (hh : Hearth) (cause : Nat) (u : UnitRef) (tag : W16) (slot stream count seen sender : Nat) : Hearth :=
  unitFault e hh 0x0052 u tag .abortedFault
    (faultDetail cause u tag slot stream [(12, 2, count), (14, 2, sat 16 seen), (28, 2, sender)])

/-! ### Tokens at compute tiles -/

/-- The oldest token in flight of a sender's output. -/
def headFlight (hh : Hearth) (snd : UnitRef) (out : Nat) : Option (Nat × Flight) :=
  match hh.flights.findIdx? (fun f => f.snd == snd && f.out == out) with
  | some i => (hh.flights[i]?).map (fun f => (i, f))
  | none => none

/-- A token leaves the network. -/
def landFlight (hh : Hearth) (i : Nat) : Hearth := { hh with flights := hh.flights.eraseIdx i }

/-- A credit of a sender is spent on a token that its reader has seen (ledger 1). -/
def seeSpent (x : InLive) (i : Nat) : InLive := { x with owed := mupd 0 x.owed i (· - 1) }

/-- The first long group of a function tile's inputs ends the step (R82). -/
def checkLong (e : Env) (hh : Hearth) (v n : Nat) : Hearth :=
  let t := tileAt hh v
  match (inLive t n).opened.findSome? (fun tag => (longGroup v t n tag).map (fun g => (tag, g))) with
  | some (tag, (slot, count, seen)) => groupFault e hh 1 (tileRef v) tag slot n count seen 0
  | none => hh

/-- The flags of a token that arrives from a matrix tile at a checked input (R57), as sender idx of a combining one. A group's
CLIP_CEIL is judged at its last token. -/
def arrivalFlags (hh : Hearth) (v : Nat) (f : Flight) (idx : Nat) : List Flag :=
  let t := tileAt hh v
  match tileOfId f.snd.id.toNat with
  | none => []
  | some w =>
    if !(isFn v && checkOn t f.inp && f.snd.kind == 1 && !isFn w) then [] else
    let b := tileBounds hh v f.inp f.tok.stream.toNat
    let slot := (emitSlot hh w f.out f.tok.tag).getD 0xFF
    let mk (x : Viol) : Flag :=
      { flagOf (.fnIn v f.inp) f.snd slot f.inp f.tok.tag b.live (some w) x with idx := idx }
    let group := f.tok :: heldToks t f.inp (mk (0, 0, 0, 0, 0))
    (tokViols b f.tok ++ if f.tok.last then clipViol b (group.filter (·.clipped)).length group.length else []).map mk

/-- The tile's checker of this input checks the tokens of the sender. -/
def checksFrom (hh : Hearth) (v : Nat) (f : Flight) : Bool :=
  match tileOfId f.snd.id.toNat with
  | some w => isFn v && checkOn (tileAt hh v) f.inp && f.snd.kind == 1 && !isFn w
  | none => false

/-- A token arrives at a compute tile (Table 7-4, R94, R96). While a flag of the input is unresolved its next tokens wait
on the network (R417). -/
def arriveTile (e : Env) (hh : Hearth) (i v : Nat) (f : Flight) : Hearth :=
  let r := tileReason hh v f
  if r ≠ 0 then
    let hh := dropAtTile e (landFlight hh i) v f r
    if f.tok.last then resolveFrom hh f.snd f.out f.tok.tag else hh
  else
    let t := tileAt hh v
    let x := inLive t f.inp
    if x.flags ≠ [] then hh else
    let pos := match runStep hh with
      | some st => posAround st x.lead (f.tok.tag + 1)
      | none => 0
    if inType t f.inp = 1 ∧ (runStep hh).any (fun st => pos == st.n) then
      let hh := landFlight hh i
      sendCredit (updTile hh v (fun t => putIn t f.inp { x with dropped := sat 32 (x.dropped + 1) })) f.snd f.out x.epoch 1
    else
      let k := if inType t f.inp = 1 then { f.tok with tag := f.tok.tag + 1 } else f.tok
      let flags := arrivalFlags hh v f 0
      let checked := checksFrom hh v f
      let x := seeSpent { x with queue := x.queue ++ [k], flags := flags, lead := max x.lead pos } 0
      let hh := updTile (landFlight hh i) v (fun t => putIn t f.inp x)
      let hh := if checked && flags.isEmpty then observeTok hh t.active k else hh
      let hh := drainInput hh v f.inp 264
      let hh := if checked && f.tok.last && flags.isEmpty then resolveFrom hh f.snd f.out f.tok.tag else hh
      checkLong e hh v f.inp

/-! ### Tokens at stoker threads and endpoints (Table 7-1) -/

/-- Drop a token at a thread or endpoint: the credit returns unless its epoch is old; a record (R212, R214). -/
def dropAtSink (e : Env) (hh : Hearth) (f : Flight) (reason : Nat) (epoch : BitVec 4) : Hearth :=
  let hh := if reason = 3 then hh else sendCredit hh f.snd f.out f.tok.epoch 1
  closedRecord e hh f reason epoch

/-- A token arrives at a stoker thread. -/
def arriveThread (e : Env) (hh : Hearth) (i u : Nat) (f : Flight) : Hearth :=
  let t := threadAt hh u
  let d := match runStep hh with | some st => threadDesc hh st.ctx u | none => none
  let r := match d with
    | none => if hh.ctxs.any (fun x => x.2.threads.any (fun y => y.1 == u)) then 2 else 1
    | some d => if t.closed then 2 else if f.tok.epoch ≠ t.epoch then 3
      else if f.snd ≠ ⟨1, BitVec.ofNat 16 d.src⟩ ∨ f.out ≠ d.srcOut then 4 else 0
  let hh := landFlight hh i
  if r ≠ 0 then dropAtSink e (updThread hh u (fun t => { t with dropped := sat 32 (t.dropped + 1) })) f r t.epoch
  else updThread hh u (fun t => { t with buf := t.buf ++ [f.tok], owed := t.owed - 1 })

/-- A token arrives at a flue endpoint. A SEND or CONTRIBUTE retires a tag with its LAST token (R70). -/
def arriveEp (e : Env) (hh : Hearth) (i k : Nat) (f : Flight) : Hearth :=
  let t := epAt hh k
  let d := match runStep hh with | some st => epDesc hh st.ctx k | none => none
  let r := match d with
    | none => if hh.ctxs.any (fun x => x.2.eps.any (fun y => y.1 == k)) then 2 else 1
    | some d => if t.closed then 2 else if f.tok.epoch ≠ t.epoch then 3
      else if f.snd ≠ ⟨1, BitVec.ofNat 16 d.loc⟩ ∨ f.out ≠ d.localIo then 4 else 0
  let hh := landFlight hh i
  if r ≠ 0 then dropAtSink e (updEp hh k (fun t => { t with dropped := sat 32 (t.dropped + 1) })) f r t.epoch
  else
    let hh := updEp hh k (fun t => { t with buf := t.buf ++ [f.tok], owed := t.owed - 1 })
    match runStep hh, d with
    | some st, some d => if f.tok.last ∧ (d.kind = 1 ∨ d.kind = 5) then epDone hh k (posNear hh st f.tok.tag) else hh
    | _, _ => hh

/-- A token's reader is a combining input. -/
def combining (hh : Hearth) (f : Flight) : Bool :=
  f.rcv.kind == 1 && (match tileOfId f.rcv.id.toNat with | some v => inType (tileAt hh v) f.inp == 2 | none => false)

/-- TOKEN_ARRIVAL: the oldest token of a stream reaches its reader (R203, R212). -/
def execTokenArrival (h : Nat) (snd : UnitRef) (out : Nat) (s : State) : Host.Outcome State Fault Refusal :=
  hearthEvent s h (fun e hh =>
    match headFlight hh snd out with
    | none => hh
    | some (i, f) =>
      if combining hh f then hh else
      match f.rcv.kind.toNat, tileOfId f.rcv.id.toNat with
      | 1, some v => arriveTile e hh i v f
      | 2, _ => arriveThread e hh i f.rcv.id.toNat f
      | 4, _ => arriveEp e hh i (f.rcv.id.toNat % 512) f
      | _, _ => hh)

/-- TOKEN_ADMIT: the head of an input's queue is admitted as R84 to R90 allow. -/
def execTokenAdmit (h v n : Nat) (s : State) : Host.Outcome State Fault Refusal :=
  hearthEvent s h (fun e hh =>
    if nbit (inReg (tileAt hh v) n).toNat 63 ∧ !(inLive (tileAt hh v) n).closed ∧ (tileAt hh v).state = .running then
      checkLong e (drainInput hh v n 264) v n
    else hh)

/-- STREAM_CREDIT: the oldest credits on their way to an output arrive; those of another epoch are discarded (R208, R210). -/
def execStreamCredit (h : Nat) (snd : UnitRef) (out : Nat) (s : State) : Host.Outcome State Fault Refusal :=
  hearthEvent s h (fun _ hh =>
    match hh.creditFlights.findIdx? (fun c => c.snd == snd && c.out == out) with
    | none => hh
    | some i =>
      match hh.creditFlights[i]? with
      | none => hh
      | some c =>
        let hh := { hh with creditFlights := hh.creditFlights.eraseIdx i }
        let o := sndLive hh snd out
        if c.epoch = o.epoch then putSnd hh snd out { o with credits := o.credits + c.count } else hh)

/-! ### Combining inputs -/

/-- A contribution's elements: 16 canonical NaNs when its PAYLOAD is not 0 (R215). -/
def contribElems (k : Tok) : List W32 := if k.payload = 0 then elems32 k.data else List.replicate 16 nan32

/-- A contribution enters its line (R218). The checker checks that of a matrix tile (R57): its EMIT is resolved once no flag
holds it (R49). -/
def takeContrib (hh : Hearth) (v : Nat) (f : Flight) (idx : Nat) : Hearth :=
  let t := tileAt hh v
  let x := inLive t f.inp
  let k := f.tok
  let line := contribLine t f.inp idx k.tag
  let store := (List.range 16).foldl (fun m j => mput 0 m (lineAt line + j) ((contribElems k).getD j 0)) t.store
  let flags := arrivalFlags hh v f idx
  let x := seeSpent { x with
    opened := if x.opened.contains k.tag then x.opened else x.opened ++ [k.tag]
    contrib := x.contrib ++ [(k.tag, idx, k)], flags := flags } idx
  let hh' := putTile hh v { putIn t f.inp x with store := store }
  let hh' := if k.payload = 0 then hh' else updCal hh' t.active k.stream.toNat (countNar 16 0)
  if !checksFrom hh v f ∨ flags ≠ [] then hh'
  else resolveFrom (observeTok hh' t.active k) f.snd f.out k.tag

/-- COMBINING_CONTRIBUTION: a contribution takes its line (R218), once its tag is admitted (R84) and no flag of the input is
unresolved (R417). -/
def execCombiningContribution (h : Nat) (snd : UnitRef) (out : Nat) (s : State) : Host.Outcome State Fault Refusal :=
  hearthEvent s h (fun e hh =>
    match headFlight hh snd out with
    | none => hh
    | some (i, f) =>
      match tileOfId f.rcv.id.toNat with
      | none => hh
      | some v =>
        if !combining hh f then hh else
        let r := tileReason hh v f
        if r ≠ 0 then resolveFrom (dropAtTile e (landFlight hh i) v f r) f.snd f.out f.tok.tag else
        let t := tileAt hh v
        let x := inLive t f.inp
        let idx := (senderIdx hh t.active v f.inp snd out).getD 0
        let k := f.tok
        if !(k.last && k.seq == 0) then
          groupFault e (landFlight hh i) 3 (tileRef v) k.tag 0xFF f.inp 1 (k.seq.toNat + 1 + b2n !k.last) 0
        else if x.contrib.any (fun c => c.1 == k.tag && c.2.1 == idx) then
          groupFault e (landFlight hh i) 3 (tileRef v) k.tag 0xFF f.inp 1 2 idx
        else if x.flags ≠ [] ∨ !admits (inWindowOf t f.inp) x.opened k.tag then hh
        else takeContrib (landFlight hh i) v f idx)

/-- The sum of a tag's contributions in sender order (R219). -/
def combineSum (l : List Tok) : List W32 :=
  (List.range 16).map (fun j => tree32 (l.map (fun k => (contribElems k).getD j 0)))

/-- The contributions of a tag in sender order, when all n are there. -/
def allContrib (x : InLive) (n : Nat) (tag : W16) : Option (List Tok) :=
  let l := (List.range n).filterMap (fun i => (x.contrib.find? (fun c => c.1 == tag && c.2.1 == i)).map (·.2.2))
  if l.length = n then some l else none

/-- COMBINING_SUM_COMPLETE (R219). -/
def execCombiningSumComplete (h v n tag : Nat) (s : State) : Host.Outcome State Fault Refusal :=
  hearthEvent s h (fun _ hh =>
    let t := tileAt hh v
    let x := inLive t n
    let w := BitVec.ofNat 16 tag
    if x.closed ∨ inType t n ≠ 2 ∨ x.sums.any (fun k => k.tag == w) ∨ flaggedAt t n w then hh else
    match allContrib x (inSenders t n) w with
    | none => hh
    | some l =>
      let sum := combineSum l
      let k : Tok := { tag := w, stream := (l.head?.map (·.stream)).getD 0, epoch := x.epoch, last := true
                       nar := sum.any isNan32, data := packElems sum }
      putTile hh v (putIn t n { x with sums := x.sums ++ [k] }))

/-! ### Timeouts -/

/-- TAG_TIMEOUT: a tag open beyond its input's timeout ends the step (R87); at a combining input the record names the
missing senders (R220). -/
def execTagTimeout (h v n tag : Nat) (s : State) : Host.Outcome State Fault Refusal :=
  hearthEvent s h (fun e hh =>
    let t := tileAt hh v
    let x := inLive t n
    let w := BitVec.ofNat 16 tag
    match runStep hh with
    | none => hh
    | some st =>
      if st.state ≠ .running ∨ !tileInSec hh st.ctx st.ran v ∨ x.closed ∨ !x.opened.contains w then hh else
      let miss := if inType t n = 2 then
          (List.range (inSenders t n)).filter (fun i => !x.contrib.any (fun c => c.1 == w && c.2.1 == i)) else []
      let more := if inType t n = 2 then
          [(0x1E, 2, sat 16 miss.length), (0x20, 8, maskOf (miss.filter (· < 64)))] else []
      unitFault e hh 0x0051 (tileRef v) w .timeoutSync
        (faultDetail (if inType t n = 2 then 6 else 5) (tileRef v) w 0xFF n more))

/-! ### Tile resets and context changes -/

/-- TILE_RESET: R43. -/
def execTileReset (h v : Nat) (s : State) : Host.Outcome State Fault Refusal :=
  hearthEvent s h (fun _ hh =>
    if !present hh.st ∨ !tileEnabled hh v then hh else
    updTile (closeTile false true (dropWords hh v) v) v (fun t => { t with
      cur := none, flags := [], acc := [], syncs := [], bank0 := {}, bank1 := {}
      state := if nbit t.valid.toNat t.active then .configured else .idle }))

/-- The change of a tile's active context (R41). -/
def changeContext (hh : Hearth) (v c : Nat) : Hearth :=
  updTile (closeTile true true (dropWords hh v) v) v (fun t => { t with
    active := c, switching := none, bank0 := {}, bank1 := {}, syncs := freshSyncs (mget {} t.cfg c), state := .configured })

/-- CONTEXT_CHANGE: a write of ACTIVE starts a change; it is ignored outside IDLE and CONFIGURED, and for a context that is
not valid (Table 2-12). -/
def execContextChange (h v c : Nat) (s : State) : Host.Outcome State Fault Refusal :=
  hearthEvent s h (fun _ hh => writeActive hh v c)

/-- CONTEXT_CHANGE_COMPLETE. -/
def execContextChangeComplete (h v : Nat) (s : State) : Host.Outcome State Fault Refusal :=
  hearthEvent s h (fun _ hh =>
    let t := tileAt hh v
    match t.switching with
    | some c => if tileEnabled hh v ∧ (t.state = .idle ∨ t.state = .configured) ∧ nbit t.valid.toNat c then
        changeContext hh v c else updTile hh v (fun t => { t with switching := none })
    | none => hh)

/-! ### Sampling (R105, R106) -/

/-- The bin of each sampled queue of a hearth, by rising histogram index (Table 3-8). -/
def sampleBins (hh : Hearth) : List (Nat × Nat) :=
  let queues := (List.range 480).flatMap (fun v => if tileEnabled hh v then
      (List.range 16).map (fun n => (16 * v + n, min 8 ((inLive (tileAt hh v) n).queue.length - spilledQ hh v n))) else [])
  let stores := (List.range 120).filterMap (fun i =>
    let v := 48 * (i / 12) + 8 * (i % 12 / 2) + 7 * (i % 2)
    if tileEnabled hh v then some (7680 + i, min 15 ((tileAt hh v).matches_.length / 16)) else none)
  let staging := (List.range 360).filterMap (fun i =>
    let v := 48 * (i / 36) + 8 * (i % 36 / 6) + i % 6 + 1
    if tileEnabled hh v then some (7800 + i, min 15 ((tileAt hh v).staging.length / 16)) else none)
  let mem := (List.range 24).filterMap (fun i =>
    if (List.range 2).all (fun j => hh.subsOut.contains (2 * i + j)) then none else
    let n := (hh.reqs.filter (fun r => (sliceOf hh r.unitAddr).isNone && subOf hh r.unitAddr / 2 == i)).length
    some (8160 + i, min 15 (16 * n / Config.reqCapacity)))
  let inj := (List.range 14).filterMap (fun t =>
    if hh.portsOut.contains t then none else some (8184 + t, min 15 (16 * injCount (fport hh t) / 4096)))
  queues ++ stores ++ staging ++ mem ++ inj

/-- Add one at each of a rising list of keys, saturating at 32 bits. -/
def bumpKeys : List Nat → SMap Nat → Nat → SMap Nat
  | [], m, _ => m
  | _, m, 0 => m
  | k :: ks, [], n + 1 => (k, 1) :: bumpKeys ks [] n
  | k :: ks, (j, c) :: m, n + 1 =>
    if k < j then (k, 1) :: bumpKeys ks ((j, c) :: m) n
    else if k = j then (j, sat 32 (c + 1)) :: bumpKeys ks m n
    else (j, c) :: bumpKeys (k :: ks) m n

/-- SAMPLE_TICK: every queue is sampled at the same instant (R105). -/
def execSampleTick (h : Nat) (s : State) : Host.Outcome State Fault Refusal :=
  nextOf (updH s h (fun hh =>
    if hh.sampling.isNone ∨ !readyFaulted hh.st then hh else
    let ks := (sampleBins hh).map (fun x => 16 * x.1 + x.2)
    { hh with hist := bumpKeys ks hh.hist (ks.length + hh.hist.length) }))

end Sys2Proof.Machine
end

