-- ==== Sys2Proof/Machine/Sync.lean ====
section
/-! DEFINITION. Sync objects (R222 to R228, R325): operations on tile objects, batches at hearth objects, grants,
timeouts. -/

namespace Sys2Proof.Machine

/-- Add to the ledger words of an object: ADDED and TAKEN, modulo 2^32 (R230). -/
def ledger (hh : Hearth) (key added taken : Nat) : Hearth :=
  { hh with syncWords := mupd (0, 0) hh.syncWords key (fun x =>
      (x.1 + BitVec.ofNat 32 added, x.2 + BitVec.ofNat 32 taken)) }

/-- Set bits of a unit's JD_TILE_FAULT, if it is a compute tile. -/
def tileFault (hh : Hearth) (u : UnitRef) (bits : W16) : Hearth :=
  match u.kind.toNat, tileOfId u.id.toNat with
  | 1, some v => updTile hh v (fun t => { t with fault := t.fault ||| bits })
  | _, _ => hh

/-- A SYNC_FAULT ends the step (R223, R225): a mode fault (cause 8), an overflow (9) or an underflow (10). -/
def syncFault (e : Env) (hh : Hearth) (cause : Nat) (o : SyncOp) (object value limit ops : Nat) (amount : Int) : Hearth :=
  let hh := tileFault hh o.unit (if cause = 9 then 0x8 else if cause = 10 then 0x10 else 0)
  unitFault e hh 0x0053 o.unit o.tag .abortedFault (faultDetail cause o.unit o.tag o.slot 0xFF
    ([(0x0A, 1, o.action), (0x10, 2, value), (0x12, 2, limit)]
      ++ if cause = 8 then [] else [(0x16, 2, ops), (0x18, 4, unsgn 32 amount)]) object)

/-! ### Tile objects -/

/-- A slot's wait at tile v is over. -/
def endWait (t : Tile) (slot : Nat) (tag : W16) : Tile :=
  { t with
    waitSlots := t.waitSlots.filter (fun x => !(x.1 == slot && x.2.1 == tag))
    syncs := if 48 ≤ syncObj t slot then t.syncs else mupd {} t.syncs (syncObj t slot) (fun o =>
      { o with
        latch := mput none o.latch (slot + 1) none
        waiters := if t.waitSlots.any (fun x => x.1 == slot && x.2.1 == tag) then o.waiters - 1 else o.waiters }) }

/-- The operation of a SYNC slot. -/
def slotOp (v : Nat) (t : Tile) (slot : Nat) (tag : W16) : SyncOp :=
  { unit := tileRef v, slot := slot, tag := tag, action := param t slot 0 1
    amount := if param t slot 0 1 = 0 then 1 else param t slot 4 2 }

/-- A SYNC firing acts on its tile object (Table 7-9, R224, R225). -/
def tileSync (e : Env) (hh : Hearth) (v slot : Nat) (tag : W16) : Hearth :=
  let t := tileAt hh v
  let n := syncObj t slot
  let op := slotOp v t slot tag
  let limit := wb (syncReg t n) 47 32
  let o := mget {} t.syncs n
  let put (hh : Hearth) (o : SyncLive) (added taken : Nat) : Hearth :=
    ledger (updTile hh v (fun t => { t with syncs := mput {} t.syncs n o })) (48 * v + n) added taken
  match wb (syncReg t n) 63 62, op.action with
  | 1, 0 =>
    let o := { o with latch := mput none o.latch 0 (some o.gen) }
    if limit ≤ o.value + 1 then put hh { o with value := 0, gen := o.gen + 1 } 1 limit
    else put hh { o with value := o.value + 1 } 1 0
  | 1, 1 => updTile hh v (fun t => endWait t slot tag)
  | 2, 1 => put (updTile hh v (fun t => endWait t slot tag)) { mget {} (endWait t slot tag).syncs n with value := o.value - 1 } 0 1
  | 2, 3 =>
    if o.value < op.amount then syncFault e hh 10 op n o.value limit 1 op.amount
    else put hh { o with value := o.value - op.amount } 0 op.amount
  | 2, _ =>
    if limit < o.value + op.amount then syncFault e hh 9 op n o.value limit 1 op.amount
    else put hh { o with value := o.value + op.amount } op.amount 0
  | _, _ => syncFault e hh 8 op n o.value limit 1 0

/-! ### Hearth objects -/

/-- The configuration of a hearth object in a context. -/
def hsyncReg (hh : Hearth) (c obj : Nat) : W64 := mget 0 (mget {} hh.ctxs c).hsync obj

/-- A hearth object. -/
def hsyncAt (hh : Hearth) (obj : Nat) : HSync := mget {} hh.hsync obj

/-- Change a hearth object. -/
def updHsync (hh : Hearth) (obj : Nat) (f : HSync → HSync) : Hearth := { hh with hsync := mupd {} hh.hsync obj f }

/-- The key of R216 of an operation's unit. -/
def opKey (o : SyncOp) : Nat := unitKey o.unit 0

/-- Insert an operation by unit key, after those of the same key. -/
def insertOp (o : SyncOp) : List SyncOp → List SyncOp
  | [] => [o]
  | p :: l => if opKey o < opKey p then o :: p :: l else p :: insertOp o l

/-- A batch by unit key. -/
def sortOps (l : List SyncOp) : List SyncOp := l.foldl (fun a o => insertOp o a) []

/-- The SYNC_LINK endpoints of an object in the running step's section (R325). -/
def linksOf (hh : Hearth) (st : Step) (obj : Nat) : List (Nat × Nat × EpD) :=
  (secEps hh st.ctx st.ran).filterMap (fun x =>
    let d := epOf x.2.body
    if d.kind = 7 ∧ d.loc = obj then some (x.1, x.2.home, d) else none)

/-- JD_HSYNC_STATE of a hearth object (Table 7-8): LINKED counts its SYNC_LINK endpoints in the running step (R325). -/
def hsyncState (hh : Hearth) (obj : Nat) : Nat :=
  let o := hsyncAt hh obj
  let linked := match runStep hh with | some st => (linksOf hh st obj).length | none => 0
  o.gen.toNat * 2 ^ 48 + o.value % 65536 * 2 ^ 32 + o.waiting.length % 65536 * 2 ^ 16 + min 15 linked

/-- An ENABLED child of a SYNC_LINK endpoint: its table index, module and hearth. -/
def linkChildren (hh : Hearth) (d : EpD) : List (Nat × Nat × Nat) :=
  (List.range d.senders).filterMap (fun i =>
    let w := hNum hh (d.lay.base + 8 * i) 8
    if nbit w 63 then some (i, nbits w 17 0, nbits w 21 18) else none)

/-- A release of a barrier (R224): every waiting operation is granted, and every child of every SYNC_LINK endpoint gets a
SYNC_RELEASE (R325). -/
def releaseHsync (e : Env) (hh : Hearth) (st : Step) (obj : Nat) : Hearth :=
  let o := hsyncAt hh obj
  let go := o.waiting.filter (fun w => w.2 != o.gen + 1)
  let hh := updHsync hh obj (fun o =>
    { o with value := 0, gen := o.gen + 1, arrivedUp := false, waiting := o.waiting.filter (fun w => w.2 == o.gen + 1) })
  let hh := { hh with grants := hh.grants ++ go.map (fun w => (w.1.unit, w.1.slot, w.1.tag.toNat)) }
  let hh := ledger hh (0x10000 + obj) 0 (wb (hsyncReg hh st.ctx obj) 47 32)
  (linksOf hh st obj).foldl (fun hh x =>
    let seen := (epAt hh x.1).arrived
    let hh := (linkChildren hh x.2.2).foldl (fun hh c =>
      let ep := match seen.find? (fun a => a.1 == c.1) with | some a => a.2 | none => 0
      sendCell e.h hh (.peer c.2.1 c.2.2) 7 1 1 ep 1 0 (leBytes 4 o.gen.toNat) (some x.1)) hh
    updEp hh x.1 (fun p => { p with arrived := [] })) hh

/-- One arrival at a hearth barrier (R224, R325). -/
def arriveHsync (e : Env) (st : Step) (obj : Nat) (hh : Hearth) (op : SyncOp) : Hearth :=
  let limit := wb (hsyncReg hh st.ctx obj) 47 32
  let hh := updHsync hh obj (fun o =>
    { o with value := o.value + 1, latch := mput none o.latch (opKey op) (some o.gen) })
  let hh := ledger hh (0x10000 + obj) 1 0
  let o := hsyncAt hh obj
  if o.value < limit then hh
  else
    match (linksOf hh st obj).find? (fun x => x.2.2.peerHearth != 0xF) with
    | none => releaseHsync e hh st obj
    | some x =>
      if o.arrivedUp then hh else
      sendCell e.h (updHsync hh obj (fun o => { o with arrivedUp := true })) (.peer x.2.2.peerModule x.2.2.peerHearth)
        6 0 1 x.2.2.peerEp 1 0 (leBytes 4 (o.gen.toNat + x.2.2.index % 4096 * 65536)) (some x.1)

/-- Serve acquires in order while VALUE is at least 1 (R226). -/
def serveAcquires (obj : Nat) (hh : Hearth) : Hearth :=
  let o := hsyncAt hh obj
  let go := o.waiting.take o.value
  let hh := updHsync hh obj (fun o => { o with value := o.value - go.length, waiting := o.waiting.drop go.length })
  ledger { hh with grants := hh.grants ++ go.map (fun w => (w.1.unit, w.1.slot, w.1.tag.toNat)) }
    (0x10000 + obj) 0 go.length

/-- A batch of operations at a hearth object (R226). -/
def hsyncBatch (e : Env) (hh : Hearth) (st : Step) (obj : Nat) (ops : List SyncOp) : Hearth :=
  let w := hsyncReg hh st.ctx obj
  let limit := wb w 47 32
  let o := hsyncAt hh obj
  let ops := sortOps ops
  match wb w 63 62 with
  | 1 =>
    match ops.find? (fun op => 1 < op.action) with
    | some op => syncFault e hh 8 op (0x100 + obj) o.value limit ops.length 0
    | none =>
      let hh := (ops.filter (fun op => op.action == 0)).foldl (arriveHsync e st obj) hh
      let g := (hsyncAt hh obj).gen
      let latch := (hsyncAt hh obj).latch
      let waits := (ops.filter (fun op => op.action == 1)).map (fun op => (op, (mget none latch (opKey op)).getD o.gen))
      let hh := updHsync hh obj (fun o => { o with waiting := o.waiting ++ waits })
      let go := (hsyncAt hh obj).waiting.filter (fun x => x.2 != g)
      { updHsync hh obj (fun o => { o with waiting := o.waiting.filter (fun x => x.2 == g) }) with
        grants := hh.grants ++ go.map (fun x => (x.1.unit, x.1.slot, x.1.tag.toNat)) }
  | 2 =>
    let up := ops.filter (fun op => op.action == 0 || op.action == 2)
    let down := ops.filter (fun op => op.action == 3)
    let add : Nat := up.foldl (fun a op => a + op.amount) 0
    let sub : Nat := down.foldl (fun a op => a + op.amount) 0
    let value : Int := (o.value : Int) + (add : Int) - (sub : Int)
    let net : Int := (add : Int) - (sub : Int)
    if (limit : Int) < value then
      match up with
      | op :: _ => syncFault e hh 9 op (0x100 + obj) o.value limit ops.length net
      | [] => hh
    else if value < 0 then
      match down with
      | op :: _ => syncFault e hh 10 op (0x100 + obj) o.value limit ops.length net
      | [] => hh
    else
      let hh := updHsync hh obj (fun o => { o with
        value := value.toNat, waiting := o.waiting ++ (ops.filter (fun op => op.action == 1)).map (fun op => (op, (0 : W16))) })
      serveAcquires obj (ledger hh (0x10000 + obj) add sub)
  | _ =>
    match ops with
    | op :: _ => syncFault e hh 8 op (0x100 + obj) o.value limit ops.length 0
    | [] => hh

/-- The states of a step in which its sync objects act: RUNNING, and HALTING while its traffic drains (R342). -/
def syncState (st : Step) : Bool := st.state == .running || st.state == .halting

/-- HSYNC_BATCH: the next n operations on their way to an object reach it in one network cycle (R226). -/
def execHsyncBatch (h obj n : Nat) (s : State) : Host.Outcome State Fault Refusal :=
  hearthEvent s h (fun e hh =>
    match runStep hh with
    | none => hh
    | some st =>
      let ops := (hsyncAt hh obj).inbox.take n
      if !syncState st ∨ ops = [] then hh else
      hsyncBatch e (updHsync hh obj (fun o => { o with inbox := o.inbox.drop n })) st obj ops)

/-- SYNC_GRANT_ARRIVAL: a grant reaches the unit that waits (R226 step 4). -/
def execSyncGrantArrival (h : Nat) (unit : UnitRef) (slot : Nat) (s : State) : Host.Outcome State Fault Refusal :=
  hearthEvent s h (fun _ hh =>
    match hh.grants.findIdx? (fun g => g.1 == unit && g.2.1 == slot) with
    | none => hh
    | some i =>
      let tag := BitVec.ofNat 16 ((hh.grants[i]?.map (fun g => g.2.2)).getD 0)
      let hh := { hh with grants := hh.grants.eraseIdx i }
      match unit.kind.toNat, tileOfId unit.id.toNat with
      | 1, some v => updTile hh v (fun t => { t with
          waitSlots := t.waitSlots.map (fun x => if x.1 = slot ∧ x.2.1 = tag then (x.1, x.2.1, true) else x) })
      | 2, _ => updThread hh unit.id.toNat (fun t => { t with waited := true, waiting := false })
      | _, _ => hh)

/-- A TIMEOUT_SYNC of a wait or acquire ends the step (R227). -/
def waitTimeout (e : Env) (hh : Hearth) (u : UnitRef) (slot : Nat) (tag : W16) (object value limit : Nat) (gen : W16) :
    Hearth :=
  unitFault e (tileFault hh u 0x4) 0x0051 u tag .timeoutSync (faultDetail 7 u tag slot 0xFF
    [(0x0A, 1, 1), (0x10, 2, value), (0x12, 2, limit), (0x14, 2, gen.toNat)] object)

/-- SYNC_WAIT_TIMEOUT (R227). -/
def execSyncWaitTimeout (h : Nat) (unit : UnitRef) (slot : Nat) (s : State) : Host.Outcome State Fault Refusal :=
  hearthEvent s h (fun e hh =>
    match runStep hh with
    | none => hh
    | some st =>
      if st.state ≠ .running ∨ !unitInSec hh st.ctx st.ran unit then hh else
      let far (obj : Nat) (slot : Nat) (tag : W16) : Hearth :=
        let o := hsyncAt hh obj
        waitTimeout e hh unit slot tag (0x100 + obj) o.value (wb (hsyncReg hh st.ctx obj) 47 32) o.gen
      match unit.kind.toNat, tileOfId unit.id.toNat with
      | 1, some v =>
        let t := tileAt hh v
        (match t.waitSlots.find? (fun x => x.1 == slot && !x.2.2) with
         | none => hh
         | some (_, tag, _) =>
           let n := syncObj t slot
           if 0x100 ≤ n then far (n - 0x100) slot tag
           else if waitOk t slot tag then hh
           else
             let o := mget {} t.syncs n
             waitTimeout e hh unit slot tag n o.value (wb (syncReg t n) 47 32) o.gen)
      | 2, _ =>
        let t := threadAt hh unit.id.toNat
        (match t.waiting, threadDesc hh st.ctx unit.id.toNat with
         | true, some d => far d.waitObj 0xFF t.curTag
         | _, _ => hh)
      | _, _ => hh)

end Sys2Proof.Machine
end

