-- ==== Sys2Proof/Machine/Arith.lean ====
section
/-! DEFINITION. What a firing computes: reduction units of MMA (R127 to R131), the groups that EMIT sends (R51), and the
function-tile operations (R54, R58, R82, R83, R91 to R93, R132, R133). -/

namespace Sys2Proof.Machine

/-! ### Tokens that a firing sends -/

/-- A tag group from rows of 16 values, each with its PRED bit (R72, R73). -/
def mkGroup (tag : W16) (stream : BitVec 5) (rows : List (List W32 × Bool)) : List Tok :=
  (List.range rows.length).map (fun i =>
    let r := rows.getD i ([], false)
    { tag := tag, stream := stream, pred := r.2, last := decide (i + 1 = rows.length), seq := BitVec.ofNat 8 i
      nar := r.1.any isNan32, data := packElems r.1 })

/-- STREAM of what a slot's firing sends: that of the first token of its lowest-numbered input (R73). The NaN units of an MMA count
in it too (R126). DESIGN CHOICE, log 121. -/
def slotStream (v : Nat) (t : Tile) (slot : Nat) (tag : W16) : BitVec 5 :=
  match opIns t slot with
  | n :: _ => (match groupAt v t n tag with | k :: _ => k.stream | [] => 0)
  | [] => 0

/-- Every NaN that a tile writes is the canonical one (R133, R137). -/
def canon (x : W32) : W32 := if isNan32 x then nan32 else x

/-- NaNs among words. -/
def nansOf (l : List W32) : Nat := (l.filter isNan32).length

/-! ### Matrix arithmetic -/

/-- Elements of a reduction unit (Table 4-10). -/
def unitElems (f : Nat) : Nat := if f = 2 ∨ f = 3 then 32 else 16

/-- Bytes of a unit with its scale (R127). -/
def unitBytes (f : Nat) : Nat := match f with | 0 => 5 | 1 => 9 | 2 => 33 | _ => 32

/-- Elements per lane and cycle (Table 2-3). -/
def laneElems (f : Nat) : Nat := match f with | 0 => 32 | 1 => 16 | 2 => 8 | 3 => 8 | _ => 2

/-- Elements of a coded token (Table 3-2). -/
def tokCodes (f : Nat) : Nat := 512 / (fmtOf f).bits

/-- The elements of a staged token, NaR in every element where it does not match the format (R83). -/
def stagedElems (f : Nat) (k : Tok) : List XVal :=
  let b := (fmtOf f).bits
  (List.range (tokCodes f)).map (fun i =>
    if k.payload = 1 ∧ k.format.toNat = f then decodeVal f (nbits k.data.toNat (b * i + b - 1) (b * i)) else .nan)

/-- The Scale8 bytes of a staged token, NaR where it does not match the format (R83). -/
def stagedScales (f : Nat) (k : Tok) : List Nat :=
  (List.range 64).map (fun i =>
    if k.payload = 2 ∧ k.format.toNat = f then nbits k.data.toNat (8 * i + 7) (8 * i) else 0xFF)

/-- Element tokens of a row of p tokens in the layout of R256: the others hold its Scale8. -/
def elemToks (f p : Nat) : Nat :=
  if !blockFmt f then p else
  (List.range (p + 1)).foldl (fun a n => if n + ceilDiv (n * (tokCodes f / blockSize f)) 64 ≤ p then n else a) 0

/-- Elements and scales of row r of a staged group of `rows` rows. A token that fits neither kind takes the place that its
position has in the row (R83). DEDUCED, log 34. -/
def stagedRow (f rows r : Nat) (g : List Tok) : List XVal × List Nat :=
  let p := g.length / max 1 rows
  let row := (g.drop (r * p)).take p
  let a := elemToks f p
  (List.range p).foldl (fun (x : List XVal × List Nat) i => match row[i]? with
    | none => x
    | some k =>
      if k.payload = 1 ∨ (k.payload ≠ 2 ∧ i < a) then (x.1 ++ stagedElems f k, x.2)
      else (x.1, x.2 ++ stagedScales f k)) ([], [])

/-- Units present in a staged row (R127): every element and scale place of its tokens counts as supplied. DESIGN CHOICE,
log 119. -/
def rowUnits (f : Nat) (x : List XVal × List Nat) : Nat :=
  let n := x.1.length / unitElems f
  if blockFmt f then min n x.2.length else n

/-- Units present in each column of a bank (R127). -/
def bankUnits (f : Nat) (b : Bank) : Nat := b.lines * 64 / max 1 b.cols / unitBytes f

/-- Elements and scales of column c of a bank: its units packed from the start of the column, then their scales (Table 2-4,
R254). A bank of another format is NaR throughout (R83). DEDUCED, log 34. -/
def bankCol (f : Nat) (b : Bank) (c : Nat) : List XVal × List Nat :=
  let u := bankUnits f b
  let base := c * u * unitBytes f
  let bytes (lo n : Nat) : List Byte := (List.range n).map (fun i => mget 0 b.data (base + lo + i))
  let n := runBytes f (u * unitElems f)
  if b.fmt.toNat ≠ f then (List.replicate (u * unitElems f) .nan, List.replicate u 0xFF)
  else ((unpackRun f (u * unitElems f) (bytes 0 n)).map (decodeVal f),
    if blockFmt f then (bytes n u).map (·.toNat) else [])

/-- The result of reduction unit j (Table 4-10, R128): the exact sum, scaled, rounded once. -/
def unitResult (f j : Nat) (a w : List XVal × List Nat) : W32 :=
  let n := unitElems f
  let xs := (a.1.drop (n * j)).take n
  let ys := (w.1.drop (n * j)).take n
  let sum := ((xs.zip ys).map (fun p => xMul p.1 p.2)).foldl xAdd (.fin ⟨0, 1⟩ false)
  if blockFmt f then
    let sa := a.2.getD j 0xFF
    let sw := w.2.getD j 0xFF
    if scaleNar sa ∨ scaleNar sw then nan32 else round32 (xScale (qMul (scaleVal sa) (scaleVal sw)) sum)
  else round32 sum

/-- What an MMA firing gives: the accumulators it sets, and its unit results that are NaN (R126, R131). -/
structure MmaOut where
  acc : List (Nat × W32)
  nans : Nat
  deriving DecidableEq, Repr

/-- The accumulator of row r, column c. -/
def accKey (r c : Nat) : Nat := 64 * r + c

/-- The results of an MMA slot (R131). With ZERO the whole of its rows is zeroed first (Table 2-8). -/
def mmaOut (v : Nat) (t : Tile) (slot : Nat) (tag : W16) : MmaOut :=
  let f := param t slot 0 1
  let zero := nbit (param t slot 1 1) 5
  let rows := param t slot 2 2
  let k0 := param t slot 4 2
  let kn := param t slot 6 2
  let r0 := param t slot 8 2
  let cols := param t slot 10 1
  let b := bankOfTile t (slotBank t slot)
  let g := match opIns t slot with | n :: _ => groupAt v t n tag | [] => []
  let ws := (List.range cols).map (fun c => if c < b.cols then bankCol f b c else ([], []))
  let wu := bankUnits f b
  let init : List (Nat × W32) := if zero then
      (List.range rows).flatMap (fun r => (List.range 64).map (fun c => (accKey (r0 + r) c, (0 : W32)))) else []
  (List.range rows).foldl (fun o r =>
    let a := stagedRow f rows r g
    let au := rowUnits f a
    (List.range cols).foldl (fun o c =>
      let w := ws.getD c ([], [])
      let us := (List.range kn).map (fun i =>
        let j := k0 + i
        if j < au ∧ j < wu ∧ c < b.cols then unitResult f j a w else nan32)
      let acc := if zero then 0 else mget 0 t.acc (accKey (r0 + r) c)
      { acc := o.acc ++ [(accKey (r0 + r) c, add32 acc (tree32 us))], nans := o.nans + nansOf us }) o)
    { acc := init, nans := 0 }

/-- STREAM of an EMIT: that of the staged rows of its tag (R73). -/
def emitStream (t : Tile) (slot : Nat) (tag : W16) : BitVec 5 :=
  let ins := (setBits 32 (param t slot 8 4)).flatMap (opIns t)
  match t.staging.find? (fun m => ins.contains m.inp && m.tok.tag == tag) with
  | some m => m.tok.stream
  | none => 0

/-- The group that an EMIT sends: its rows and columns in order, 16 values a token; what fills up the last token is a free
value of the key: the tile, the slot and the tag (R140). DESIGN CHOICE, log 24. -/
def emitGroup (t : Tile) (slot : Nat) (tag : W16) (key : Nat) : List Tok :=
  let r0 := param t slot 0 2
  let rows := param t slot 2 2
  let cols := param t slot 4 1
  let vals := (List.range rows).flatMap (fun r => (List.range cols).map (fun c => mget 0 t.acc (accKey (r0 + r) c)))
  let n := ceilDiv vals.length 16
  let all := vals ++ (List.range (16 * n - vals.length)).map (fun i => canon (Config.emitPad key i))
  mkGroup tag (emitStream t slot tag) ((List.range n).map (fun i => ((all.drop (16 * i)).take 16, false)))

/-! ### Function-tile arithmetic -/

/-- A stream operand's values: a token of another kind reads as 16 NaNs (R83). -/
def tokValues (k : Tok) : List W32 := if k.payload = 0 then elems32 k.data else List.replicate 16 nan32

/-- Local-store line l. -/
def lineValues (t : Tile) (l : Nat) : List W32 := (List.range 16).map (fun j => mget 0 t.store (lineAt l + j))

/-- The COUNT rows of an operand: its stream's tokens in order, or COUNT lines from the one it names (R58). -/
def operandRows (v : Nat) (t : Tile) (sel count : Nat) (tag : W16) : List (List W32) :=
  if nbit sel 15 then (List.range count).map (fun i => lineValues t (sel % 2048 + i))
  else (groupAt v t (sel % 16) tag).map tokValues

/-- Counts of tokens of an operand that were read as NaNs: (stream, NaNs, flushes) (Table 4-8). A token that two operands of a
firing name counts for each. DESIGN CHOICE, log 120. -/
def operandCounts (v : Nat) (t : Tile) (sel : Nat) (tag : W16) : List (Nat × Nat × Nat) :=
  if nbit sel 15 then [] else
  ((groupAt v t (sel % 16) tag).filter (fun k => k.payload != 0)).map (fun k => (k.stream.toNat, 16, 0))

/-- VBIN's operations. -/
def binOp (op : Nat) (a b : W32) : W32 :=
  match op with
  | 0 => add32 a b
  | 1 => sub32 a b
  | 2 => mul32 a b
  | 3 => max32 a b
  | 4 => min32 a b
  | 5 => bool32 (less32 a b)
  | _ => bool32 (equal32 a b)

/-- REDUCE's kinds over values in order (R54). -/
def reduceList (kind : Nat) (l : List W32) : W32 :=
  match kind, l with
  | _, [] => 0
  | 0, l => canon (tree32 l)
  | 1, x :: l => l.foldl max32 (canon x)
  | 2, x :: l => l.foldl min32 (canon x)
  | _, x :: l => l.foldl (fun a y => max32 a (abs32 y)) (abs32 x)

/-- The rows that REDUCE gives (R54). -/
def reduceRows (kind mode : Nat) (rows : List (List W32)) : List (List W32) :=
  if mode = 1 then [reduceList kind (rows.flatMap id) :: List.replicate 15 0]
  else [(List.range 16).map (fun j => reduceList kind (rows.map (fun r => r.getD j 0)))]

/-- What a function-tile slot computes: its rows with PRED bits, where they go (a local-store line, or the outputs), and
special-function flushes. -/
structure FnOut where
  rows : List (List W32 × Bool) := []
  line : Option Nat := none
  flushes : Nat := 0
  deriving DecidableEq, Repr

/-- Operand D of a slot: a local-store line, or a stream. -/
def dLine (t : Tile) (slot : Nat) : Option Nat := if dStream t slot then none else some (param t slot 6 2 % 2048)

/-- VFMA: D = A × B + C, rounded once (R132). -/
def vfmaOut (v : Nat) (t : Tile) (slot : Nat) (tag : W16) : FnOut :=
  let n := opCount t slot
  let a := operandRows v t (param t slot 0 2) n tag
  let b := operandRows v t (param t slot 2 2) n tag
  let c := operandRows v t (param t slot 4 2) n tag
  { rows := (List.range n).map (fun i => ((List.range 16).map (fun j =>
      fma32 ((a.getD i []).getD j 0) ((b.getD i []).getD j 0) ((c.getD i []).getD j 0)), false))
    line := dLine t slot }

/-- VBIN (R93, R132): OP 5 and 6 put the result of element 0 into PRED. -/
def vbinOut (v : Nat) (t : Tile) (slot : Nat) (tag : W16) : FnOut :=
  let n := opCount t slot
  let op := param t slot 0 1
  let a := operandRows v t (param t slot 2 2) n tag
  let b := operandRows v t (param t slot 4 2) n tag
  { rows := (List.range n).map (fun i =>
      let r := (List.range 16).map (fun j => binOp op ((a.getD i []).getD j 0) ((b.getD i []).getD j 0))
      (r, decide (5 ≤ op) && r.getD 0 0 == 0x3F800000))
    line := dLine t slot }

/-- SFU (R53). -/
def sfuOut (v : Nat) (t : Tile) (slot : Nat) (tag : W16) : FnOut :=
  let a := operandRows v t (param t slot 2 2) (opCount t slot) tag
  let r := a.map (fun row => row.map (sfu32 (param t slot 0 1)))
  { rows := r.map (fun row => (row.map (·.1), false)), line := dLine t slot
    flushes := r.foldl (fun n row => n + (row.filter (·.2)).length) 0 }

/-- REDUCE (R54): one token. -/
def reduceOut (v : Nat) (t : Tile) (slot : Nat) (tag : W16) : FnOut :=
  let a := operandRows v t (param t slot 2 2) (opCount t slot) tag
  { rows := (reduceRows (param t slot 0 1) (param t slot 1 1) a).map (fun r => (r, false)), line := dLine t slot }

/-- The tokens that STEER sends (R91): the selected group, with the predicate. It passes tokens of every kind (R83). -/
def steerGroup (v : Nat) (t : Tile) (slot : Nat) (tag : W16) : List Tok :=
  let p := (groupAt v t (param t slot 0 1) tag).any (fun k => k.last && k.pred)
  let st := slotStream v t slot tag
  (groupAt v t (if p then param t slot 1 1 else param t slot 2 1) tag).map (fun k =>
    let k : Tok := { k with
      tag := tag, pred := p, stream := st, format := 0, rotated := false, clipped := false, blockNar := 0, nar := false }
    if k.payload = 0 then
      let l := (elems32 k.data).map canon
      { k with data := packElems l, nar := l.any isNan32 }
    else k)

/-- The words of a token that MOVE writes into a line: those of PAYLOAD 0 with their NaNs canonical, others as they are. -/
def moveWords (k : Tok) : List W32 := if k.payload = 0 then (elems32 k.data).map canon else elems32 k.data

end Sys2Proof.Machine
end

