-- ==== Sys2Proof/Machine/Firing.lean ====
section
/-! DEFINITION. Firings of compute tiles (R74 to R83): their start, their end, and the commands of Table 2-8. -/

namespace Sys2Proof.Machine

/-! ### The start of a firing -/

/-- The first stream operand whose group is not COUNT tokens (R82): input, COUNT and tokens seen. -/
def shortGroup (v : Nat) (t : Tile) (slot : Nat) (tag : W16) : Option (Nat × Nat × Nat) :=
  if !counted (opCode t slot) then none else
  (streamOperands t slot).findSome? (fun n =>
    let k := (groupAt v t n tag).length
    if k = opCount t slot then none else some (n, opCount t slot, k))

/-- A firing of slot s for tag u still counts: the tag is open at an input that the slot names (R78), an EMIT that the slot is or
that depends on it is not resolved (R49), or an MMA slot over the same rows has not fired for the tag (R80). -/
def firedCounts (t : Tile) (s : Nat) (u : W16) : Bool :=
  (opIns t s).any (fun n => (inLive t n).opened.contains u)
    || t.emits.any (fun x => x.2.1 == u && (x.1 == s || nbit (param t x.1 8 4) s))
    || (opCode t s == 0x01 && (slotsOn t).any (fun q => q != s && opCode t q == 0x01 && rowsMeet t s q && !hasFired t q u))

/-- Remember that a slot has fired for a tag; firings that no longer count are forgotten. -/
def noteFired (t : Tile) (slot : Nat) (tag : W16) : Tile :=
  { t with
    fired := t.fired.filter (fun x => x != (slot, tag) && firedCounts t x.1 x.2) ++ [(slot, tag)]
    fireNo := if opIns t slot = [] then mupd 0 t.fireNo slot (· + 1) else t.fireNo }

/-- The groups that this firing was the last to read are consumed (R78). -/
def consumeRead (hh : Hearth) (v slot : Nat) (tag : W16) : Hearth :=
  (opIns (tileAt hh v) slot).foldl (fun hh n =>
    let t := tileAt hh v
    if (slotsNaming t n).all (fun q => hasFired t q tag) then consume hh v n tag else hh) hh

/-- The EMITs that depend on an MMA slot keep its bank and its rows from now on (R49). -/
def noteEmits (t : Tile) (slot : Nat) (tag : W16) : Tile :=
  let es := (slotsOn t).filter (fun q => opCode t q == 0x02 && nbit (param t q 8 4) slot)
  let new := (es.map (fun q => (q, tag, slotBank t slot))).filter (fun x => !t.emits.contains x)
  { t with emits := t.emits ++ new }

/-- The state of a bank. -/
def setBank (t : Tile) (b : Nat) (f : Bank → Bank) : Tile :=
  if b = 0 then { t with bank0 := f t.bank0 } else { t with bank1 := f t.bank1 }

/-- The firing starts: it takes all of its credits, reads everything it uses, and consumes the groups it was the last to read
(R77, R78, R207). It runs at the hearth's clock step of this moment to its end (R29). -/
def beginFiring (hh : Hearth) (v slot : Nat) (tag : W16) (f : Firing) : Hearth :=
  let hh := f.outs.foldl (fun hh o => takeCredits hh (tileRef v) o.1 o.2.length) hh
  let hh := updTile hh v (fun t => noteFired t slot tag)
  let hh := updTile hh v (fun t =>
    match f.op with
    | 0x01 => setBank (noteEmits t slot tag) (slotBank t slot) (fun b => { b with st := .inUse })
    | 0x03 => setBank t (slotBank t slot) (fun b =>
        { b with st := .loading, fmt := BitVec.ofNat 3 (param t slot 0 1), cols := param t slot 2 2
                 want := param t slot 4 2, lines := 0, data := [], release := false
                 src := param t slot 8 8 % 2 ^ 40, tag := tag })
    | _ => t)
  let hh := consumeRead hh v slot tag
  updTile hh v (fun t => { t with cur := some { f with clk := hh.clkStep, began := hh.timeBase } })

/-- A slot starts its firing for a tag if R74 and R76 choose it now; a group of the wrong size ends the step (R82). -/
def startFiring (e : Env) (hh : Hearth) (v slot : Nat) (tag : W16) (code : Nat) (mk : Tile → Firing) : Hearth :=
  match tileStep hh v with
  | none => hh
  | some st =>
    let t := tileAt hh v
    if !mayStart t st ∨ opCode t slot ≠ code ∨ nextFiring v t st ≠ some (slot, tag) then hh
    else match shortGroup v t slot tag with
      | some (n, count, seen) => groupFault e hh 1 (tileRef v) tag slot n count seen 0
      | none => beginFiring hh v slot tag (mk t)

/-- Start as a command: the tag is the command's. -/
def fireAs (h v slot tag code : Nat) (mk : Env → Tile → W16 → Firing) (s : State) : Host.Outcome State Fault Refusal :=
  hearthEvent s h (fun e hh =>
    startFiring e hh v slot (BitVec.ofNat 16 tag) code (fun t => mk e t (BitVec.ofNat 16 tag)))

/-! ### The commands -/

/-- MMA (R51, R131). -/
def execMma (h v slot tag : Nat) (s : State) : Host.Outcome State Fault Refusal :=
  fireAs h v slot tag 0x01 (fun _ t g =>
    let o := mmaOut v t slot g
    let f := param t slot 0 1
    { slot := slot, tag := g, op := 0x01, acc := o.acc
      counts := [((slotStream v t slot g).toNat, o.nans, 0)]
      releaseBank := if nbit (param t slot 1 1) 4 then some (slotBank t slot) else none
      len := param t slot 2 2 * ceilDiv (param t slot 6 2 * unitElems f) (laneElems f) + 12 }) s

/-- EMIT (R51): CLEAR zeroes its rows after sending. -/
def execEmit (h v slot tag : Nat) (s : State) : Host.Outcome State Fault Refusal :=
  hearthEvent s h (fun e hh =>
    startFiring e hh v slot (BitVec.ofNat 16 tag) 0x02 (fun t =>
      let g := BitVec.ofNat 16 tag
      let toks := emitGroup t slot g (((g.toNat * 32 + slot) * 480 + v) * 16 + e.h)
      let r0 := param t slot 0 2
      { slot := slot, tag := g, op := 0x02, outs := (opOuts t slot).map (fun o => (o, toks))
        acc := if nbit (param t slot 5 1) 0 then
            (List.range (param t slot 2 2)).flatMap (fun r => (List.range 64).map (fun c => (accKey (r0 + r) c, (0 : W32))))
          else []
        len := toks.length * (if 32 < hh.clkStep then 2 else 1) + 4 }))

/-- WLOAD: the bank is LOADING from here on; the load is a transfer (R48, Table 3-3). -/
def execWload (h v slot tag : Nat) (s : State) : Host.Outcome State Fault Refusal :=
  fireAs h v slot tag 0x03 (fun _ _ g => { slot := slot, tag := g, op := 0x03, len := 2 }) s

/-- Extra cycles of local-store operands beyond two (Table 3-3). -/
def localExtra (t : Tile) (slot : Nat) : Nat :=
  (((readSels t slot).filter (fun x => nbit x 15)).length - 2) * ceilDiv (opCount t slot) 8

/-- The firing of a vector operation: its rows go to the outputs or to the local store, its NaNs and flushes are counted
(R82, R126). -/
def vectorFiring (v : Nat) (t : Tile) (slot : Nat) (tag : W16) (code len : Nat) (o : FnOut) : Firing :=
  let st := slotStream v t slot tag
  let toks := mkGroup tag st o.rows
  let nans := o.rows.foldl (fun n r => n + nansOf r.1) 0
  { slot := slot, tag := tag, op := code
    outs := if o.line.isNone then (opOuts t slot).map (fun n => (n, toks)) else []
    store := match o.line with
      | some l => (List.range o.rows.length).flatMap (fun i => (List.range 16).map (fun j =>
          (lineAt (l + i) + j, (o.rows.getD i ([], false)).1.getD j 0)))
      | none => []
    counts := (readSels t slot).flatMap (fun x => operandCounts v t x tag) ++ [(st.toNat, nans, o.flushes)]
    len := len + localExtra t slot }

/-- VFMA. -/
def execVfma (h v slot tag : Nat) (s : State) : Host.Outcome State Fault Refusal :=
  fireAs h v slot tag 0x10 (fun _ t g =>
    vectorFiring v t slot g 0x10 (ceilDiv (opCount t slot) 4 + 6) (vfmaOut v t slot g)) s

/-- VBIN. -/
def execVbin (h v slot tag : Nat) (s : State) : Host.Outcome State Fault Refusal :=
  fireAs h v slot tag 0x11 (fun _ t g =>
    vectorFiring v t slot g 0x11 (ceilDiv (opCount t slot) 4 + 4) (vbinOut v t slot g)) s

/-- SFU. -/
def execSfu (h v slot tag : Nat) (s : State) : Host.Outcome State Fault Refusal :=
  fireAs h v slot tag 0x12 (fun _ t g => vectorFiring v t slot g 0x12 (opCount t slot + 8) (sfuOut v t slot g)) s

/-- REDUCE. -/
def execReduce (h v slot tag : Nat) (s : State) : Host.Outcome State Fault Refusal :=
  fireAs h v slot tag 0x13 (fun _ t g =>
    vectorFiring v t slot g 0x13 (ceilDiv (opCount t slot) 4 + 8 + if param t slot 1 1 = 1 then 4 else 0)
      (reduceOut v t slot g)) s

/-- STEER (R91). -/
def execSteer (h v slot tag : Nat) (s : State) : Host.Outcome State Fault Refusal :=
  fireAs h v slot tag 0x14 (fun _ t g =>
    let toks := steerGroup v t slot g
    { slot := slot, tag := g, op := 0x14, outs := (opOuts t slot).map (fun n => (n, toks))
      counts := [((slotStream v t slot g).toNat,
        toks.foldl (fun n k => if k.payload = 0 then n + nansOf (elems32 k.data) else n) 0, 0)]
      len := toks.length + 2 }) s

/-- MOVE (R58): a stream into the local store, or the local store to the outputs. -/
def execMove (h v slot tag : Nat) (s : State) : Host.Outcome State Fault Refusal :=
  fireAs h v slot tag 0x15 (fun _ t g =>
    let n := opCount t slot
    let l := param t slot 4 2 % 2048
    if param t slot 0 1 = 1 then
      vectorFiring v t slot g 0x15 (ceilDiv n 4 + 2)
        { rows := (List.range n).map (fun i => ((lineValues t (l + i)).map canon, false)) }
    else
      let grp := groupAt v t (param t slot 2 2 % 16) g
      { slot := slot, tag := g, op := 0x15
        store := (List.range grp.length).flatMap (fun i => match grp[i]? with
          | some k => (List.range 16).map (fun j => (lineAt (l + i) + j, (moveWords k).getD j 0))
          | none => [])
        counts := [((slotStream v t slot g).toNat,
          grp.foldl (fun c k => if k.payload = 0 then c + nansOf (elems32 k.data) else c) 0, 0)]
        len := ceilDiv n 4 + 2 }) s

/-- A SYNC firing with one action. -/
def syncFire (h v slot tag action : Nat) (s : State) : Host.Outcome State Fault Refusal :=
  hearthEvent s h (fun e hh =>
    if param (tileAt hh v) slot 0 1 ≠ action then hh else
    startFiring e hh v slot (BitVec.ofNat 16 tag) 0x20 (fun _ =>
      { slot := slot, tag := BitVec.ofNat 16 tag, op := 0x20, len := 2 }))

/-- SYNC arrive. -/
def execSyncOpArrive (h v slot tag : Nat) (s : State) : Host.Outcome State Fault Refusal := syncFire h v slot tag 0 s

/-- SYNC increment. -/
def execSyncOpIncrement (h v slot tag : Nat) (s : State) : Host.Outcome State Fault Refusal := syncFire h v slot tag 2 s

/-- SYNC decrement. -/
def execSyncOpDecrement (h v slot tag : Nat) (s : State) : Host.Outcome State Fault Refusal := syncFire h v slot tag 3 s

/-- A wait becomes ready in every other condition of R74 (R227): it is registered at its object, and a barrier with no
earlier arrive of the unit latches its generation (R224). -/
def beginWait (hh : Hearth) (v slot : Nat) (tag : W16) : Hearth :=
  let t := tileAt hh v
  let n := syncObj t slot
  let hh := updTile hh v (fun t => { t with waitSlots := t.waitSlots ++ [(slot, tag, false)] })
  if 0x100 ≤ n then
    updHsync hh (n - 0x100) (fun o => { o with inbox := o.inbox ++ [{ slotOp v t slot tag with amount := 1 }] })
  else
    updTile hh v (fun t => { t with syncs := mupd {} t.syncs n (fun o =>
      { o with
        waiters := o.waiters + 1
        latch := if (mget none o.latch 0).isNone then mput none o.latch (slot + 1) (some o.gen) else o.latch }) })

/-- SYNC wait or acquire: it starts when its object permits; until then it is a registered wait. -/
def execSyncOpWait (h v slot tag : Nat) (s : State) : Host.Outcome State Fault Refusal :=
  hearthEvent s h (fun e hh =>
    let g := BitVec.ofNat 16 tag
    let t := tileAt hh v
    match tileStep hh v with
    | none => hh
    | some st =>
      if opCode t slot ≠ 0x20 ∨ param t slot 0 1 ≠ 1 then hh
      else if missing v t slot g = some .sync then
        if t.state = .running ∧ st.state = .running ∧ (candTags t st slot).contains g ∧
            !t.waitSlots.any (fun x => x.1 == slot && x.2.1 == g) then beginWait hh v slot g
        else hh
      else startFiring e hh v slot g 0x20 (fun _ => { slot := slot, tag := g, op := 0x20, len := 2 }))

/-! ### The end of a firing -/

/-- A SYNC firing acts at its end: on its tile object, or by an operation sent to a hearth object. -/
def endSync (e : Env) (hh : Hearth) (v slot : Nat) (tag : W16) : Hearth :=
  let t := tileAt hh v
  let n := syncObj t slot
  if n < 0x100 then tileSync e hh v slot tag
  else if param t slot 0 1 = 1 then updTile hh v (fun t => endWait t slot tag)
  else updHsync hh (n - 0x100) (fun o => { o with inbox := o.inbox ++ [slotOp v t slot tag] })

/-- The reader of an output checks what a matrix tile sends it (R57, R262). -/
def readerChecks (hh : Hearth) (v o : Nat) : Bool :=
  match destOf hh (tileRef v) o with
  | none => false
  | some (r, n) =>
    match r.kind.toNat, tileOfId r.id.toNat with
    | 1, some w => isFn w && checkOn (tileAt hh w) n
    | 2, _ => (match runStep hh with
        | some st => (threadDesc hh st.ctx r.id.toNat).any (fun d => d.mode == 1 && d.checkEn)
        | none => false)
    | _, _ => false

/-- A firing delivers everything it computed (R77). -/
def deliver (e : Env) (hh : Hearth) (v cycles : Nat) (f : Firing) : Hearth :=
  let t0 := tileAt hh v
  let hh := updTile hh v (fun t => { t with
    cur := none
    acc := f.acc.foldl (fun m x => mput 0 m x.1 x.2) t.acc
    store := f.store.foldl (fun m x => mput 0 m x.1 x.2) t.store
    fireCount := (t.fireCount + 1) % 2 ^ 64, busyCycles := (t.busyCycles + cycles) % 2 ^ 64 })
  let hh := f.counts.foldl (fun hh c => updCal hh t0.active c.1 (countNar c.2.1 c.2.2)) hh
  let hh := f.outs.foldl (fun hh o =>
    if isFn v && checkOn t0 o.1 then o.2.foldl (fun hh k => observeTok hh t0.active k) hh else hh) hh
  let hh := match runStep hh with | some st => updStep hh st.id (fun x => { x with streak := 0 }) | none => hh
  let hh := f.outs.foldl (fun hh o => placeToks hh (tileRef v) o.1 o.2) hh
  match f.op with
  | 0x01 => updTile hh v (fun t => releaseBanks (match f.releaseBank with
      | some b => setBank t b (fun x => { x with release := true })
      | none => t))
  | 0x02 => if f.outs.any (fun o => readerChecks hh v o.1) then hh else resolveEmit hh v f.slot f.tag
  | 0x20 => endSync e hh v f.slot f.tag
  | _ => hh

/-- FIRING_END: a firing of `cycles` tile cycles ends (R79). Values that its checker flags are noted first; the firing
delivers when every flag is resolved (R417). -/
def execFiringEnd (h v cycles : Nat) (s : State) : Host.Outcome State Fault Refusal :=
  hearthEvent s h (fun e hh =>
    let t := tileAt hh v
    match t.cur, runStep hh with
    | some f, some st =>
      if (t.state ≠ .running ∧ t.state ≠ .frozen) ∨ !syncState st ∨ cycles < f.len ∨ 1024 < cycles then hh
      else if f.resolved then (if t.flags = [] then deliver e hh v cycles f else hh)
      else
        let flags := firingFlags hh v f
        if flags = [] then deliver e hh v cycles f
        else updTile hh v (fun t => { t with flags := flags, cur := some { f with resolved := true } })
    | _, _ => hh)

/-! ### Weight-bank loads -/

/-- BANK_LOAD_COMPLETE: the last line of a load has arrived (R47). A bad word or an absent address ends the step that the
tile runs (R234, R270). -/
def execBankLoadComplete (h v bank : Nat) (s : State) : Host.Outcome State Fault Refusal :=
  hearthEvent s h (fun e hh =>
    let t := tileAt hh v
    let b := bankOfTile t bank
    let n := 64 * b.want
    if b.st ≠ .loading ∨ 2 ≤ bank ∨ !tileEnabled hh v ∨
        t.cur.any (fun f => f.op == 0x03 && slotBank t f.slot == bank) then hh
    else
      let live := (runStep hh).any (fun st => tileInSec hh st.ctx st.ran v && syncState st)
      if !extentAny hh b.src n then (if live then addressFault e hh b.tag (tilePath v) b.src else hh)
      else
        let hh := correctRange e hh b.src n
        let bs := hBytes hh b.src n
        let hh := updTile hh v (fun t => setBank t bank (fun b =>
          { b with st := .ready, lines := b.want, data := memPuts [] 0 bs }))
        let bad := badWords hh b.src n
        if live then readFaults e hh (runStep hh) b.tag (tilePath v) bad else countBad e hh (tilePath v) bad)

end Sys2Proof.Machine
end

