-- ==== Sys2Proof/Machine/Rows.lean ====
section
/-! DEFINITION. Rows through a converter (R117 to R124, R148 to R158), the tokens they give (R256), and the control word
of a token (Table 3-1). Stoker threads and flue endpoints share them. -/

namespace Sys2Proof.Machine

/-! ### The control word -/

/-- The control word of a token. -/
def ctlWord (k : Tok) : Nat :=
  k.tag.toNat * 2 ^ 48 + b2n k.pred * 2 ^ 47 + k.stream.toNat * 2 ^ 42 + k.epoch.toNat * 2 ^ 38 + b2n k.last * 2 ^ 37
    + k.payload.toNat * 2 ^ 34 + k.format.toNat * 2 ^ 31 + b2n k.rotated * 2 ^ 30 + b2n k.clipped * 2 ^ 29
    + b2n k.nar * 2 ^ 28 + k.seq.toNat * 2 ^ 16 + k.blockNar.toNat

/-- The token of a control word and its payload. -/
def ctlTok (w : Nat) (data : BitVec 512) : Tok :=
  { tag := BitVec.ofNat 16 (nbits w 63 48), pred := nbit w 47, stream := BitVec.ofNat 5 (nbits w 46 42)
    epoch := BitVec.ofNat 4 (nbits w 41 38), last := nbit w 37, payload := BitVec.ofNat 3 (nbits w 36 34)
    format := BitVec.ofNat 3 (nbits w 33 31), rotated := nbit w 30, clipped := nbit w 29, nar := nbit w 28
    seq := BitVec.ofNat 8 (nbits w 23 16), blockNar := BitVec.ofNat 16 (nbits w 15 0), data := data }

/-- The 128 bytes of a token in a ring or a record (R100, R255). -/
def tokBytes (k : Tok) : List Byte := leBytes 64 k.data.toNat ++ leBytes 8 (ctlWord k) ++ zeros 56

/-- The token of 128 bytes. -/
def bytesTok (bs : List Byte) : Tok := ctlTok (ofLE ((bs.drop 64).take 8)) (BitVec.ofNat 512 (ofLE (bs.take 64)))

/-! ### Conversion of rows -/

/-- Replays in the place of elements (R421). -/
def redone {α : Type} (f : W32 → α) (redo : List (Nat × W32)) (l : List α) : List α :=
  redo.foldl (fun l x => l.set x.1 (f x.2)) l

/-- One row through a converter: a transfer from Flue32 to Flue32 passes unchanged, a target of Flue32 is a widening, any
other a narrowing (R148). `redo` are the row's replayed source values. -/
def convRow (src : Nat) (srcT : W32) (dst : Nat) (dstT : W32) (n : Narrow) (g : W32) (codes scales : List Nat)
    (em : List W16) (redo : List (Nat × W32) := []) : Narrowed :=
  if src = flue ∧ dst = flue then
    let codes := redone (·.toNat) redo codes
    { codes := codes, clips := codes.map (fun _ => false), nans := codes.map (fun c => isNan32 (BitVec.ofNat 32 c)) }
  else
    let x := redone f32 redo (exactRow src srcT codes scales)
    if dst = flue then
      let w := widenRow n x
      { codes := w.map (fun v => v.1.toNat), clips := w.map (·.2.1), nans := w.map (·.2.2) }
    else narrowRow dst dstT n g x em

/-- Count the events of a converted row (R126, R143). -/
def countRow (hh : Hearth) (c : Nat) (src dst stream : Nat) (r : Narrowed) : Hearth :=
  if src = flue ∧ dst = flue then hh
  else if dst = flue then
    updCal hh c stream (fun x => countClip (r.clips.filter id).length (countNar (r.nans.filter id).length 0 x))
  else updCal hh c stream (fun x => countNarrow x r)

/-! ### Ember buffers (R154 to R157) -/

/-- Set a range of a hearth's memory to zero bytes. -/
def hZero (hh : Hearth) (a n : Nat) : Hearth :=
  if n = 0 then hh else
  { hh with
    mem := hh.mem.filter (fun x => x.1 < a || a + n ≤ x.1)
    wild := unwild hh.wild a (a + n)
    errs := if hh.errs = [] then [] else
      (wordsOf a n).foldl (fun m w => mput (0, 0) m w (errAfterWrite hh a n w)) hh.errs }

/-- The header of an ember buffer matches (R155). -/
def emberMatches (hh : Hearth) (n : Narrow) (t : W32) (count : Nat) : Bool :=
  let w0 := hNum hh n.emberBase 8
  let w1 := hNum hh (n.emberBase + 8) 8
  nbits w0 63 62 == 1 && nbits w0 47 0 == count % 2 ^ 48 && nbit w0 48 == n.rot &&
    (!n.rot || nbits w1 47 32 == n.signs) && nbits w1 31 0 == t.toNat

/-- Before the first narrowing with ember carry in a step: a buffer that does not match starts from zero (R155). -/
def emberOpen (hh : Hearth) (c : Nat) (n : Narrow) (t : W32) (count : Nat) : Hearth :=
  if emberMatches hh n t count then hh else
  let hh := hZero hh (n.emberBase + 64) (2 * count)
  let hh := hWrite hh n.emberBase (leBytes 8 (2 ^ 62 + b2n n.rot * 2 ^ 48 + count % 2 ^ 48)
    ++ leBytes 8 (n.signs * 2 ^ 32 + t.toNat))
  updCal hh c n.stream (fun r => { r with emberReset := sat 64 (r.emberReset + 1) })

/-- n ember entries from entry k. -/
def emberRead (hh : Hearth) (n : Narrow) (k len : Nat) : List W16 :=
  (List.range len).map (fun i => BitVec.ofNat 16 (hNum hh (n.emberBase + 64 + 2 * (k + i)) 2))

/-- Write ember entries from entry k. -/
def emberWrite (hh : Hearth) (n : Narrow) (k : Nat) (l : List W16) : Hearth :=
  hWrite hh (n.emberBase + 64 + 2 * k) (l.flatMap (fun x => leBytes 2 x.toNat))

/-- Convert the rows of one tag slot: `base` is the number of the first element in the ember buffer. Answers what each row
gave. -/
def convRows (hh : Hearth) (c src : Nat) (srcT : W32) (dst : Nat) (dstT : W32) (n : Narrow) (ember : Bool) (base elems : Nat)
    (rows : List (List Nat × List Nat)) (redo : List (Nat × W32) := []) : Hearth × List Narrowed :=
  let g := (calOf hh c n.stream).latRatio
  (List.range rows.length).foldl (fun (a : Hearth × List Narrowed) r =>
    let (codes, scales) := rows.getD r ([], [])
    let k := base + r * elems
    let em := if ember then emberRead a.1 n k elems else []
    let mine := (redo.filter (fun x => r * elems ≤ x.1 && x.1 < (r + 1) * elems)).map (fun x => (x.1 - r * elems, x.2))
    let x := convRow src srcT dst dstT { n with ember := ember } g codes scales em mine
    let hh := countRow a.1 c src dst n.stream x
    (if ember then emberWrite hh n k x.ember else hh, a.2 ++ [x])) (hh, [])

/-! ### Tokens of a converted tag (R256) -/

/-- A token of a converter, before its place in the group is known. -/
def convTok (tag : W16) (n : Narrow) (payload fmt : Nat) (data : Nat) (rotated clipped nar : Bool) (blocks : Nat) : Tok :=
  { tag := tag, stream := BitVec.ofNat 5 n.stream, payload := BitVec.ofNat 3 payload, format := BitVec.ofNat 3 fmt
    rotated := rotated, clipped := clipped, nar := nar, blockNar := BitVec.ofNat 16 blocks, data := BitVec.ofNat 512 data }

/-- Number the tokens of a group and mark the last (R72). -/
def groupOf (l : List Tok) : List Tok :=
  (List.range l.length).filterMap (fun i => l[i]?.map (fun k =>
    { k with seq := BitVec.ofNat 8 i, last := decide (i + 1 = l.length) }))

/-- The tokens of rows in Flue32: one sequence of elements, 16 a token, padded with +0. -/
def flueTokens (tag : W16) (n : Narrow) (rows : List Narrowed) : List Tok :=
  let codes := rows.flatMap (·.codes)
  let clips := rows.flatMap (·.clips)
  let nans := rows.flatMap (·.nans)
  groupOf ((List.range (ceilDiv codes.length 16)).map (fun i =>
    convTok tag n 0 0 (((codes.drop (16 * i)).take 16).foldr (fun x a => x + 2 ^ 32 * a) 0) false
      (((clips.drop (16 * i)).take 16).any id) (((nans.drop (16 * i)).take 16).any id) 0))

/-- The tokens of one row in a coded format: PAYLOAD 1 tokens, then PAYLOAD 2 for a block-scaled format. -/
def codedTokens (tag : W16) (n : Narrow) (fmt : Nat) (r : Narrowed) : List Tok :=
  let e := tokCodes fmt
  let b := (fmtOf fmt).bits
  let per := e / blockSize fmt
  let elems := (List.range (ceilDiv r.codes.length e)).map (fun i =>
    let bad := if blockFmt fmt then
        maskOf ((List.range per).filter (fun j => scaleNar (r.scales.getD (per * i + j) 0))) else 0
    convTok tag n 1 fmt (((r.codes.drop (e * i)).take e).foldr (fun x a => x + 2 ^ b * a) 0) n.rot
      (((r.clips.drop (e * i)).take e).any id) (((r.nans.drop (e * i)).take e).any id || bad != 0) bad)
  let scales := (List.range (ceilDiv r.scales.length 64)).map (fun i =>
    let l := (r.scales.drop (64 * i)).take 64
    convTok tag n 2 fmt (l.foldr (fun x a => x + 256 * a) 0) n.rot false (l.any scaleNar) 0)
  elems ++ scales

/-- The tag group of a LOAD or a GET (R256). -/
def loadTokens (tag : W16) (n : Narrow) (fmt : Nat) (rows : List Narrowed) : List Tok :=
  if fmt = flue then flueTokens tag n rows else groupOf (rows.flatMap (codedTokens tag n fmt))

/-! ### Rows of a taken group (R257) -/

/-- The words of a group of Flue32 tokens: 16 NaNs for a token of another kind. -/
def groupWords (l : List Tok) : List W32 := l.flatMap tokValues

/-- Count the tokens of another kind in their streams (R126, R257). -/
def countStrange (hh : Hearth) (c : Nat) (l : List Tok) : Hearth :=
  (l.filter (fun k => k.payload != 0)).foldl (fun hh k => updCal hh c k.stream.toNat (countNar 16 0)) hh

/-- The rows of a group as Flue32 codes. -/
def groupRows (l : List Tok) (rows elems : Nat) : List (List Nat × List Nat) :=
  let ws := (groupWords l).map (·.toNat)
  (List.range rows).map (fun r => ((ws.drop (r * elems)).take elems, []))

/-- Tokens of a group of rows of Flue32 (R257). -/
def groupSize (rows elems : Nat) : Nat := ceilDiv (rows * elems) 16

end Sys2Proof.Machine
end

