-- ==== Sys2Proof/Machine/Stoker.lean ====
section
/-! DEFINITION. Stoker threads (R251 to R265): tags read, converted, sent, taken and written; waits and posts. -/

namespace Sys2Proof.Machine

/-! ### Reads -/

/-- A byte range of the LPDDR6 range. -/
def inLpddr (hh : Hearth) (a : Nat) : Bool := decide (a < topOf hh)

/-- The 256-byte units that ranges touch in LPDDR6, in order (R253). -/
def unitsOf (hh : Hearth) (l : List (Nat × Nat)) : List Nat :=
  (l.flatMap (fun x => if inLpddr hh x.1 ∧ 0 < x.2 then
    (List.range ((x.1 + x.2 - 1) / 256 + 1 - x.1 / 256)).map (fun i => 256 * (x.1 / 256 + i)) else [])).eraseDups

/-- The first range that is no whole extent of memory a thread may reach (R234). -/
def badRange (hh : Hearth) (l : List (Nat × Nat)) : Option Nat :=
  (l.find? (fun x => !extentAny hh x.1 x.2)).map (·.1)

/-- The ranges that a thread reads for the tag at position i: its rows, or a slot of its ring. -/
def readRanges (d : Stk) (t : Thread) (i : Nat) : List (Nat × Nat) :=
  let m := slotIdx d.mem i
  if d.mode = 2 then
    (match t.ring.find? (fun x => x.1 == i) with
     | some x => [(d.mem.base + m * d.mem.tagStride, 128 * x.2)]
     | none => [])
  else (List.range d.mem.rows).flatMap (rowRanges d.mem m)

/-- Bytes of a range, from the units that have come and from the slices. -/
def gotBytes (hh : Hearth) (got : List (Nat × BitVec 2048)) (a n : Nat) : List Byte :=
  (List.range n).map (fun i =>
    let x := a + i
    match got.find? (fun u => u.1 == x / 256 * 256) with
    | some u => u.2.extractLsb' (8 * (x % 256)) 8
    | none => hByte hh x)

/-- Issue requests for the units left, at most 8 outstanding (R59). -/
def issueReads (hh : Hearth) (u : Nat) : Hearth :=
  let t := threadAt hh u
  match t.fetch with
  | none => hh
  | some (left, got) =>
    let k := min left.length (8 - t.outstanding)
    let hh := updThread hh u (fun t => { t with fetch := some (left.drop k, got), outstanding := t.outstanding + k })
    { hh with reqs := hh.reqs ++ (left.take k).map (fun a => { who := threadRef u, aux := t.next, unitAddr := a, write := none }) }

/-- Begin to read the tag at position i. -/
def startFetch (e : Env) (hh : Hearth) (st : Step) (u : Nat) (d : Stk) : Hearth :=
  let t := threadAt hh u
  let tag := tagAt st t.next
  let l := readRanges d t t.next
  match badRange hh l with
  | some a => addressFault e hh tag (refPath (threadRef u)) a
  | none => issueReads (updThread hh u (fun t => { t with curTag := tag, waited := false, fetch := some (unitsOf hh l, []) })) u

/-- Writes of a thread that are not acknowledged. -/
def unackedCount (t : Thread) : Nat := t.unacked.foldl (fun a x => a + x.2) 0

/-- A thread's fetch is complete: no read of it is outstanding. -/
def fetched (t : Thread) : Option (List (Nat × BitVec 2048)) :=
  match t.fetch with
  | some ([], got) => if t.outstanding ≤ unackedCount t then some got else none
  | _ => none

/-- The slice lines that ranges touch: a read of part of a line reads the line (R253). -/
def slicesOf (hh : Hearth) (l : List (Nat × Nat)) : List (Nat × Nat) :=
  (l.filter (fun x => !inLpddr hh x.1 && x.2 != 0)).map (fun x => (x.1 / 64 * 64, (x.1 + x.2 + 63) / 64 * 64 - x.1 / 64 * 64))

/-- The bad words in the slice lines that a thread reads (R270). -/
def badSlices (hh : Hearth) (l : List (Nat × Nat)) : List (Nat × Bool) :=
  ((slicesOf hh l).flatMap (fun x => badWords hh x.1 x.2)).eraseDups

/-- Correct the single errors of slice lines. -/
def correctSlices (e : Env) (hh : Hearth) (l : List (Nat × Nat)) : Hearth :=
  (slicesOf hh l).foldl (fun hh x => correctRange e hh x.1 x.2) hh

/-- The rows of a tag slot as codes and scales. -/
def rowsRead (hh : Hearth) (d : Stk) (got : List (Nat × BitVec 2048)) (i : Nat) : List (List Nat × List Nat) :=
  let m := slotIdx d.mem i
  (List.range d.mem.rows).map (fun r =>
    (unpackRun d.mem.fmt d.mem.elems (gotBytes hh got (rowAddr d.mem m r) (rowElemBytes d.mem)),
     if rowScaleBytes d.mem = 0 then [] else
       (gotBytes hh got (scaleAddr d.mem m r) (rowScaleBytes d.mem)).map (·.toNat)))

/-! ### Sync objects (R259) -/

/-- The thread may start its next tag: it has waited, or names no object. -/
def waitedFor (d : Stk) (t : Thread) : Bool := d.waitObj == 0xFFFF || t.waited

/-- Tags that count as done: sent for LOAD, TRIGGER and RELAY, written for STORE and COPY (R259). -/
def tagsDone (d : Stk) (t : Thread) : Nat := if d.mode = 1 ∨ d.mode = 3 then t.donePre + t.done.length else t.next

/-- A post is due: after every POST_EVERY tags, and after the last. -/
def postDue (d : Stk) (st : Step) (t : Thread) : Bool :=
  d.postObj != 0xFFFF && decide (t.posted < st.n) &&
    (decide (t.posted + max 1 d.postEvery ≤ tagsDone d t) || decide (st.n ≤ tagsDone d t))

/-- A thread of the running step, with its descriptor: while the step is halted a thread does nothing new (R342). -/
def liveThread (hh : Hearth) (u : Nat) : Option (Step × Stk) :=
  match runStep hh with
  | none => none
  | some st =>
    if st.state ≠ .running ∨ !unitInSec hh st.ctx st.ran (threadRef u) then none
    else (threadDesc hh st.ctx u).map (fun d => (st, d))

/-- The mode of a hearth object. -/
def hsyncMode (hh : Hearth) (c obj : Nat) : Nat := wb (hsyncReg hh c obj) 63 62

/-- The thread starts a tag next: nothing of another is in its hands, and there is a tag to start. -/
def startsNext (hh : Hearth) (st : Step) (d : Stk) (t : Thread) : Option W16 :=
  match d.mode with
  | 1 => if t.part = [] ∧ t.held.isNone then t.buf.head?.map (·.tag) else none
  | 2 => if t.part = [] ∧ t.held.isNone then t.buf.head?.map (·.tag) else none
  | 3 => if t.next < st.n ∧ t.fetch.isNone ∧ t.held.isNone then some (tagAt st t.next) else none
  | _ => if mayIssue hh st t.next ∧ t.fetch.isNone ∧ t.toSend = [] then some (tagAt st t.next) else none

/-- STOKER_WAIT: before a tag the thread acquires or waits on WAIT_OBJ (R259). -/
def execStokerWait (h u : Nat) (s : State) : Host.Outcome State Fault Refusal :=
  hearthEvent s h (fun _ hh =>
    match liveThread hh u with
    | none => hh
    | some (st, d) =>
      let t := threadAt hh u
      if st.state ≠ .running ∨ d.waitObj = 0xFFFF ∨ t.waited ∨ t.waiting then hh else
      match startsNext hh st d t with
      | none => hh
      | some tag =>
        let hh := updThread hh u (fun t => { t with waiting := true, curTag := tag })
        updHsync hh d.waitObj (fun o => { o with
          inbox := o.inbox ++ [{ unit := threadRef u, slot := 0xFF, tag := tag, action := 1, amount := 1 }] }))

/-- STOKER_POST: a post to POST_OBJ after every POST_EVERY tags and after the last (R259). -/
def execStokerPost (h u : Nat) (s : State) : Host.Outcome State Fault Refusal :=
  hearthEvent s h (fun _ hh =>
    match liveThread hh u with
    | none => hh
    | some (st, d) =>
      let t := threadAt hh u
      if !postDue d st t then hh else
      let hh := updThread hh u (fun t => { t with posted := min st.n (t.posted + max 1 d.postEvery) })
      let barrier := hsyncMode hh st.ctx d.postObj == 1
      updHsync hh d.postObj (fun o => { o with
        inbox := o.inbox ++ [{ unit := threadRef u, slot := 0xFF, tag := t.curTag, action := if barrier then 0 else 2
                               amount := if barrier then 1 else d.postAmount }] }))

/-! ### Sending -/

/-- Send what credits allow of a thread's group; the tag is done when all of it is sent (R207, R259). -/
def sendThread (hh : Hearth) (u : Nat) : Hearth :=
  let t := threadAt hh u
  let k := min t.out.credits t.toSend.length
  if k = 0 then hh else
  let hh := sendToks hh (threadRef u) 0 (t.toSend.take k)
  updThread hh u (fun x =>
    { x with
      toSend := t.toSend.drop k
      next := if k = t.toSend.length then x.next + 1 else x.next })

/-- The group of a LOAD's tag, read and converted. -/
def loadGroup (e : Env) (hh : Hearth) (st : Step) (u : Nat) (d : Stk) (got : List (Nat × BitVec 2048)) : Hearth :=
  let t := threadAt hh u
  let tag := tagAt st t.next
  let l := readRanges d t t.next
  match badSlices hh l with
  | b :: bs => readFaults e hh (some st) tag (refPath (threadRef u)) (b :: bs)
  | [] =>
    let hh := correctSlices e hh l
    let rows := rowsRead hh d got t.next
    let em := stkEmber d
    let hh := if em ∧ !t.emberDone then
        updThread (emberOpen hh st.ctx d.nar d.tokT (emberCount d.mem st.n)) u (fun t => { t with emberDone := true }) else hh
    let (hh, out) := convRows hh st.ctx d.mem.fmt d.memT d.tokFmt d.tokT d.nar em
      (slotIdx d.mem t.next * d.mem.rows * d.mem.elems) d.mem.elems rows
    sendThread (updThread hh u (fun x => { x with fetch := none, toSend := loadTokens tag d.nar d.tokFmt out })) u

/-- STOKER_LOAD_TAG: the next stage of a LOAD's tag: its requests, its conversion, its tokens (R256). -/
def execStokerLoadTag (h u : Nat) (s : State) : Host.Outcome State Fault Refusal :=
  hearthEvent s h (fun e hh =>
    match liveThread hh u with
    | none => hh
    | some (st, d) =>
      let t := threadAt hh u
      if d.mode ≠ 0 then hh
      else if t.toSend ≠ [] then sendThread hh u
      else match t.fetch with
        | some _ => (match fetched t with
          | some got => loadGroup e hh st u d got
          | none => issueReads hh u)
        | none => if st.state = .running ∧ (startsNext hh st d t).isSome ∧ waitedFor d t then
            (let hh := startFetch e hh st u d
             match fetched (threadAt hh u), runStep hh with
             | some got, some st => loadGroup e hh st u d got
             | _, _ => hh)
          else hh)

/-- The token of a TRIGGER (R256). -/
def triggerTok (d : Stk) (tag : W16) : Tok :=
  { tag := tag, stream := BitVec.ofNat 5 d.nar.stream, payload := if d.trigKind then 3 else 4
    pred := d.trigKind && d.trigPred, last := true }

/-- STOKER_TRIGGER_TAG (R256). -/
def execStokerTriggerTag (h u : Nat) (s : State) : Host.Outcome State Fault Refusal :=
  hearthEvent s h (fun _ hh =>
    match liveThread hh u with
    | none => hh
    | some (st, d) =>
      let t := threadAt hh u
      if d.mode ≠ 4 then hh
      else if t.toSend ≠ [] then sendThread hh u
      else if st.state = .running ∧ (startsNext hh st d t).isSome ∧ waitedFor d t then
        let tag := tagAt st t.next
        sendThread (updThread hh u (fun t => { t with curTag := tag, waited := false, toSend := [triggerTok d tag] })) u
      else hh)

/-! ### Writes -/

/-- Pieces of a run that lie in one unit each. -/
def piecesAt : Nat → Nat → List Byte → List (Nat × List Byte)
  | 0, _, _ => []
  | _, _, [] => []
  | fuel + 1, a, bs =>
    let k := 256 - a % 256
    (a, bs.take k) :: piecesAt fuel (a + k) (bs.drop k)

/-- The pieces of a run. -/
def writePieces (a : Nat) (bs : List Byte) : List (Nat × List Byte) := piecesAt bs.length a bs

/-- One write is outstanding more for a position. -/
def addUnacked (l : List (Nat × Nat)) (i : Nat) : List (Nat × Nat) :=
  if l.any (fun x => x.1 == i) then l.map (fun x => if x.1 = i then (i, x.2 + 1) else x) else l ++ [(i, 1)]

/-- A tag of a STORE, COPY or RELAY is done once all its writes are acknowledged (R258, R259). -/
def tagWritten (hh : Hearth) (u i : Nat) : Hearth :=
  let t := threadAt hh u
  if t.held.any (fun x => x.pos == i) ∨ t.unacked.any (fun x => x.1 == i) then hh else
  updThread hh u (fun t =>
    let (p, l) := markDone t.donePre t.done i
    { t with donePre := p, done := l })

/-- Issue a thread's held writes: lines of slices at once, LPDDR6 units as requests, at most 8 outstanding (R59, R262). -/
def issueWrites (hh : Hearth) (u : Nat) : Nat → Hearth
  | 0 => hh
  | fuel + 1 =>
    let t := threadAt hh u
    match t.held with
    | none => hh
    | some x =>
      match x.writes with
      | [] => tagWritten (updThread hh u (fun t => { t with held := none })) u x.pos
      | (a, bs) :: rest =>
        let hh' := updThread hh u (fun t => { t with held := some { x with writes := rest } })
        if !inLpddr hh a then issueWrites (hWrite hh' a bs) u fuel
        else if 8 ≤ t.outstanding then hh
        else
          let hh' := updThread hh' u (fun t => { t with outstanding := t.outstanding + 1, unacked := addUnacked t.unacked x.pos })
          issueWrites { hh' with reqs := hh'.reqs ++
            [{ who := threadRef u, aux := x.pos, unitAddr := a / 256 * 256
               write := some ((List.range bs.length).map (fun i => (a + i, bs.getD i 0))) }] } u fuel

/-- The bytes of a converted row and its scales, at their addresses. -/
def rowWrites (a sa fmt : Nat) (r : Narrowed) : List (Nat × List Byte) :=
  writePieces a (packRun fmt r.codes) ++ writePieces sa (r.scales.map (BitVec.ofNat 8))

/-- The rows of a held tag of a STORE or COPY through the converter (R254, R257). -/
def convHeld (hh : Hearth) (c : Nat) (d : Stk) (x : HeldWrites) : Hearth × List Narrowed :=
  let base := slotIdx d.mem x.pos * d.mem.rows * d.mem.elems
  let rows := x.rows.getD []
  let (hh, out) :=
    if d.mode = 1 then
      convRows hh c flue d.memT d.mem.fmt d.memT d.nar (stkEmber d) base d.mem.elems rows x.redo
    else convRows hh c d.mem.fmt d.memT d.tokFmt d.tokT d.nar (stkEmber d) base d.mem.elems rows x.redo
  let per := rowBlocks (if d.mode = 1 then d.mem.fmt else d.tokFmt) d.mem.elems
  let size := blockSize (if d.mode = 1 then d.mem.fmt else d.tokFmt)
  (hh, (List.range out.length).map (fun r =>
    let y := out.getD r {}
    { y with scales := (List.range y.scales.length).map (fun j =>
        ((x.redoScale.find? (fun z => z.1 == (r * per + j) * size)).map (·.2)).getD (y.scales.getD j 0)) }))

/-- Where a STORE or COPY writes the rows of a tag (R253, R254). -/
def heldWrites (d : Stk) (pos : Nat) (out : List Narrowed) : List (Nat × List Byte) :=
  let m := slotIdx d.mem pos
  (List.range out.length).flatMap (fun r =>
    let y := out.getD r {}
    if d.mode = 1 then rowWrites (rowAddr d.mem m r) (scaleAddr d.mem m r) d.mem.fmt y
    else writePieces (copyAddr d m r) (packRun d.tokFmt y.codes ++ y.scales.map (BitVec.ofNat 8)))

/-- A thread's writes go on, once its checker has let them go: the tag is narrowed, its tokens are observed as they are delivered
(R143), and the EMIT they come from is resolved (R49). -/
def goOn (hh : Hearth) (c u : Nat) (d : Stk) : Hearth :=
  let t := threadAt hh u
  match t.held with
  | none => hh
  | some x =>
    if t.flags ≠ [] then hh else
    if x.rows.isNone then issueWrites hh u (x.writes.length + 1) else
    let (hh, out) := convHeld hh c d x
    let hh := if d.checkEn then
        let hh := x.toks.foldl (fun hh k => observeTok hh c k) hh
        if d.mode = 1 then resolveFrom hh ⟨1, BitVec.ofNat 16 d.src⟩ d.srcOut x.tag else hh
      else hh
    let ws := heldWrites d x.pos out
    issueWrites (updThread hh u (fun t => { t with held := some { tag := x.tag, pos := x.pos, writes := ws } })) u (ws.length + 1)

/-- Insert a violation by its place in the tag. -/
def insertViol (x : Viol) : List Viol → List Viol
  | [] => [x]
  | y :: l => if x.1 < y.1 then x :: y :: l else y :: insertViol x l

/-- What the write-path checker finds in a tag (R262, R416): values in Flue32 before narrowing, NaR elements written, Scale8,
and clips. The tag is one flag (R418; log 53). -/
def writeViols (b : Bounds) (ws : List W32) (out : List Narrowed) : List Viol :=
  let nans := out.flatMap (·.nans)
  let vals := (List.range ws.length).filterMap (fun i =>
    let w := ws.getD i 0
    match exceeds b w with
    | some x => some (i, i, w, x.1, x.2)
    | none => if nans.getD i false && !b.narOk then some (i, i, w, 3, 0) else none)
  let sc := out.flatMap (·.scales)
  let size := ceilDiv ws.length (max 1 sc.length)
  let scales := (List.range sc.length).filterMap (fun j =>
    let c := sc.getD j 0
    (exceedsScale b c).map (fun x => (j * size, j * size, BitVec.ofNat 32 c, x.1, x.2)))
  let clips := out.flatMap (·.clips)
  let cv := if clips = [] then [] else clipViol b (clips.filter id).length clips.length
  flagged ((vals ++ scales).foldl (fun l x => insertViol x l) [] ++ cv)

/-- The flags of a tag that a thread writes. -/
def writeFlags (hh : Hearth) (st : Step) (u : Nat) (d : Stk) (tag : W16) (stream : Nat) (ws : List W32)
    (out : List Narrowed) : List Flag :=
  if !d.checkEn then [] else
  let (lim, ctl) := mget (limReset, ctlReset) (mget {} hh.ctxs st.ctx).bounds d.checkIdx
  let b := boundsOf lim ctl d.checkLive (calOf hh st.ctx stream)
  let src : Option Nat := if d.mode = 1 then tileOfId d.src else none
  let prod : UnitRef := if d.mode = 1 then ⟨1, BitVec.ofNat 16 d.src⟩ else threadRef u
  (writeViols b ws out).map (flagOf (.writePath u) prod (u % 32) (if d.mode = 1 then d.srcOut else 0) tag b.live src)

/-- Hand the rows of a tag to the thread's write path: the checker judges their narrowing (R262), and holds them while a flag is
unresolved. -/
def holdTag (hh : Hearth) (st : Step) (u : Nat) (d : Stk) (tag : W16) (pos stream : Nat) (ws : List W32)
    (rows : List (List Nat × List Nat)) (toks : List Tok) : Hearth :=
  let x : HeldWrites := { tag := tag, pos := pos, rows := some rows, toks := if d.checkEn then toks else [] }
  let flags := writeFlags hh st u d tag stream ws (convHeld hh st.ctx d x).2
  goOn (updThread hh u (fun t => { t with held := some x, flags := flags })) st.ctx u d

/-- Take the tokens of the tag at the head of a thread's buffer, to the end of its group at most. -/
def takePart (t : Thread) : Thread :=
  match t.buf with
  | [] => t
  | k :: _ =>
    let tag := (t.part.head?.map (·.tag)).getD k.tag
    let run := t.buf.takeWhile (fun x => x.tag == tag)
    let n := match run.findIdx? (fun x => x.last) with | some i => i + 1 | none => run.length
    { t with part := t.part ++ run.take n, buf := t.buf.drop n, curTag := tag, waited := false }

/-- A group-size fault of a thread's input (R255, R257). -/
def threadGroupFault (e : Env) (hh : Hearth) (u : Nat) (tag : W16) (count seen : Nat) : Hearth :=
  groupFault e hh 2 (threadRef u) tag 0xFF 0xFF count seen 0

/-- A whole STORE group is converted and written (R257). -/
def storeGroup (hh : Hearth) (st : Step) (u : Nat) (d : Stk) (l : List Tok) : Hearth :=
  let tag := (l.head?.map (·.tag)).getD 0
  let stream := (l.head?.map (fun k => k.stream.toNat)).getD 0
  let pos := posNear hh st tag
  let t := threadAt hh u
  let hh := countStrange hh st.ctx l
  let hh := if stkEmber d ∧ !t.emberDone then
      updThread (emberOpen hh st.ctx d.nar d.memT (emberCount d.mem st.n)) u (fun t => { t with emberDone := true }) else hh
  holdTag (updThread hh u (fun t => { t with part := [] })) st u d tag pos stream
    ((groupWords l).take (d.mem.rows * d.mem.elems)) (groupRows l d.mem.rows d.mem.elems) l

/-- STOKER_STORE_TAG: the next stage of a STORE's tag: the group is taken, converted, checked and written (R257, R258). -/
def execStokerStoreTag (h u : Nat) (s : State) : Host.Outcome State Fault Refusal :=
  hearthEvent s h (fun e hh =>
    match liveThread hh u with
    | none => hh
    | some (st, d) =>
      let t := threadAt hh u
      if d.mode ≠ 1 then hh
      else if t.held.isSome then goOn hh st.ctx u d
      else if t.buf = [] ∨ (t.part = [] ∧ !waitedFor d t) then hh
      else
        let t' := takePart t
        let hh := updThread hh u (fun _ => t')
        let want := groupSize d.mem.rows d.mem.elems
        let n := t'.part.length
        let last := t'.part.any (·.last)
        let tag := t'.curTag
        if want < n ∨ (want = n ∧ !last) ∨ (n < want ∧ last) then threadGroupFault e hh u tag want n
        else if !last then hh
        else
          let m := slotIdx d.mem (posNear hh st tag)
          match badRange hh ((List.range d.mem.rows).flatMap (rowRanges d.mem m)) with
          | some a => addressFault e hh tag (refPath (threadRef u)) a
          | none => storeGroup hh st u d t'.part)

/-- The read data of a COPY's tag slot are all there: a bad word or an absent destination ends the step; else the slot is
converted, and checked and written as a STORE's tag is (R254, R262, R270). Its checker delivers no token and so observes nothing.
DESIGN CHOICE, log 124. -/
def copyGroup (e : Env) (hh : Hearth) (st : Step) (u : Nat) (d : Stk) (got : List (Nat × BitVec 2048)) : Hearth :=
  let t := threadAt hh u
  let i := t.next
  let tag := tagAt st i
  let m := slotIdx d.mem i
  let l := readRanges d t i
  let p := packedRow d.tokFmt d.mem.elems
  match badSlices hh l with
  | b :: bs => readFaults e hh (some st) tag (refPath (threadRef u)) (b :: bs)
  | [] =>
    if !extentAny hh (copyAddr d m 0) (d.mem.rows * p) then
      addressFault e hh tag (refPath (threadRef u)) (copyAddr d m 0)
    else
      let hh := correctSlices e hh l
      let rows := rowsRead hh d got i
      let hh := if stkEmber d ∧ !t.emberDone then
          updThread (emberOpen hh st.ctx d.nar d.tokT (emberCount d.mem st.n)) u (fun t => { t with emberDone := true })
        else hh
      let ws := rows.flatMap (fun r => (exactRow d.mem.fmt d.memT r.1 r.2).map round32)
      holdTag (updThread hh u (fun t => { t with fetch := none, next := t.next + 1 })) st u d tag i d.nar.stream ws rows []

/-- STOKER_COPY_TAG: the next stage of a COPY's tag slot (R254). -/
def execStokerCopyTag (h u : Nat) (s : State) : Host.Outcome State Fault Refusal :=
  hearthEvent s h (fun e hh =>
    match liveThread hh u with
    | none => hh
    | some (st, d) =>
      let t := threadAt hh u
      if d.mode ≠ 3 then hh
      else if t.held.isSome then goOn hh st.ctx u d
      else match t.fetch with
        | some _ => (match fetched t with
          | some got => copyGroup e hh st u d got
          | none => issueReads hh u)
        | none => if st.state = .running ∧ (startsNext hh st d t).isSome ∧ waitedFor d t then
            (let hh := startFetch e hh st u d
             match fetched (threadAt hh u), runStep hh with
             | some got, some st => copyGroup e hh st u d got
             | _, _ => hh)
          else hh)

/-! ### RELAY (R255, R258) -/

/-- The slot of position i is free: no tag in the ring occupies it. -/
def slotFree (d : Stk) (t : Thread) (i : Nat) : Bool := !t.ring.any (fun x => slotIdx d.mem x.1 == slotIdx d.mem i)

/-- Every tag of the batch that holds position i has arrived. -/
def batchReady (d : Stk) (st : Step) (t : Thread) (i : Nat) : Bool :=
  let b := max 1 d.batch
  let lo := i / b * b
  (List.range (min b (st.n - lo))).all (fun k => decide (lo + k < t.donePre) || t.done.contains (lo + k))

/-- A RELAY takes what has come of a tag while the tag's slot is free, retires the tag when its group is whole (R70), and writes
it into its slot. -/
def relayTake (e : Env) (hh : Hearth) (st : Step) (u : Nat) (d : Stk) : Hearth :=
  let t := threadAt hh u
  match t.buf with
  | [] => hh
  | k :: _ =>
    let tag := (t.part.head?.map (·.tag)).getD k.tag
    let pos := posNear hh st tag
    if !slotFree d t pos ∨ (t.part = [] ∧ !waitedFor d t) then hh else
    let t' := takePart t
    let hh := updThread hh u (fun _ => t')
    let n := t'.part.length
    if d.mem.rows < n ∨ (n = d.mem.rows ∧ !t'.part.any (·.last)) then threadGroupFault e hh u tag d.mem.rows n
    else if !t'.part.any (·.last) then hh
    else
      let base := d.mem.base + slotIdx d.mem pos * d.mem.tagStride
      if !extentAny hh base (128 * n) then addressFault e hh tag (refPath (threadRef u)) base
      else
        let writes := (List.range n).flatMap (fun i => writePieces (base + 128 * i) (tokBytes (t'.part.getD i {})))
        let (p, l) := markDone t'.donePre t'.done pos
        goOn (updThread hh u (fun t => { t with
          part := [], ring := t.ring ++ [(pos, n)], held := some { tag := tag, pos := pos, writes := writes }
          donePre := p, done := l })) st.ctx u d

/-- A RELAY's tag, read back from its ring, goes to its reader. -/
def relayGroup (e : Env) (hh : Hearth) (st : Step) (u : Nat) (d : Stk) (got : List (Nat × BitVec 2048)) : Hearth :=
  let t := threadAt hh u
  let l := readRanges d t t.next
  match badSlices hh l with
  | b :: bs => readFaults e hh (some st) (tagAt st t.next) (refPath (threadRef u)) (b :: bs)
  | [] =>
    let hh := correctSlices e hh l
    let toks := l.flatMap (fun x => (List.range (x.2 / 128)).map (fun i => bytesTok (gotBytes hh got (x.1 + 128 * i) 128)))
    sendThread (updThread hh u (fun x => { x with
      fetch := none, toSend := toks, ring := x.ring.filter (fun r => r.1 != x.next) })) u

/-- The first half of a RELAY's stage: the tag it holds goes on to its ring, or the next group is taken (R258). -/
def relayIn (e : Env) (hh : Hearth) (u : Nat) (d : Stk) : Hearth :=
  match runStep hh with
  | some st => if (threadAt hh u).held.isSome then goOn hh st.ctx u d else relayTake e hh st u d
  | none => hh

/-- STOKER_RELAY_BATCH: a RELAY takes groups into its ring, and delivers tags in order once the batch is whole, under the issue
window (R86, R258). -/
def execStokerRelayBatch (h u : Nat) (s : State) : Host.Outcome State Fault Refusal :=
  hearthEvent s h (fun e hh =>
    match liveThread hh u with
    | none => hh
    | some (_, d) =>
      if d.mode ≠ 2 then hh else
      let hh := relayIn e hh u d
      match liveThread hh u with
      | none => hh
      | some (st, d) =>
        let t := threadAt hh u
        if t.toSend ≠ [] then sendThread hh u
        else match t.fetch with
          | some _ => (match fetched t with
            | some got => relayGroup e hh st u d got
            | none => issueReads hh u)
          | none =>
            if mayIssue hh st t.next ∧ batchReady d st t t.next ∧ t.held.isNone ∧ !t.unacked.any (fun x => x.1 == t.next) then
              let hh := issueReads (updThread hh u (fun t => { t with
                fetch := some (unitsOf hh (readRanges d t t.next), []) })) u
              (match fetched (threadAt hh u) with
               | some got => relayGroup e hh st u d got
               | none => hh)
            else hh)

end Sys2Proof.Machine
end

