-- ==== Sys2Proof/Machine/MemSys.lean ====
section
/-! DEFINITION. Memory ports and slices (R233 to R246, R260), CXL.mem (R267 to R269, R373) and host bias (R367). -/

namespace Sys2Proof.Machine

/-! ### Requests of units -/

/-- The 256 bytes of a unit. -/
def unitData (hh : Hearth) (a : Nat) : BitVec 2048 := BitVec.ofNat 2048 (hNum hh a 256)

/-- A memory port tile serves one request: a read answers with the unit, corrected; a write is performed and acknowledged
(R241, R413). -/
def serveReq (e : Env) (hh : Hearth) (r : MemReq) : Hearth :=
  match r.write with
  | none =>
    let hh := correctRange e hh r.unitAddr 256
    { hh with replies := hh.replies ++
        [{ who := r.who, aux := r.aux, unitAddr := r.unitAddr, data := unitData hh r.unitAddr
           bad := badWords hh r.unitAddr 256 }] }
  | some l =>
    let hh := hWrite hh ((l.head?.map (·.1)).getD 0) (l.map (·.2))
    { hh with acks := hh.acks ++ [(r.who, r.aux)] }

/-- MEMORY_REQUEST: memory port tile `port` serves the oldest request for its two sub-channels (R241). -/
def execMemoryRequest (h port : Nat) (s : State) : Host.Outcome State Fault Refusal :=
  hearthEvent s h (fun e hh =>
    match hh.reqs.findIdx? (fun r => subOf hh r.unitAddr / 2 == port) with
    | none => hh
    | some i => match hh.reqs[i]? with
      | none => hh
      | some r => serveReq e { hh with reqs := hh.reqs.eraseIdx i } r)

/-- Read data reach a thread; a bad word of the unit ends the step (R260, R270). -/
def takeReply (e : Env) (hh : Hearth) (r : MemReply) : Hearth :=
  let u := r.who.id.toNat
  match ownerOf hh r.who with
  | none => countBad e hh (refPath r.who) r.bad
  | some st => match threadDesc hh st.ctx u with
    | none => countBad e hh (refPath r.who) r.bad
    | some _ =>
      let hh := updThread hh u (fun t => { t with
        outstanding := t.outstanding - 1
        fetch := t.fetch.map (fun f => (f.1, f.2 ++ [(r.unitAddr, r.data)])) })
      readFaults e hh (some st) (tagAt st r.aux) (refPath r.who) r.bad

/-- MEMORY_READ_REPLY: the oldest read data on the reply network arrive (R260). -/
def execMemoryReadReply (h : Nat) (s : State) : Host.Outcome State Fault Refusal :=
  hearthEvent s h (fun e hh =>
    match hh.replies with
    | [] => hh
    | r :: rest => takeReply e { hh with replies := rest } r)

/-- One write of a position fewer is outstanding. -/
def subUnacked (l : List (Nat × Nat)) (i : Nat) : List (Nat × Nat) :=
  (l.map (fun x => if x.1 = i then (i, x.2 - 1) else x)).filter (fun x => x.2 != 0)

/-- WRITE_ACK: the oldest write acknowledgement arrives, and the tag is done when its last write is acknowledged (R205,
R258). -/
def execWriteAck (h : Nat) (s : State) : Host.Outcome State Fault Refusal :=
  hearthEvent s h (fun _ hh =>
    match hh.acks with
    | [] => hh
    | (who, i) :: rest =>
      let hh := { hh with acks := rest }
      if (ownerOf hh who).isNone then hh else
      let u := who.id.toNat
      tagWritten (updThread hh u (fun t => { t with
        outstanding := t.outstanding - 1, unacked := subUnacked t.unacked i })) u i)

/-! ### Refresh and training -/

/-- A hearth's memory is powered. -/
def memOn (hh : Hearth) : Bool := hh.st != .absent && hh.st != .retired

/-- PER_BANK_REFRESH: the refresh of one bank; requests to it wait (R243). Contents do not change. -/
def execPerBankRefresh (h sub bank : Nat) (s : State) : Host.Outcome State Fault Refusal :=
  nextOf (updH s h (fun hh =>
    if memOn hh && sub < 48 && bank < 16 then { hh with refreshed := hh.refreshed + 1 } else hh))

/-- DQS_TRACKING: timing updates at a burst boundary, no request dropped or reordered (R244): no state changes. -/
def execDqsTracking (_h _sub : Nat) (s : State) : Host.Outcome State Fault Refusal := nextOf s

/-- The device temperature of a sub-channel has moved by 10 °C since its last training (R244). -/
def trainingDue (s : State) (h sub : Nat) : Bool :=
  let last := mget 0 (hearthOf s h).lastTrain sub
  let now := deviceTemp s h sub
  decide (80 ≤ now - last) || decide (80 ≤ last - now)

/-- INTERFACE_RETRAIN: after a move of 10 °C since the last training; a margin below the calibrated limit counts one
corrected event against the sub-channel (R244). -/
def execInterfaceRetrain (h sub : Nat) (marginOk : Bool) (s : State) : Host.Outcome State Fault Refusal :=
  hearthEvent s h (fun e hh =>
    if !memOn hh || 48 ≤ sub || hh.subsOut.contains sub || !trainingDue s h sub then hh else
    let hh := { hh with lastTrain := mput 0 hh.lastTrain sub (deviceTemp s h sub) }
    if marginOk then hh else
    let key := bucketKey 4 sub
    (eventRec e hh key { cls := 0x0002, path := BitVec.ofNat 64 (keyPath key), detail := addrDetail 0 0 }).1)

/-! ### Patrol scrub -/

/-- The units or lines that the scrub visits: LPDDR6, save area and slices. -/
def scrubbed (hh : Hearth) (a : Nat) : Bool :=
  match regionOf hh a with
  | .lpddr => true | .save => true | .slice => true | .spill => true | _ => false

/-- The bytes of one scrub access: a unit of LPDDR6, or a line of a slice. -/
def scrubSize (a : Nat) : Nat := if a < 0xF000000000 then 256 else 64

/-- Where the scrub passes stand after an access at an address: by memory port tile (from 32 on) or slice group (below 32), the
first address that its pass has not visited (R245, R434). -/
def scrubPassed (hh : Hearth) (a : Nat) : SMap Nat :=
  let n := scrubSize a
  let unit := match sliceHolding hh a with | some (i, _) => i / 16 | none => 32 + subOf hh a / 2
  mput 0 hh.scrubPos unit (a / n * n + n)

/-- PATROL_SCRUB: one access, at the unit of 256 bytes in LPDDR6 or the line of 64 bytes in a slice that holds the word
(R245). -/
def execPatrolScrub (h word : Nat) (s : State) : Host.Outcome State Fault Refusal :=
  hearthEvent s h (fun e hh =>
    let a := 8 * word
    if !memOn hh || !scrubbed hh a then hh else
    let n := scrubSize a
    let hh := { hh with scrubPos := scrubPassed hh a }
    if hh.errs = [] then hh else (wordsOf (a / n * n) n).foldl (scrubWord e) hh)

/-! ### Accesses from outside the hearth -/

/-- A read from outside (CXL.mem or a cell): corrected words are written back, an uncorrectable word counts one event and the
data are poisoned (R268, R308, Table 13-4). -/
def outsideRead (e : Env) (hh : Hearth) (a n : Nat) : Hearth × List Byte × Bool :=
  let x := correctRange e (seenAt hh a) a n
  let bad := badWords x a n
  let x := (bad.filter (fun b => !b.2)).foldl (fun x b => memUe e x b.1 2 none 0 (keyPath (memKey x b.1))) x
  (putSeen hh a x, hBytes x a n, bad != [])

/-- A write from outside. -/
def outsideWrite (hh : Hearth) (a : Nat) (bs : List Byte) : Hearth := putSeen hh a (hWrite (seenAt hh a) a bs)

/-- The runs of consecutive bytes of a masked line, as (offset, bytes). -/
def maskRuns (line : List Byte) (mask : Nat) : List (Nat × List Byte) :=
  (List.range 64).foldl (fun (l : List (Nat × List Byte)) i =>
    if !nbit mask i then l else
    let b := line.getD i 0
    match l.getLast? with
    | some (o, bs) => if o + bs.length = i then l.dropLast ++ [(o, bs ++ [b])] else l ++ [(i, [b])]
    | none => [(i, [b])]) []

/-- A hearth whose window answers CXL.mem (R373): it has reached READY since its last boot, and its command link, by which
alone that traffic travels, works (R12). -/
def cxlServed (hh : Hearth) : Bool := (readyFrozen hh.st || (hh.st == .faulted && hh.everReady)) && !hh.linkLost

/-- The hearth-local address of a DPA that CXL.mem reaches; none for a hole (R267, R373). -/
def cxlLocal (s : State) (dpa : Nat) : Option (Nat × Nat) :=
  match localOf s dpa with
  | some (h, a) => if cxlServed (hearthOf s h) then some (h, a) else none
  | none => none

/-- CXL.mem answers: the port is up in CXL mode and in D0 (R36, R356, R375). -/
def cxlUp (s : State) : Bool := barOk s && s.regs.cxl

/-- CXL_MEM_READ of a 64-byte line: data, or the line marked poisoned (R268, R269). -/
def execCxlMemRead (dpa : Nat) (s : State) : Host.Outcome State Fault Refusal :=
  if !cxlUp s then nextOf { s with rsp := .noAnswer } else
  let da := dpa / 64 * 64
  match cxlLocal s da with
  | none =>
    done { updH s (da / 0x4000000000) (fun hh => { hh with holeReads := sat 64 (hh.holeReads + 1) }) with rsp := .line 0 true }
  | some (h, a) =>
    let (hh, bs, bad) := outsideRead (envOf s h) (hearthOf s h) a 64
    done { putH s h hh with rsp := .line (BitVec.ofNat 512 (ofLE bs)) bad }

/-- CXL_MEM_WRITE of the masked bytes of a line; at a hole it is discarded (R268). -/
def execCxlMemWrite (dpa : Nat) (data : BitVec 512) (mask : W64) (s : State) : Host.Outcome State Fault Refusal :=
  if !cxlUp s then nextOf { s with rsp := .noAnswer } else
  let da := dpa / 64 * 64
  match cxlLocal s da with
  | none => done (updH s (da / 0x4000000000) (fun hh => { hh with holeWrites := sat 64 (hh.holeWrites + 1) }))
  | some (h, a) =>
    done (updH s h (fun hh => (maskRuns (leBytes 64 data.toNat) mask.toNat).foldl
      (fun hh r => outsideWrite hh (a + r.1) r.2) hh))

/-- A hearth-local address lies in a granule of host bias (R367). -/
def hostBias (s : State) (h a : Nat) : Bool :=
  let g := windowOffset a / 0x40000000
  nbit (mget 0 s.regs.bias (4 * h + g / 64)).toNat (g % 64)

/-- HOST_BIAS_ACCESS: the coherence agent obtains the line from the host before the device's access proceeds, so memory
holds what the host's cache held (R367). -/
def execHostBiasAccess (h addr : Nat) (line : BitVec 512) (s : State) : Host.Outcome State Fault Refusal :=
  let a := addr / 64 * 64
  let hh := hearthOf s h
  if cxlUp s && h < 9 && cxlServed hh && hostBias s h a && (decide (a < topOf hh) || (sliceOf hh a).isSome) then
    done (updH s h (fun hh => outsideWrite hh a (leBytes 64 line.toNat)))
  else nextOf s

end Sys2Proof.Machine
end

