-- ==== Sys2Proof/Machine/Endpoints.lean ====
section
/-! DEFINITION. Flue endpoints (R301 to R313, R325): what their tags do, and what cells do to them. -/

namespace Sys2Proof.Machine

/-! ### Which step an endpoint serves -/

/-- The running step's endpoint k, while the step is RUNNING or HALTING, with its home tile. -/
def liveEp (hh : Hearth) (k : Nat) : Option (Step × Nat × EpD) :=
  match runStep hh with
  | none => none
  | some st =>
    if !syncState st then none
    else ((secEps hh st.ctx st.ran).find? (fun x => x.1 == k)).map (fun x => (st, x.2.home, epOf x.2.body))

/-- As liveEp, and the step is RUNNING: only then does an endpoint issue anything (R342). -/
def issuingEp (hh : Hearth) (k : Nat) : Option (Step × Nat × EpD) :=
  match liveEp hh k with
  | some x => if x.1.state = .running then some x else none
  | none => none

/-- As liveEp, or the endpoint of a step that is being saved, frozen or restored: a COMBINE goes on recording then (R312). -/
def recordingEp (hh : Hearth) (k : Nat) : Option (Step × Nat × EpD) :=
  match liveEp hh k with
  | some x => some x
  | none => (hh.steps.filter (fun st => st.state == .saving || st.state == .frozen || st.state == .restoring)).findSome?
      (fun st => ((secEps hh st.ctx st.ran).find? (fun x => x.1 == k)).map (fun x => (st, x.2.home, epOf x.2.body)))

/-- The endpoint belongs to the step that is being saved, frozen or restored: its cells go to the save buffer (R312). -/
def frozenEp (hh : Hearth) (k : Nat) : Bool :=
  hh.steps.any (fun st => (st.state == .saving || st.state == .frozen || st.state == .restoring) &&
    (secEps hh st.ctx st.ran).any (fun x => x.1 == k))

/-- The step whose section configures endpoint k, of those that have begun and not ended: at most one (R66, R313). -/
def epStep (hh : Hearth) (k : Nat) : Option (Step × Nat × EpD) :=
  (hh.steps.filter (fun st => liveState st.state || st.state == .frozen)).findSome? (fun st =>
    ((secEps hh st.ctx st.ran).find? (fun x => x.1 == k)).map (fun x => (st, x.2.home, epOf x.2.body)))

/-- The record of endpoint k: that of the step whose endpoint it is, frozen or running; else that of the first context that
configures it. -/
def anyEp (hh : Hearth) (k : Nat) : Option (Nat × Nat × EpD) :=
  match epStep hh k with
  | some (st, home, d) => some (st.ctx, home, d)
  | none => (List.range 4).findSome? (fun c =>
      ((mget {} hh.ctxs c).eps.find? (fun x => x.1 == k)).map (fun x => (c, x.2.home, epOf x.2.body)))

/-- The peer of an endpoint. -/
def peerDest (d : EpD) : Dest := .peer d.peerModule d.peerHearth

/-- The schedule that governs an endpoint's cells: a KIND 3 record of a level-2 image, for bulk cells (R315). -/
def schedOf (hh : Hearth) (c k : Nat) (d : EpD) : Option Nat :=
  let x := mget {} hh.ctxs c
  if x.level = 2 ∧ d.cls = 0 ∧ x.eps.any (fun y => y.1 == k && y.2.sched.isSome) then some k else none

/-- Send a cell of an endpoint to its peer. -/
def sendEp (h : Nat) (hh : Hearth) (c k : Nat) (d : EpD) (ty dstEp len spare : Nat) (payload : List Byte)
    (tcw : Option Nat := none) : Hearth :=
  sendCell h hh (peerDest d) ty 0 d.cls dstEp len spare payload (some k) tcw (schedOf hh c k d)

/-! ### SEND (R287, R304) -/

/-- TCW of half 0 (Table 9-7). -/
def tcw0 (k : Tok) : Nat :=
  k.tag.toNat * 2 ^ 19 + k.seq.toNat * 2 ^ 11 + b2n k.last * 2 ^ 10 + b2n k.pred * 2 ^ 9 + k.payload.toNat * 2 ^ 6
    + k.format.toNat * 8

/-- TCW of half 1 (Table 9-7). -/
def tcw1 (k : Tok) (epoch : Nat) : Nat :=
  k.blockNar.toNat * 2 ^ 19 + k.stream.toNat * 2 ^ 14 + b2n k.rotated * 2 ^ 13 + b2n k.clipped * 2 ^ 12
    + b2n k.nar * 2 ^ 11 + epoch % 16 * 2 ^ 7 + 1

/-- The token of two halves, with the local reader's epoch. -/
def tokOfHalves (a b : Cell) (epoch : BitVec 4) : Tok :=
  let x := tcwOf a
  let y := tcwOf b
  { tag := BitVec.ofNat 16 (nbits x 34 19), seq := BitVec.ofNat 8 (nbits x 18 11), last := nbit x 10, pred := nbit x 9
    payload := BitVec.ofNat 3 (nbits x 8 6), format := BitVec.ofNat 3 (nbits x 5 3), epoch := epoch
    blockNar := BitVec.ofNat 16 (nbits y 34 19), stream := BitVec.ofNat 5 (nbits y 18 14), rotated := nbit y 13
    clipped := nbit y 12, nar := nbit y 11, data := b.payload ++ a.payload }

/-- ENDPOINT_TOKEN_SEND: a SEND sends one token as two TOKEN cells, for one credit of its peer (R287, R304). -/
def execEndpointTokenSend (h e : Nat) (s : State) : Host.Outcome State Fault Refusal :=
  hearthEvent s h (fun _ hh =>
    match issuingEp hh e with
    | none => hh
    | some (st, _, d) =>
      let x := epAt hh e
      match x.buf with
      | [] => hh
      | k :: rest =>
        if d.kind ≠ 1 ∨ x.peerCredits = 0 then hh else
        let hh := updEp hh e (fun x => { x with buf := rest, peerCredits := x.peerCredits - 1 })
        let bytes := leBytes 64 k.data.toNat
        let hh := sendEp h hh st.ctx e d 12 d.peerEp 8 0 (bytes.take 32) (some (tcw0 k))
        sendEp h hh st.ctx e d 12 d.peerEp 8 0 (bytes.drop 32) (some (tcw1 k x.peerEpoch.toNat)))

/-! ### Groups that endpoints take -/

/-- Take the tokens of the tag at the head of an endpoint's buffer, to the end of its group at most. -/
def takeEpPart (x : EpLive) : EpLive :=
  match x.buf with
  | [] => x
  | k :: _ =>
    let tag := (x.part.head?.map (·.tag)).getD k.tag
    let run := x.buf.takeWhile (fun t => t.tag == tag)
    let n := match run.findIdx? (fun t => t.last) with | some i => i + 1 | none => run.length
    { x with part := x.part ++ run.take n, buf := x.buf.drop n }

/-- Open an endpoint's ember buffer at the first tag of a step (R154). -/
def epEmberOpen (hh : Hearth) (st : Step) (k : Nat) (d : EpD) (t : W32) : Hearth :=
  if epEmber d ∧ !(epAt hh k).emberDone then
    updEp (emberOpen hh st.ctx d.nar t (epEmberCount d st.n)) k (fun x => { x with emberDone := true })
  else hh

/-! ### PUT (R306) -/

/-- The pieces of at most 24 bytes of a run at an address, in whole 4-byte words: the last one ends where the run ends, and
may repeat up to 3 bytes; a run shorter than 4 bytes is filled up with undefined bytes. DESIGN CHOICE, log 37. -/
def putPieces : Nat → Nat → List Byte → List (Nat × List Byte)
  | 0, _, _ => []
  | fuel + 1, a, bs =>
    if bs.length ≤ 24 then
      (if bs.length % 4 = 0 then [(a, bs)]
       else if bs.length < 4 then
         [(a, bs ++ (List.range (4 - bs.length)).map (fun i => Config.undefByte 0 (a + bs.length + i)))]
       else
         let m := bs.length / 4 * 4
         [(a, bs.take m), (a + bs.length - 4, bs.drop (bs.length - 4))])
    else (a, bs.take 24) :: putPieces fuel (a + 24) (bs.drop 24)

/-- Send a WRITE cell (Table 9-8). -/
def sendWrite (h : Nat) (hh : Hearth) (dst : Dest) (cls a : Nat) (bs : List Byte) (ep sched : Option Nat) : Hearth :=
  sendCell h hh dst 0 0 cls 0 (2 + bs.length / 4) 0 (leBytes 8 (a % 2 ^ 40) ++ bs) ep none sched

/-- Write cells of an endpoint that no notice has covered. -/
def unperformedCount (x : EpLive) : Nat := x.unperformed.foldl (fun a p => a + p.2) 0

/-- Send what a PUT may of its tag's writes, at most 1,024 cells unperformed. -/
def issuePut (h : Nat) (hh : Hearth) (c k : Nat) (d : EpD) : Hearth :=
  let x := epAt hh k
  let n := min x.writes.length (1024 - unperformedCount x)
  if n = 0 then hh else
  let hh := updEp hh k (fun x => { x with
    writes := x.writes.drop n
    unperformed := (match x.unperformed.getLast? with
      | some (p, m) => if p = x.wpos then x.unperformed.dropLast ++ [(p, m + n)] else x.unperformed ++ [(x.wpos, n)]
      | none => [(x.wpos, n)]) })
  (x.writes.take n).foldl (fun hh w => sendWrite h hh (peerDest d) d.cls w.1 w.2 (some k) (schedOf hh c k d)) hh

/-- A group-size fault of an endpoint's input (R257, R220). -/
def epGroupFault (e : Env) (hh : Hearth) (cause home k : Nat) (tag : W16) (count seen sender : Nat) : Hearth :=
  groupFault e hh cause (epRef home k) tag 0xFF 0xFF count seen sender

/-- PUT_TAG: the next stage of a PUT's tag: its group is taken, converted and written to the peer (R306). -/
def execPutTag (h e : Nat) (s : State) : Host.Outcome State Fault Refusal :=
  hearthEvent s h (fun env hh =>
    match issuingEp hh e with
    | none => hh
    | some (st, home, d) =>
      if d.kind ≠ 3 then hh
      else if (epAt hh e).writes ≠ [] then issuePut h hh st.ctx e d
      else
        let x := takeEpPart (epAt hh e)
        let hh := updEp hh e (fun _ => x)
        let want := groupSize d.lay.rows d.lay.elems
        let n := x.part.length
        let last := x.part.any (·.last)
        let tag := (x.part.head?.map (·.tag)).getD 0
        if n = 0 then hh
        else if want < n ∨ (want = n ∧ !last) ∨ (n < want ∧ last) then epGroupFault env hh 2 home e tag want n 0
        else if !last then hh
        else
          let pos := posNear hh st tag
          let m := slotIdx d.lay pos
          let hh := epEmberOpen (countStrange hh st.ctx x.part) st e d d.wireT
          let (hh, out) := convRows hh st.ctx flue d.tokT d.lay.fmt d.wireT d.nar (epEmber d)
            (m * d.lay.rows * d.lay.elems) d.lay.elems (groupRows x.part d.lay.rows d.lay.elems)
          let writes := (List.range out.length).flatMap (fun r =>
            let y := out.getD r {}
            let bs := packRun d.lay.fmt y.codes ++ y.scales.map (BitVec.ofNat 8)
            putPieces (bs.length + 1) (rowAddr d.lay m r) bs)
          issuePut h (updEp hh e (fun x => { x with part := [], writes := writes, wpos := pos })) st.ctx e d)

/-- A WRITE_DONE notice: `n` write cells more are performed; a tag is retired when all of its cells are (R306). -/
def performed (x : EpLive) : Nat → EpLive
  | 0 => x
  | n + 1 =>
    match x.unperformed with
    | [] => x
    | (p, m) :: rest =>
      if 1 < m then performed { x with unperformed := (p, m - 1) :: rest } n
      else
        let x := { x with unperformed := rest }
        if p = x.wpos ∧ x.writes ≠ [] then performed x n
        else
          let (a, b) := markDone x.donePre x.done p
          performed { x with donePre := a, done := b } n

/-! ### GET (R307) -/

/-- Requests of at most 4,096 bytes for a range. -/
def getRequests (a n : Nat) : List (Nat × Nat) :=
  (List.range (ceilDiv n 4096)).map (fun i => (a + 4096 * i, min 4096 (n - 4096 * i)))

/-- Send what a GET may of its requests, at most 8 outstanding. -/
def issueGet (h : Nat) (hh : Hearth) (c k : Nat) (d : EpD) : Hearth :=
  let x := epAt hh k
  let n := min x.want.length (8 - x.reads.length)
  let go := (List.range n).map (fun i => ((x.reqTag + i) % 65536, x.want.getD i (0, 0)))
  let hh := updEp hh k (fun x => { x with
    want := x.want.drop n, reqTag := (x.reqTag + n) % 65536, reads := x.reads ++ go.map (fun g => (g.1, g.2.1, g.2.2)) })
  go.foldl (fun hh g =>
    sendEp h hh c k d 1 0 4 0 (leBytes 8 (g.2.1 % 2 ^ 40) ++ leBytes 2 (g.2.2 - 1) ++ leBytes 2 g.1 ++ zeros 4)) hh

/-- Bytes of a GET's rows that have come. -/
def getBytes (x : EpLive) (a n : Nat) : List Byte :=
  (List.range n).map (fun i => ((x.readData.find? (fun b => b.1 == a + i)).map (·.2)).getD 0)

/-- GET_TAG: the next stage of a GET's tag: its requests, its conversion, its tokens (R307). -/
def execGetTag (h e : Nat) (s : State) : Host.Outcome State Fault Refusal :=
  hearthEvent s h (fun _ hh =>
    match issuingEp hh e with
    | none => hh
    | some (st, _, d) =>
      let x := epAt hh e
      if d.kind ≠ 4 ∨ x.toSend ≠ [] then hh
      else if !x.fetching then
        if !mayIssue hh st x.next then hh else
        let m := slotIdx d.lay x.next
        let want := (List.range d.lay.rows).flatMap (fun r => (rowRanges d.lay m r).flatMap (fun a => getRequests a.1 a.2))
        issueGet h (updEp hh e (fun x => { x with want := want, fetching := true, readData := [] })) st.ctx e d
      else if x.want ≠ [] ∨ x.reads ≠ [] then issueGet h hh st.ctx e d
      else
        let m := slotIdx d.lay x.next
        let rows := (List.range d.lay.rows).map (fun r =>
          (unpackRun d.lay.fmt d.lay.elems (getBytes x (rowAddr d.lay m r) (rowElemBytes d.lay)),
           if rowScaleBytes d.lay = 0 then [] else (getBytes x (scaleAddr d.lay m r) (rowScaleBytes d.lay)).map (·.toNat)))
        let hh := epEmberOpen hh st e d d.tokT
        let (hh, out) := convRows hh st.ctx d.lay.fmt d.wireT d.tokFmt d.tokT d.nar (epEmber d)
          (m * d.lay.rows * d.lay.elems) d.lay.elems rows
        updEp hh e (fun x => { x with
          fetching := false, readData := [], next := x.next + 1, toSend := loadTokens (tagAt st x.next) d.nar d.tokFmt out }))

/-! ### CONTRIBUTE and COMBINE (R310) -/

/-- The bytes of a contribution in its wire format (Table 9-14b). -/
def contribBytes (fmt : Nat) (r : Narrowed) : List Byte := packRun fmt r.codes ++ r.scales.map (BitVec.ofNat 8)

/-- Send a contribution in its parts, for one credit of the peer. -/
def sendContrib (h : Nat) (hh : Hearth) (c k : Nat) (d : EpD) (tag : W16) (bs : List Byte) : Hearth :=
  let x := epAt hh k
  let hh := updEp hh k (fun x => { x with peerCredits := x.peerCredits - 1 })
  (List.range (ceilDiv bs.length 28)).foldl (fun hh i =>
    let part := (bs.drop (28 * i)).take 28
    sendEp h hh c k d 8 d.peerEp (1 + ceilDiv part.length 4) x.peerEpoch.toNat
      (leBytes 4 (tag.toNat * 65536 + d.index % 4096 * 16 + i) ++ part)) hh

/-- CONTRIBUTE_TAG: one token of PAYLOAD 0 is narrowed and sent to the peer COMBINE endpoint (R310). -/
def execContributeTag (h e : Nat) (s : State) : Host.Outcome State Fault Refusal :=
  hearthEvent s h (fun env hh =>
    match issuingEp hh e with
    | none => hh
    | some (st, home, d) =>
      let x := epAt hh e
      match x.buf with
      | [] => hh
      | k :: rest =>
        if d.kind ≠ 5 ∨ x.peerCredits = 0 then hh
        else if !k.last then epGroupFault env hh 3 home e k.tag 1 1 d.index
        else
          let pos := posNear hh st k.tag
          let hh := updEp (countStrange hh st.ctx [k]) e (fun x => { x with buf := rest })
          let hh := epEmberOpen hh st e d d.wireT
          let (hh, out) := convRows hh st.ctx flue d.tokT d.lay.fmt d.wireT d.nar (epEmber d) (slotIdx d.lay pos * 16) 16
            [((contribElems k).map (·.toNat), [])]
          sendContrib h hh st.ctx e d k.tag (contribBytes d.lay.fmt (out.getD 0 {})))

/-- The buffer line of a sender's contribution (R310). -/
def combineAddr (d : EpD) (i : Nat) (tag : W16) : Nat :=
  d.lay.base + 64 * (i * (d.window + 1) + tag.toNat % (d.window + 1))

/-- The identity of a sender of a COMBINE endpoint, known from its cells. -/
def senderWord (h k : Nat) (x : EpLive) (i : Nat) : Nat :=
  ((x.arrived.find? (fun a => a.1 == i)).map (·.2)).getD (Config.combinePeer h k i)

/-- Grant a sender of a COMBINE endpoint credits (R310). -/
def grantSender (h : Nat) (hh : Hearth) (k i n : Nat) : Hearth :=
  let x := epAt hh k
  let w := senderWord h k x i
  sendNotice h hh (.peer (w % 2 ^ 18) (nbits w 21 18)) (nbits w 30 22) 0 x.epoch.toNat 0 0 n 0

/-- ENDPOINT_COMBINE_SUM: all n contributions of a tag are there: their sum goes to the local input at the root, or on to the
peer as this endpoint's own contribution; one credit returns to each sender (R219, R310). -/
def execEndpointCombineSum (h e tag : Nat) (s : State) : Host.Outcome State Fault Refusal :=
  hearthEvent s h (fun env hh =>
    match issuingEp hh e with
    | none => hh
    | some (st, home, d) =>
      let x := epAt hh e
      let w := BitVec.ofNat 16 tag
      let n := d.senders + 1
      let have_ (i : Nat) : Bool := x.contrib.any (fun c => c.1 == w && c.2.1 == i)
      if d.kind ≠ 6 ∨ !(List.range n).all have_ ∨ (!d.root ∧ x.peerCredits = 0) then hh else
      match (List.range n).flatMap (fun i => badWords hh (combineAddr d i w) 64) with
      | b :: bs => readFaults env hh (some st) w (refPath (epRef home e)) (b :: bs)
      | [] =>
        let lines := (List.range n).map (fun i =>
          (pieces 4 (hBytes hh (combineAddr d i w) 64)).map (fun b => BitVec.ofNat 32 (ofLE b)))
        let sum := (List.range 16).map (fun j => tree32 (lines.map (fun l => l.getD j 0)))
        let hh := updEp hh e (fun x => { x with contrib := x.contrib.filter (fun c => c.1 != w) })
        let hh := (List.range n).foldl (fun hh i => grantSender h hh e i 1) hh
        if d.root then
          let k : Tok := { tag := w, stream := BitVec.ofNat 5 d.nar.stream, epoch := x.epoch, last := true
                           nar := sum.any isNan32, data := packElems sum }
          updEp hh e (fun x => { x with toSend := x.toSend ++ [k] })
        else
          let hh := epEmberOpen hh st e d d.wireT
          let pos := posNear hh st w
          let (hh, out) := convRows hh st.ctx flue d.tokT d.lay.fmt d.wireT d.nar (epEmber d) (slotIdx d.lay pos * 16) 16
            [(sum.map (·.toNat), [])]
          epDone (sendContrib h hh st.ctx e d w (contribBytes d.lay.fmt (out.getD 0 {}))) e pos)

/-! ### Arriving tokens and contributions (R305) -/

/-- A RECEIVE or COMBINE endpoint drops a token or contribution (Table 7-4, R305): counted, its credit returned unless its
epoch is old, and a NOTICE DROPPED for the first drop of each reason in a step. -/
def dropAtEp (h : Nat) (hh : Hearth) (k : Nat) (dst : Dest) (ep reason : Nat) (tag : W16) : Hearth :=
  let x := epAt hh k
  let first := !x.droppedReasons.contains reason
  let hh := updEp hh k (fun x => { x with
    dropped := sat 32 (x.dropped + 1), droppedReasons := if first then x.droppedReasons ++ [reason] else x.droppedReasons })
  let hh := if reason = 3 then hh else sendNotice h hh dst ep 0 x.epoch.toNat 0 0 1 0
  if first then sendNotice h hh dst ep 3 0 reason tag.toNat 1 0 else hh

/-- A half token fault at a RECEIVE (R287). -/
def halfFault (e : Env) (hh : Hearth) (home k : Nat) (tag : W16) : Hearth :=
  epGroupFault e hh 4 home k tag 0 (((epAt hh k).toSend.filter (fun t => t.tag == tag)).length) 0

/-- A TOKEN cell reaches RECEIVE endpoint k (R287, R305). -/
def tokenAtEp (e : Env) (hh : Hearth) (k : Nat) (c : Cell) : Hearth :=
  let x := epAt hh k
  let half := nbit (tcwOf c) 0
  let live := liveEp hh k
  if !half then
    match live, x.half0 with
    | some (_, home, _), some a => halfFault e hh home k (BitVec.ofNat 16 (nbits (tcwOf a) 34 19))
    | _, _ => updEp hh k (fun x => { x with half0 := some c })
  else
    match x.half0 with
    | none => (match live with | some (_, home, _) => halfFault e hh home k 0 | none => hh)
    | some a =>
      let hh := updEp hh k (fun x => { x with half0 := none })
      let tok := tokOfHalves a c x.epoch
      let ep := BitVec.ofNat 4 (nbits (tcwOf c) 10 7)
      match live with
      | some (_, _, d) =>
        if d.kind ≠ 2 then dropAtEp e.h hh k (peerDest d) d.peerEp 1 tok.tag
        else if x.closed then dropAtEp e.h hh k (peerDest d) d.peerEp 2 tok.tag
        else if ep ≠ x.epoch then dropAtEp e.h hh k (peerDest d) d.peerEp 3 tok.tag
        else updEp hh k (fun x => { x with toSend := x.toSend ++ [tok] })
      | none => match anyEp hh k with
        | some (_, _, d) => dropAtEp e.h hh k (peerDest d) d.peerEp 2 tok.tag
        | none => hh

/-- The contribution of all parts so far, when it is whole. -/
def contribWhole (fmt : Nat) (bs : List Byte) : Option (List Nat × List Nat) :=
  let nb := runBytes fmt 16
  let ns := rowBlocks fmt 16
  if nb + ns ≤ bs.length then
    some (unpackRun fmt 16 (bs.take nb), ((bs.drop nb).take ns).map (·.toNat)) else none

/-- A conversion for a step: while the step's counters stand in its saved state, its events count there (R144). -/
def widenFor {α : Type} (st : Step) (hh : Hearth) (f : Hearth → Hearth × α) : Hearth × α :=
  match hh.snap with
  | some sn =>
    if st.state = .frozen ∨ st.state = .restoring then
      let (y, a) := f { hh with cal := sn.cal }
      ({ y with cal := hh.cal, snap := some { sn with cal := y.cal } }, a)
    else f hh
  | none => f hh

/-- The cell carries the last part of a contribution: every other part has LENGTH 8 (Table 9-14b). -/
def lastPart (hd : Hdr) : Bool := decide (hd.len < 8)

/-- A contribution is dropped: once, at its last part (R305). -/
def dropContrib (h : Nat) (hh : Hearth) (k : Nat) (dst : Dest) (hd : Hdr) (reason : Nat) (tag : W16) : Hearth :=
  if lastPart hd then dropAtEp h hh k dst hd.srcEp reason tag else hh

/-- A COMBINE cell reaches COMBINE endpoint k (R305, R310). -/
def combineAtEp (e : Env) (hh : Hearth) (k : Nat) (c : Cell) : Hearth :=
  let hd := hdrOf c
  let w0 := pay c 0 4
  let tag := BitVec.ofNat 16 (nbits w0 31 16)
  let i := nbits w0 15 4
  let part := nbits w0 3 0
  let dst : Dest := .peer hd.srcModule hd.srcHearth
  let x := epAt hh k
  match recordingEp hh k with
  | none => if (anyEp hh k).isSome then dropContrib e.h hh k dst hd 2 tag else dropContrib e.h hh k dst hd 1 tag
  | some (st, home, d) =>
    if d.kind ≠ 6 then dropContrib e.h hh k dst hd 1 tag
    else if x.closed then dropContrib e.h hh k dst hd 2 tag
    else if BitVec.ofNat 4 hd.spare ≠ x.epoch then dropContrib e.h hh k dst hd 3 tag
    else if d.senders < i then dropContrib e.h hh k dst hd 4 tag
    else if part = 0 ∧ (x.contrib.any (fun y => y.1 == tag && y.2.1 == i) ||
        x.parts.any (fun y => y.1 == tag && y.2.1 == i)) then epGroupFault e hh 3 home k tag 1 2 i
    else
      let old := ((x.parts.find? (fun y => y.1 == tag && y.2.1 == i)).map (·.2.2)).getD []
      let bs := old ++ leBytes (4 * (hd.len - 1)) (nbits c.payload.toNat 255 32)
      let rest := x.parts.filter (fun y => !(y.1 == tag && y.2.1 == i))
      let hh := updEp hh k (fun x => { x with
        arrived := x.arrived.filter (fun a => a.1 != i) ++ [(i, identityOf hd.srcModule hd.srcHearth hd.srcEp)] })
      match contribWhole d.lay.fmt bs with
      | none => updEp hh k (fun x => { x with parts := rest ++ [(tag, i, bs)] })
      | some row =>
        let (hh, out) := widenFor st hh (fun hh => convRows hh st.ctx d.lay.fmt d.wireT flue d.tokT d.nar false 0 16 [row])
        let ws := (out.getD 0 {}).codes.map (BitVec.ofNat 32)
        let hh := hWrite hh (combineAddr d i tag) (ws.flatMap (fun w => leBytes 4 w.toNat))
        updEp hh k (fun x => { x with
          parts := rest
          contrib := x.contrib ++ [(tag, i, { tag := tag, last := true, data := packElems ws })] })

/-! ### Replies and notices -/

/-- A read or write of an endpoint met a fault at its peer: the step that owns it, running or frozen, ends with ABORTED_FAULT
(R308). -/
def remoteFault (e : Env) (hh : Hearth) (k reason a : Nat) : Hearth :=
  match epStep hh k with
  | none => hh
  | some (st, home, _) =>
    let cls := if reason = 0 then 0x0054 else if reason = 1 then 0x0004 else 0x0005
    endStepH e (logStep e hh (some st) 0 cls (refPath (epRef home k)) (a % 2 ^ 40 * 256) (addrDetail a 0)) st.id .abortedFault

/-- A READ_REPLY cell reaches GET endpoint k (Table 9-8). -/
def replyAtEp (e : Env) (hh : Hearth) (k : Nat) (c : Cell) : Hearth :=
  let hd := hdrOf c
  let w0 := pay c 0 4
  let off := 4 * nbits w0 25 16
  let x := epAt hh k
  match x.reads.find? (fun r => r.1 == nbits w0 15 0) with
  | none => hh
  | some (t, a, n) =>
    if nbit w0 30 then remoteFault e hh k 0 a
    else if nbit w0 31 then remoteFault e hh k 2 (a + off)
    else
      let len := min (4 * (hd.len - 1)) (n - off)
      let bs := leBytes len (nbits c.payload.toNat 255 32)
      updEp hh k (fun x => { x with
        reads := if n ≤ off + len then x.reads.filter (fun r => r.1 != t) else x.reads
        readData := x.readData ++ (List.range len).map (fun i => (a + off + i, bs.getD i 0)) })

/-- A CREDIT notice at a SEND, CONTRIBUTE or COMBINE endpoint: a new epoch drops the credits held (R304). -/
def creditAtEp (hh : Hearth) (k epoch n : Nat) : Hearth :=
  updEp hh k (fun x =>
    if x.peerEpoch = BitVec.ofNat 4 epoch then { x with peerCredits := x.peerCredits + n }
    else { x with peerEpoch := BitVec.ofNat 4 epoch, peerCredits := n })

/-- A DROPPED notice at a SEND or CONTRIBUTE endpoint makes the SEND_TO_CLOSED record of R214 (R305). -/
def droppedAtEp (e : Env) (hh : Hearth) (k reason tag : Nat) : Hearth :=
  match anyEp hh k with
  | none => hh
  | some (_, home, d) =>
    let x := epAt hh k
    closedRecord e hh { snd := epRef home k, out := 0, rcv := ⟨4, BitVec.ofNat 16 d.peerEp⟩, inp := 0
                        tok := { tag := BitVec.ofNat 16 tag, epoch := x.peerEpoch } } reason x.peerEpoch

/-! ### SYNC_LINK (R325) -/

/-- An arrival or release that R325 does not allow ends the step. -/
def linkFault (e : Env) (hh : Hearth) (st : Step) (home k obj gen : Nat) : Hearth :=
  let o := hsyncAt hh obj
  unitFault e hh 0x0053 (epRef home k) 0 .abortedFault
    (faultDetail 0 (epRef home k) 0 0xFF 0xFF
      [(0x10, 2, o.value), (0x12, 2, wb (hsyncReg hh st.ctx obj) 47 32), (0x14, 2, gen)] (0x100 + obj))

/-- A SYNC_ARRIVE reaches SYNC_LINK endpoint k: when all ENABLED children have arrived, the endpoint counts as one arrival at
its object. -/
def arriveAtEp (e : Env) (hh : Hearth) (k : Nat) (c : Cell) : Hearth :=
  match liveEp hh k with
  | none => hh
  | some (st, home, d) =>
    if d.kind ≠ 7 then hh else
    let w := pay c 0 4
    let child := nbits w 27 16
    let x := epAt hh k
    let o := hsyncAt hh d.loc
    let kids := linkChildren hh d
    if BitVec.ofNat 16 w ≠ o.gen ∨ x.arrived.any (fun a => a.1 == child) then linkFault e hh st home k d.loc (nbits w 15 0)
    else if !kids.any (fun y => y.1 == child) then hh
    else
      let seen := x.arrived ++ [(child, (hdrOf c).srcEp)]
      let hh := updEp hh k (fun x => { x with arrived := seen })
      if kids.all (fun y => seen.any (fun a => a.1 == y.1)) then
        updHsync hh d.loc (fun o => { o with
          inbox := o.inbox ++ [{ unit := epRef home k, slot := 0xFF, tag := 0, action := 0, amount := 1 }] })
      else hh

/-- A SYNC_RELEASE reaches SYNC_LINK endpoint k: the object releases under R224. -/
def releaseAtEp (e : Env) (hh : Hearth) (k : Nat) (c : Cell) : Hearth :=
  match liveEp hh k with
  | none => hh
  | some (st, home, d) =>
    if d.kind ≠ 7 then hh else
    let g := pay c 0 2
    if BitVec.ofNat 16 g ≠ (hsyncAt hh d.loc).gen then linkFault e hh st home k d.loc g
    else releaseHsync e hh st d.loc

/-! ### Save buffers (R312) -/

/-- Cells that an endpoint of a frozen step keeps: TOKEN, READ_REPLY, SYNC_ARRIVE and SYNC_RELEASE. -/
def keptType (ty : Nat) : Bool := ty == 12 || ty == 2 || ty == 6 || ty == 7

/-- Deliver a cell to its endpoint. -/
def cellAtEp (e : Env) (hh : Hearth) (c : Cell) : Hearth :=
  let hd := hdrOf c
  match hd.type with
  | 12 => tokenAtEp e hh hd.dstEp c
  | 2 => replyAtEp e hh hd.dstEp c
  | 6 => arriveAtEp e hh hd.dstEp c
  | 7 => releaseAtEp e hh hd.dstEp c
  | 8 => combineAtEp e hh hd.dstEp c
  | _ => hh

/-- Deliver a cell to its endpoint, or keep it in the home tile's save buffer while the endpoint's step is frozen. -/
def epCell (e : Env) (hh : Hearth) (c : Cell) : Hearth :=
  let hd := hdrOf c
  if keptType hd.type ∧ frozenEp hh hd.dstEp then
    let home := match anyEp hh hd.dstEp with | some x => x.2.1 | none => 0
    putPort hh home { fport hh home with saveBuf := (fport hh home).saveBuf ++ [(hd.dstEp, c)] }
  else cellAtEp e hh c

/-- Deliver what the save buffers hold, in arrival order at each port (R312, R348). -/
def deliverSaved (e : Env) (hh : Hearth) : Hearth :=
  let cells := hh.ports.flatMap (fun x => x.2.saveBuf.map (·.2))
  let hh := { hh with ports := mmap {} (fun _ p => { p with saveBuf := [] }) hh.ports }
  cells.foldl (fun hh c => cellAtEp e hh c) hh

/-! ### Schedules (R315) -/

/-- The last time, up to now, at which slot k of a schedule body has opened: origin + j × PERIOD + OFFSET_k for a whole j. None
before its first, and for a slot that is disabled (Table 9-16). -/
def slotTime (b : BitVec 896) (launch now k : Nat) : Option Nat :=
  let period := max 1 (bodyNum b 0 4)
  let first := ceilDiv launch period * period + bodyNum b (0x10 + 8 * k) 4
  if k < bodyNum b 4 1 ∧ 0 < bodyNum b (0x14 + 8 * k) 2 ∧ first ≤ now then some (first + (now - first) / period * period) else none

/-- SCHEDULE_SLOT_OPEN: slot k of an endpoint's schedule opens at origin + j × PERIOD + OFFSET_k; the endpoint may send
CELLS_k cells in it until the next slot opens. The event comes at the opening or after a nanosecond that the time's slew
skips, once, and not after a later slot's (R315). -/
def execScheduleSlotOpen (h e slot : Nat) (s : State) : Host.Outcome State Fault Refusal :=
  hearthEvent s h (fun env hh =>
    match liveEp hh e with
    | none => hh
    | some (st, _, _) =>
      match (mget {} hh.ctxs st.ctx).eps.find? (fun x => x.1 == e) with
      | none => hh
      | some x => match x.2.sched with
        | none => hh
        | some b =>
          match slotTime b st.launchTime env.now slot with
          | none => hh
          | some t =>
            let later := (List.range 12).any (fun k => match slotTime b st.launchTime env.now k with
              | some u => decide (t < u)
              | none => false)
            if later || (epAt hh e).schedAt.any (fun u => decide (t ≤ u)) then hh
            else updEp hh e (fun x => { x with schedLeft := some (bodyNum b (0x14 + 8 * slot) 2), schedAt := some t }))

end Sys2Proof.Machine
end

