-- ==== Sys2Proof/Machine/Sched.lean ====
section
/-! DEFINITION. Launch, freeze and end of hearth steps (R66 to R70, R331 to R350). -/

namespace Sys2Proof.Machine

/-! ### Checks of a launch (Table 10-2) -/

/-- A field of a parameter block of a configuration. -/
def cfgParam (c : TileCfg) (slot off n : Nat) : Nat := nbits (mget 0 c.params slot).toNat (8 * (off + n) - 1) (8 * off)

/-- The first extent of a section that is not legal for n tags: the base-die record index, or 0x8000_0000 plus the tile of a
WLOAD (R264, R500). -/
def badExtent (hh : Hearth) (c sec n : Nat) : Option Nat :=
  let info := mget {} hh.ctxs c
  let ok (x : Nat × Nat) : Bool := extentIn hh (regionGroups info.region) x.1 x.2
  let stk := (info.threads.filter (fun x => x.2.section_ == sec)).filterMap (fun x =>
    let d := stkOf x.2.body
    if !d.mem.wrap ∧ !(stkExtents d n).all ok then some x.2.rcd else none)
  let eps := (info.eps.filter (fun x => x.2.section_ == sec)).filterMap (fun x =>
    let d := epOf x.2.body
    if epEmber d ∧ !d.lay.wrap ∧ !ok (d.nar.emberBase, 64 + 2 * epEmberCount d n) then some x.2.rcd else none)
  let bad := (secTiles hh c sec).filterMap (fun v =>
    let cfg := mget {} (tileAt hh v).cfg c
    if (List.range 32).any (fun s =>
        let w := mget 0 cfg.ops s
        nbit w.toNat 63 && wb w 62 56 == 3 && !ok (cfgParam cfg s 8 5, 64 * cfgParam cfg s 4 2)) then
      some (0x80000000 + v) else none)
  ((stk ++ eps).foldl (fun a i => match a with | none => some i | some j => some (min i j)) none).orElse
    (fun _ => bad.head?)

/-- The section that a launch of section s runs (R161). -/
def ranOf (hh : Hearth) (c s : Nat) : Nat :=
  if wb (escRec hh c s) 63 62 = 1 then ((sectionOf hh c s).variant).getD s else s

/-- The context holds the section, with VALID set on its tiles. -/
def sectionOk (hh : Hearth) (c s : Nat) : Bool :=
  let info := mget {} hh.ctxs c
  info.valid && decide (s < info.sections.length) &&
    hh.tiles.all (fun x => !(x.2.cfg.any (fun y => y.1 == c && y.2.section_ == s)) || tileInSec hh c s x.1)

/-- A reshape runs, or a sub-channel's retirement or return is decided and waits (R247). -/
def reshapeBusy (hh : Hearth) : Bool :=
  hh.reshape.isSome || hh.deferred.any (fun d => d.sels.any isSubch) || hh.returning.any (fun x => isSubch x.1)

/-- An endpoint number shared with the frozen step (R313). -/
def sharesEndpoint (hh : Hearth) (c s : Nat) : Bool :=
  match frozenStep hh with
  | none => false
  | some f => (secEps hh c s).any (fun x => (secEps hh f.ctx f.ran).any (fun y => y.1 == x.1))

/-- Check k of Table 10-2 for hearth h (1, 2, 4, 5 or 6): the status and detail of a failure. Of a context that a load builds,
check 4 answers (R191). -/
def launchCheck (h : Nat) (hh : Hearth) (c s n k : Nat) : Option (Status × Nat) :=
  match k with
  | 1 => if readyFrozen hh.st then none else some (.rejectedTarget, 8)
  | 2 => if sectionOk hh c s || hh.load.any (fun l => l.ctx == c) then none
         else some (.rejectedParameter, if (mget {} hh.ctxs c).valid then 0x11 else 0x10)
  | 4 => if hh.load.any (fun l => l.ctx == c) then some (.rejectedState, stateDetail 3 h 1)
         else if reshapeBusy hh then some (.rejectedState, stateDetail 3 h 2) else none
  | 5 => if sharesEndpoint hh c (ranOf hh c s) then some (.rejectedState, stateDetail 3 h 3) else none
  | 6 => (badExtent hh c (ranOf hh c s) n).map (fun d => (.rejectedParameter, d))
  | _ => none

/-- The checks that a hearth repeats when a step leaves HELD. -/
def dispatchCheck (h : Nat) (hh : Hearth) (x : Step) : Option (Status × Nat) :=
  [1, 2, 4, 5, 6].findSome? (launchCheck h hh x.ctx x.sec x.n)

/-! ### Slots (R335, R339) -/

/-- Change a step's state: what it has gathered so far is charged first (R341). -/
def moveStep (e : Env) (hh : Hearth) (id : Nat) (f : Step → Step) : Hearth :=
  updStep { accrue e hh with flushCharge := true } id f

/-- The first PENDING step of a workload in a hearth, in order of submission. -/
def nextPending (hh : Hearth) (w : Nat) : Option Step :=
  (hh.steps.filter (fun x => x.state == .pending && x.workload == w)).foldl (fun (a : Option Step) x =>
    match a with
    | none => some x
    | some y => some (if x.order < y.order then x else y)) none

/-- The workload that an empty slot of a class is filled from: the least virtual time, ties to the lower id. -/
def nextWorkload (s : State) (h : Nat) (lat : Bool) : Option Nat :=
  (s.accounts.filter (fun a => a.2.known && a.2.latency == lat && (nextPending (hearthOf s h) a.1).isSome)).foldl
    (fun (b : Option (Nat × Nat)) a =>
      match b with
      | none => some (a.1, a.2.vtime)
      | some (i, v) => if a.2.vtime < v then some (a.1, a.2.vtime) else some (i, v)) none |>.map (·.1)

/-- A step's section is linked (R337). -/
def sectionLinked (hh : Hearth) (c s : Nat) : Bool := (secEps hh c s).any (fun x => epLinks (epOf x.2.body))

/-- A step in the latency-critical slot freezes the running step by class (R336). -/
def preempts (hh : Hearth) (x : Step) : Bool :=
  x.latency && x.mayPreempt && (frozenStep hh).isNone &&
    (match runStep hh with
     | some r => !r.latency && !r.linked && r.state == .running
     | none => false)

/-- SLOT_FILL: the mantel fills the empty launch slot of a class (R339). -/
def execSlotFill (h cls : Nat) (s : State) : Host.Outcome State Fault Refusal :=
  let lat := cls == 1
  let hh := hearthOf s h
  let empty := if lat then hh.slotLat.isNone else hh.slotBest.isNone
  if !empty ∨ 1 < cls ∨ s.pairsFailed then nextOf s else
  match nextWorkload s h lat with
  | none => nextOf s
  | some w => match nextPending hh w with
    | none => nextOf s
    | some x =>
      let a := mget {} s.accounts w
      hearthEvent s h (fun e hh =>
        let now := preempts hh { x with latency := a.latency, mayPreempt := a.mayPreempt }
        let hh := moveStep e hh x.id (fun y => { y with
          state := .held, latency := a.latency, mayPreempt := a.mayPreempt, preempting := now })
        if lat then { hh with slotLat := some x.id } else { hh with slotBest := some x.id })

/-! ### Freezing (R336, R342 to R346) -/

/-- The halt begins: every tile of the step is FROZEN from now on (R342, R344). -/
def beginHalt (e : Env) (hh : Hearth) (x : Step) (byHost : Bool) (cause : Nat) : Hearth :=
  let hh := moveStep e hh x.id (fun y => { y with state := .halting, byHost := byHost, causeWorkload := cause, told := false })
  (secTiles hh x.ctx x.ran).foldl (fun hh v => updTile hh v (fun t => { t with state := .frozen })) hh

/-- CLASS_PREEMPT: the step that entered the latency-critical slot while a best-effort step ran freezes it, if all that R336
asks held then and holds now. -/
def execClassPreempt (h : Nat) (s : State) : Host.Outcome State Fault Refusal :=
  hearthEvent s h (fun e hh =>
    match hh.slotLat with
    | none => hh
    | some id => match hh.steps.find? (fun x => x.id == id), runStep hh with
      | some l, some r => if l.preempting && preempts hh l then beginHalt e hh r false l.workload else hh
      | _, _ => hh)

/-- A tile of a step at rest: no firing in progress, no bank loading. -/
def tileQuiet (t : Tile) : Bool := t.cur.isNone && t.bank0.st != .loading && t.bank1.st != .loading

/-- An endpoint of a step has an unacknowledged cell in the retransmit pool. -/
def epUnacked (hh : Hearth) (st : Step) : Bool :=
  hh.pool.any (fun x => match x.ep with | some k => (secEps hh st.ctx st.ran).any (fun y => y.1 == k) | none => false)

/-- The halt is complete (R342). -/
def halted (hh : Hearth) (st : Step) : Bool :=
  (secTiles hh st.ctx st.ran).all (fun v => tileQuiet (tileAt hh v)) && hh.flights == [] && hh.creditFlights == []
    && hh.reqs == [] && hh.replies == [] && hh.acks == [] && hh.grants == [] && !hh.spilling && hh.arb.isNone
    && (!st.linked || !epUnacked hh st)

/-- A HALT round of a tree PREEMPT_STEP names the step (R349). -/
def haltRound (s : State) (h id : Nat) : Bool :=
  s.started.any (fun x => match x.wait with | some (.preempt l true _) => l.contains (h, id) | _ => false)

/-- HALT_COMPLETE: the step enters SAVING, or waits for the SAVE round (R342, R349). -/
def execHaltComplete (h : Nat) (s : State) : Host.Outcome State Fault Refusal :=
  hearthEvent s h (fun e hh =>
    match runStep hh with
    | none => hh
    | some x =>
      if x.state ≠ .halting ∨ x.treeHold ∨ !halted hh x then hh
      else if haltRound s h x.id then updStep hh x.id (fun y => { y with treeHold := true })
      else moveStep e hh x.id (fun y => { y with state := .saving }))

/-- The tiles of the dies of a mask. -/
def dieTiles (hh : Hearth) (mask : BitVec 10) : List Nat :=
  (hh.tiles.map (·.1)).filter (fun v => mask.getLsbD (v / 48) && tileEnabled hh v)

/-- The saved slices of a region lie at these addresses, the spill lines too. -/
def savedSlice (hh : Hearth) (r : Region) (a : Nat) : Bool :=
  decide (0xF007C00000 ≤ a ∧ a < 0xF008000000) ||
    (decide (0xF000000000 ≤ a) && (sliceOf hh a).isSome && regionGroups r ((a - 0xF000000000) / 0x3E0000))

/-- The ranges of window addresses that are saved. -/
def savedRanges (r : Region) : List (Nat × Nat) :=
  [(winBase r.sliceFirst, winBase (r.sliceFirst + r.sliceGroups)), (0xF007C00000, 0xF008000000)]

/-- A ledger word belongs to an object of a step's section: a tile object of its tiles, or a hearth object of its context. -/
def stepWord (hh : Hearth) (x : Step) (k : Nat) : Bool :=
  if k < 0x10000 then (secTiles hh x.ctx x.ran).contains (k / 48)
  else (mget {} hh.ctxs x.ctx).hsync.any (fun y => y.1 == k - 0x10000)

/-- What SAVING writes (R343). -/
def snapOf (hh : Hearth) (x : Step) : Snapshot :=
  let info := mget {} hh.ctxs x.ctx
  let r := info.region
  let cals := (List.range 32).map (calKey x.ctx)
  { step := x.id, census := census hh
    tiles := hh.tiles.filter (fun y => (dieTiles hh r.dieMask).contains y.1)
    threads := hh.threads.filter (fun y => (secThreads hh x.ctx x.ran).any (fun z => z.1 == y.1))
    hsync := hh.hsync.filter (fun y => info.hsync.any (fun z => z.1 == y.1))
    eps := hh.eps.filter (fun y => (secEps hh x.ctx x.ran).any (fun z => z.1 == y.1))
    cal := hh.cal.filter (fun y => cals.contains y.1)
    slices := hh.mem.filter (fun y => savedSlice hh r y.1)
    wild := (savedRanges r).flatMap (fun x => clipWild hh.wild x.1 x.2)
    errs := hh.errs.filter (fun y => savedSlice hh r (8 * y.1))
    spill := hh.spill, syncWords := hh.syncWords.filter (fun y => stepWord hh x y.1) }

/-- The save area as SAVING leaves it (R343, Table 8-9): the data lines of the region's groups as they stand. The head, the SRAM
and state of the region's compute tiles, the base-die state, the port tiles' save buffers and, where records are spilled, the
spill lines hold what Table 8-9 names in layouts that the spec does not give: their bytes are free values, and the saved state
itself is the snapshot (log 13). -/
def writeSaveArea (hh : Hearth) (x : Step) (gen : Nat) : Hearth :=
  let r := (mget {} hh.ctxs x.ctx).region
  let free (hh : Hearth) (a n : Nat) : Hearth := hUndef hh a (a + n) gen
  let hh := free (free (free hh saveBase 0x100000) saveDie 0x400000) (savePort 0) (14 * 0xE0000)
  let hh := (dieTiles hh r.dieMask).foldl (fun hh v => free (free hh (saveSram v).1 (saveSram v).2) (saveState v) 0x4000) hh
  let hh := if hh.spill = [] then hh else
    (slicesIn hh).foldl (fun hh i => free hh (saveSlice i (dataLines hh)) (64 * (4096 - dataLines hh))) hh
  writeSaved hh r hh.mem hh.wild hh.errs

/-- A hearth whose step is saved: what R343 saves is kept and stands in the save area, the spill area is empty, the tiles of the
section are CONFIGURED, and its threads show state 5 (R343, R344). -/
def saveStep (gen : Nat) (hh : Hearth) (x : Step) : Hearth :=
  let hh := { setSpill (writeSaveArea hh x gen) [] with snap := some (snapOf hh x), flags := [] }
  let hh := (secTiles hh x.ctx x.ran).foldl (fun hh v => updTile hh v (fun t => { t with state := .configured })) hh
  (secThreads hh x.ctx x.ran).foldl (fun hh y => updThread hh y.1 (fun t => { t with state := 5 })) hh

/-- SAVE_COMPLETE: the step is FROZEN; its tiles are CONFIGURED and its threads show state 5 (R343, R344). -/
def execSaveComplete (h : Nat) (s : State) : Host.Outcome State Fault Refusal :=
  match runStep (hearthOf s h) with
  | none => nextOf s
  | some x =>
    if x.state ≠ .saving then nextOf s else
    let gen := s.fresh
    let s := { s with
      fresh := gen + 1
      accounts := mupd {} s.accounts x.workload (fun a => if a.known then { a with freezes := sat 32 (a.freezes + 1) } else a) }
    hearthEvent s h (fun e hh =>
      refreshSt (moveStep e (saveStep gen hh x) x.id (fun y => { y with state := .frozen, freezes := y.freezes + 1 })))

/-! ### Starting (R68, R333) -/

/-- COUNT of the seed group of a feedback input (R95). -/
def seedCount (t : Tile) (n : Nat) : Nat :=
  match (slotsNaming t n).find? (fun s => counted (opCode t s)) with
  | some s => opCount t s
  | none => 1

/-- The seed group of a feedback input. -/
def seedGroup (t : Tile) (n : Nat) (first : W16) (epoch : BitVec 4) : List Tok :=
  let k := seedCount t n
  (List.range k).map (fun i => { tag := first, epoch := epoch, seq := BitVec.ofNat 8 i, last := decide (i + 1 = k) })

/-- An input opens for a step: emptied, its epoch advanced, a feedback input seeded (R68, R95). -/
def openIn (t : Tile) (first : W16) (n : Nat) (x : InLive) : InLive :=
  let ep := x.epoch + 1
  { dropped := x.dropped, closed := false, epoch := ep
    queue := if nbit (inReg t n).toNat 63 ∧ inType t n = 1 then seedGroup t n first ep else [] }

/-- A tile of the section at launch. -/
def openTile (hh : Hearth) (c : Nat) (first : W16) (v : Nat) : Hearth :=
  let hh := if (tileAt hh v).active = c then hh else changeContext hh v c
  let hh := (List.range 16).foldl (fun hh n => forgetClosed hh (tileRef v) n) hh
  updTile hh v (fun t => { t with
    ins := (List.range 16).foldl (fun m n => mput {} m n (openIn t first n (mget {} t.ins n))) t.ins
    matches_ := [], staging := [], emits := [], fired := [], fireNo := [], waitSlots := [], flags := [], cur := none
    switching := none, syncs := freshSyncs (mget {} t.cfg c), state := .running })

/-- A thread of the section at launch. -/
def openThread (hh : Hearth) (u : Nat) : Hearth :=
  forgetClosed (updThread hh u (fun t => { state := 1, closed := false, epoch := t.epoch + 1, dropped := t.dropped }))
    (threadRef u) 0

/-- An endpoint of the section at launch; credits that its peer has granted stay (R304). -/
def openEp (hh : Hearth) (k home : Nat) : Hearth :=
  forgetClosed (updEp hh k (fun x =>
    { closed := false, epoch := x.epoch + 1, dropped := x.dropped, peerCredits := x.peerCredits, peerEpoch := x.peerEpoch
      reqTag := x.reqTag })) (epRef home k) 0

/-- Every sender output towards a reader input holds no credit and the reader's epoch (R210). -/
def aimSenders (hh : Hearth) (st : Step) : Hearth :=
  let hh := (secTiles hh st.ctx st.ran).foldl (fun hh v =>
    (List.range 16).foldl (fun hh n =>
      let x := inLive (tileAt hh v) n
      (senderTable hh st.ctx v n).foldl (fun hh y => putSnd hh y.2.1 y.2.2 { credits := 0, epoch := x.epoch }) hh) hh) hh
  let hh := (secThreads hh st.ctx st.ran).foldl (fun hh y =>
    let d := stkOf y.2.body
    if d.mode = 1 ∨ d.mode = 2 then
      putSnd hh ⟨1, BitVec.ofNat 16 d.src⟩ d.srcOut { credits := 0, epoch := (threadAt hh y.1).epoch } else hh) hh
  (secEps hh st.ctx st.ran).foldl (fun hh y =>
    let d := epOf y.2.body
    if epSink d then
      putSnd hh ⟨1, BitVec.ofNat 16 d.loc⟩ d.localIo { credits := 0, epoch := (epAt hh y.1).epoch } else hh) hh

/-- The live state of the hearth objects with a table 4 entry in the context, at a launch (R222). -/
def freshHsync (hh : Hearth) (c : Nat) : SMap HSync :=
  (mget {} hh.ctxs c).hsync.foldl (fun m x =>
    let v := if wb x.2 63 62 = 2 then wb x.2 31 16 else 0
    mput {} m x.1 { value := v, init := v }) hh.hsync

/-- A combining input grants WINDOW + 1 credits to each of its n senders (R210, R215, R217). -/
def grantCombining (hh : Hearth) (v n : Nat) : Hearth :=
  let t := tileAt hh v
  if !(nbit (inReg t n).toNat 63 && inType t n == 2) then hh else
  let tbl := senderTable hh t.active v n
  let x := inLive t n
  let idx := List.range (min (inSenders t n) tbl.length)
  let w := inWindowOf t n
  let hh := putTile hh v (putIn t n { x with owed := idx.foldl (fun m i => mput 0 m i w) x.owed })
  idx.foldl (fun hh i => match tbl[i]? with
    | some s => sendCredit hh s.2.1 s.2.2 x.epoch w
    | none => hh) hh

/-- First credits of combining inputs, and of the endpoints that read the flue (R215, R304, R310). -/
def firstGrants (h : Nat) (hh : Hearth) (st : Step) : Hearth :=
  let hh := (secTiles hh st.ctx st.ran).foldl (fun hh v => (List.range 16).foldl (fun hh n => grantCombining hh v n) hh) hh
  (secEps hh st.ctx st.ran).foldl (fun hh y =>
    let d := epOf y.2.body
    let x := epAt hh y.1
    if d.kind = 2 then sendNotice h hh (peerDest d) d.peerEp 0 x.epoch.toNat 0 0 d.credits 0
    else if d.kind = 6 then
      (List.range (d.senders + 1)).foldl (fun hh i => grantSender h hh y.1 i (d.window + 1)) hh
    else hh) hh

/-- The launch actions of R68 and the calibration latches (R144), in the order of R333. -/
def launchActions (h : Nat) (hh : Hearth) (st : Step) : Hearth :=
  let hh := (secTiles hh st.ctx st.ran).foldl (fun hh v => openTile hh st.ctx st.first v) hh
  let hh := (secThreads hh st.ctx st.ran).foldl (fun hh x => openThread hh x.1) hh
  let hh := (secEps hh st.ctx st.ran).foldl (fun hh x => openEp hh x.1 x.2.home) hh
  let hh := aimSenders { hh with hsync := freshHsync hh st.ctx, syncWords := hh.syncWords.filter (fun y => !stepWord hh st y.1) } st
  firstGrants h (latchCal hh st.ctx) st

/-- A step leaves HELD: the checks of Table 10-2 marked "again", then STARTING (R332, R333). -/
def startHeld (e : Env) (hh : Hearth) (id : Nat) : Hearth :=
  match hh.steps.find? (fun x => x.id == id) with
  | none => hh
  | some x =>
    match dispatchCheck e.h hh x with
    | some (st, d) => endStepH e (updStep hh id (fun y => { y with det := d })) id st
    | none =>
      let ran := ranOf hh x.ctx x.sec
      let hh := moveStep e hh id (fun y => { y with
        state := .starting, ran := ran, linked := sectionLinked hh x.ctx ran, launchTime := e.now, began := true
        est := estimateOf hh x.ctx ran x.n })
      refreshSt { hh with
        slotLat := if hh.slotLat = some id then none else hh.slotLat
        slotBest := if hh.slotBest = some id then none else hh.slotBest }

/-- A tile that the saved census has and that is no longer enabled (R348). -/
def lostTile (hh : Hearth) (x : Step) : Bool :=
  match hh.snap with
  | none => false
  | some sn => (setBits 10 (mget {} hh.ctxs x.ctx).region.dieMask.toNat).any (fun d =>
      let old := (sn.census.getD d 0).toNat % 2 ^ 48
      old &&& (2 ^ 48 - 1 - dieEnabled (dieOf hh d)) != 0)

/-- A frozen step enters RESTORING: the census is checked against the saved head (R348 step 1). -/
def beginRestore (e : Env) (hh : Hearth) (id : Nat) : Hearth :=
  match hh.steps.find? (fun x => x.id == id) with
  | none => hh
  | some x =>
    if lostTile hh x then endStepH e hh id .abortedFault
    else refreshSt (moveStep e hh id (fun y => { y with state := .restoring }))

/-- STEP_DISPATCH: while no step runs, the first that R335 names starts. -/
def execStepDispatch (h : Nat) (s : State) : Host.Outcome State Fault Refusal :=
  hearthEvent s h (fun e hh =>
    if (runStep hh).isSome then hh else
    match hh.slotLat with
    | some id => startHeld e hh id
    | none =>
      match frozenStep hh with
      | some f => if !f.byHost then beginRestore e hh f.id
        else (match hh.slotBest with | some id => startHeld e hh id | none => hh)
      | none => match hh.slotBest with | some id => startHeld e hh id | none => hh)

/-- STEP_START_COMPLETE: contexts changed, R68 performed, the step RUNNING (R333). -/
def execStepStartComplete (h : Nat) (s : State) : Host.Outcome State Fault Refusal :=
  hearthEvent s h (fun e hh =>
    match runStep hh with
    | none => hh
    | some x =>
      if x.state ≠ .starting ∨ (secTiles hh x.ctx x.ran).any (fun v => (tileAt hh v).state == .resetting) then hh
      else moveStep e (launchActions h hh x) x.id (fun y => { y with state := .running }))

/-- A tile of the region as the save area gives it back: its configurations, status and counters stay. A tile of the step has
the step's context and is RUNNING; another has the context it had, while that is still VALID in it, and else its SRAM alone
(log 89). -/
def restoreTile (c : Nat) (mine : Bool) (old : Tile) (t : Tile) : Tile :=
  let back := { old with
    cfg := t.cfg, valid := t.valid, fault := t.fault, view := t.view, fireCount := t.fireCount, busyCycles := t.busyCycles
    switching := none, cur := none }
  if mine then { back with active := c, state := .running }
  else if t.valid.getLsbD old.active then { back with state := t.state }
  else { t with acc := old.acc, store := old.store }

/-- The step fields and latched values of a saved record, over the stored and lifetime fields of the live one (R144). -/
def stepFields (saved r : CalRec) : CalRec :=
  { saved with cfg := r.cfg, state := r.state, lifeElems := r.lifeElems, lifeClip := r.lifeClip, lifeNar := r.lifeNar }

/-- A hearth into which a snapshot is read back: the tiles of the section change to its context, and everything that R343 saves is
as it was saved; nothing is kept any longer (R348). -/
def restoreSaved (hh : Hearth) (x : Step) (sn : Snapshot) : Hearth :=
  let r := (mget {} hh.ctxs x.ctx).region
  let mine := secTiles hh x.ctx x.ran
  let hh := mine.foldl (fun hh v => if (tileAt hh v).active = x.ctx then hh else changeContext hh v x.ctx) hh
  let hh := sn.tiles.foldl (fun hh y => updTile hh y.1 (restoreTile x.ctx (mine.contains y.1) y.2)) hh
  let keep (a : Nat) : Bool := !savedSlice hh r a
  { setSpill hh sn.spill with
    threads := sn.threads.foldl (fun m y => mput {} m y.1 { y.2 with state := 1 }) hh.threads
    hsync := (mget {} hh.ctxs x.ctx).hsync.foldl (fun m y => mput {} m y.1 (mget {} sn.hsync y.1)) hh.hsync
    cal := (List.range 32).foldl (fun m i => mupd {} m (calKey x.ctx i) (stepFields (mget {} sn.cal (calKey x.ctx i)))) hh.cal
    mem := sn.slices.foldl (fun m y => memPut m y.1 y.2) (hh.mem.filter (fun y => keep y.1))
    wild := (savedRanges r).foldl (fun w x => unwild w x.1 x.2) hh.wild ++ sn.wild
    errs := sn.errs.foldl (fun m y => mput (0, 0) m y.1 y.2) (hh.errs.filter (fun y => keep (8 * y.1)))
    snap := none
    syncWords := sn.syncWords.foldl (fun m y => mput (0, 0) m y.1 y.2) (hh.syncWords.filter (fun y => !stepWord hh x y.1)) }

/-- RESTORE_COMPLETE: saved state read back, save buffers delivered, the step RUNNING (R348). -/
def execRestoreComplete (h : Nat) (s : State) : Host.Outcome State Fault Refusal :=
  hearthEvent s h (fun e hh =>
    match runStep hh, hh.snap with
    | some x, some sn =>
      if x.state ≠ .restoring then hh
      else if lostTile hh x then endStepH e hh x.id .abortedFault else
      deliverSaved e (moveStep e (restoreSaved hh x sn) x.id (fun y => { y with state := .running }))
    | _, _ => hh)

/-! ### Completing (R69) -/

/-- A thread has done every tag, and has made its last post (R259). -/
def threadFinished (st : Step) (d : Stk) (t : Thread) : Bool :=
  t.held.isNone && t.unacked == [] && t.fetch.isNone && t.toSend == [] && t.part == [] && !postDue d st t
    && (match d.mode with
        | 0 => decide (st.n ≤ t.next)
        | 4 => decide (st.n ≤ t.next)
        | 2 => decide (st.n ≤ t.next) && decide (st.n ≤ t.donePre)
        | _ => decide (st.n ≤ t.donePre))

/-- An endpoint has done every tag, and a SEND or CONTRIBUTE has sent on what it accepted. DEDUCED, log 61. -/
def epFinished (st : Step) (d : EpD) (x : EpLive) : Bool :=
  x.buf == [] && x.writes == [] && x.unperformed == [] && (!(epSink d || epSource d) || (x.toSend == [] && decide (st.n ≤ x.donePre)))

/-- A tile of the section holds no open tag and no firing, and its slots without inputs have fired for every tag. -/
def tileFinished (st : Step) (t : Tile) : Bool :=
  t.cur.isNone && t.flags == []
    && t.ins.all (fun x => x.2.opened == [] && x.2.queue == [] && x.2.flags == [])
    && (slotsOn t).all (fun s => opIns t s != [] || decide (st.n ≤ mget 0 t.fireNo s))

/-- The conditions of R69: tokens of its sources are all accepted. -/
def stepFinished (hh : Hearth) (st : Step) : Bool :=
  hh.flights.all (fun f => f.snd.kind == 1) && hh.reqs == [] && hh.acks == [] && hh.arb.isNone && !hh.spilling && hh.spill == []
    && (secThreads hh st.ctx st.ran).all (fun x => threadFinished st (stkOf x.2.body) (threadAt hh x.1))
    && (secEps hh st.ctx st.ran).all (fun x => epFinished st (epOf x.2.body) (epAt hh x.1))
    && (secTiles hh st.ctx st.ran).all (fun v => tileFinished st (tileAt hh v))

/-- STEP_COMPLETE: every condition of R69 holds, and the step ends with DONE; in HALTING the freeze is cancelled
(Table 10-5). -/
def execStepComplete (h : Nat) (s : State) : Host.Outcome State Fault Refusal :=
  hearthEvent s h (fun e hh =>
    match runStep hh with
    | none => hh
    | some x => if syncState x ∧ stepFinished hh x then endStepH e hh x.id .done else hh)

end Sys2Proof.Machine
end

