-- ==== Sys2Proof/Machine/StepCmds.lean ====
section
/-! DEFINITION. Step commands (Table 12-14, R347 to R350, R397, R398). -/

namespace Sys2Proof.Machine

/-- A workload is known (R338). -/
def known (s : State) (w : Nat) : Bool := (mget {} s.accounts w).known

/-- The number of known workloads. -/
def knownCount (s : State) : Nat := (s.accounts.filter (fun a => a.2.known)).length

/-- The first of some checks that fails. -/
def firstSome {α β : Type} (l : List α) (f : α → Option β) : Option β := l.findSome? f

/-! ### LAUNCH_STEP -/

/-- Table 10-2 at submission: each check for every named hearth, in the order of the table. -/
def launchChecks (s : State) (hs : List Nat) (w c sec n : Nat) : Option (Status × Nat) :=
  let all (k : Nat) : Option (Status × Nat) := firstSome hs (fun h => launchCheck h (hearthOf s h) c sec n k)
  firstSome [1, 2, 3, 4, 5, 6] (fun k =>
    if k = 3 then (if known s w ∨ knownCount s < 64 then none else some (.rejectedTarget, 10)) else all k)

/-- A workload that becomes active sets V to the larger of its own V and the smallest V among the active workloads of its
class (R339). -/
def activate (s : State) (w : Nat) : State :=
  if workloadActive s w then s else
  let a := mget {} s.accounts w
  let peers := s.accounts.filter (fun x => x.2.known && x.2.latency == a.latency && x.1 != w && workloadActive s x.1)
  let v := match peers with
    | [] => a.vtime
    | x :: l => max a.vtime (l.foldl (fun m y => min m y.2.vtime) x.2.vtime)
  { s with accounts := mput {} s.accounts w { a with vtime := v } }

/-- Register a workload with weight 100 and best-effort class, if it is not known (R338). -/
def register (s : State) (w : Nat) : State :=
  if known s w then s else { s with accounts := mput {} s.accounts w { known := true } }

/-- What the checks of Table 12-5 look at in LAUNCH_STEP. -/
def launchStepSpec (p : Pkt) (s : State) : CmdSpec :=
  let hs := named p
  let c := fld p 0x10 1
  let sec := fld p 0x11 1
  let n := fld p 0x18 8
  { code := 0x40, service := false, tree := true, need := .some
    fields := [(0x10, 1, full 1), (0x11, 1, full 1), (0x12, 2, full 2), (0x18, 8, full 8), (0x20, 8, full 8),
      (0x28, 4, full 4)]
    lens := [(0x18, decide (1 ≤ n)), (0x28, decide (max 128 (128 * hs.length) ≤ fld p 0x28 4))]
    ranges := [(0x10, decide (c ≤ 3)), (0x11, decide (sec ≤ 63))]
    bufs := [(0x20, fld p 0x20 8, fld p 0x28 4)]
    own9 := launchChecks s hs (wl p) c sec n }

/-- LAUNCH_STEP: one PENDING step in every named hearth (R331, R397). -/
def execLaunchStep (p : Pkt) (s : State) : Host.Outcome State Fault Refusal :=
  let hs := named p
  let c := fld p 0x10 1
  let sec := fld p 0x11 1
  let n := fld p 0x18 8
  done (submit s p (launchStepSpec p s)
    (fun id s =>
      let s := activate (register s (wl p)) (wl p)
      let s := setWait s id (.steps (p.hearths) [])
      let s := (List.range hs.length).foldl (fun s i =>
        let h := hs.getD i 0
        updH s h (fun hh => { hh with steps := hh.steps ++
          [{ id := s.order + i, waiter := id, report := BitVec.ofNat 64 (fld p 0x20 8), rank := i, workload := wl p, ctx := c
             sec := sec, ran := sec, linked := sectionLinked hh c sec, first := BitVec.ofNat 16 (fld p 0x12 2), n := n, state := .pending
             mark := s.time.ns, causeWorkload := wl p, order := s.order + i }] })) s
      { s with order := s.order + hs.length }))

/-! ### PREEMPT_STEP -/

/-- The steps of a workload in a hearth that have not ended. -/
def stepsOf (hh : Hearth) (w : Nat) : List Step := hh.steps.filter (fun x => x.workload == w && x.state != .ended)

/-- The step of a workload in a hearth in RUNNING to FROZEN: the running one before one that is frozen (R347). -/
def activeOf (hh : Hearth) (w : Nat) : Option Step :=
  ((stepsOf hh w).find? (fun x => x.state == .running || x.state == .halting || x.state == .saving)).orElse
    (fun _ => (stepsOf hh w).find? (fun x => x.state == .frozen))

/-- STEP scope of a rejected state: the state of the workload's step, ENDED where it has none. -/
def stepDetail (h : Nat) (hh : Hearth) (w : Nat) : Nat :=
  stateDetail 2 h (match stepsOf hh w with | x :: _ => stepCode x.state | [] => 9)

/-- The rejections of R347 in one hearth. For a tree command a hearth where no step of the workload is left passes: its step has
ended (R349). -/
def preemptCheck (h : Nat) (hh : Hearth) (w : Nat) (tree : Bool) : Option (Status × Nat) :=
  match activeOf hh w with
  | none => if tree && (stepsOf hh w).isEmpty then none else some (.rejectedState, stepDetail h hh w)
  | some x =>
    if hh.steps.any (fun y => y.state == .frozen && y.id != x.id) then some (.rejectedState, stateDetail 3 h 4)
    else if x.linked && !tree then some (.rejectedState, stateDetail 3 h 6)
    else none

/-- The host or the tree freezes a workload's step: a running one halts; one that a class freeze has caught becomes frozen by
the host (R338, R347, Table 10-5); one held after HALT begins to save (R349). -/
def preemptOne (e : Env) (hh : Hearth) (w round : Nat) : Hearth :=
  match activeOf hh w with
  | none => hh
  | some x =>
    if x.state = .running then beginHalt e hh x true w
    else
      let hh := moveStep e hh x.id (fun y => { y with byHost := true, causeWorkload := w })
      if round ≠ 1 ∧ x.state = .halting ∧ x.treeHold then
        moveStep e hh x.id (fun y => { y with state := .saving, treeHold := false }) else hh

/-- The packet of another round. -/
def withRound (p : Pkt) (r : Nat) : Pkt := { p with par := BitVec.ofNat 8064 (p.par.toNat / 256 * 256 + r) }

/-- A PREEMPT_STEP that is marked for the tree; a forwarded one keeps the mark (R410). -/
def preemptTree (p : Pkt) : Bool := nbit p.flags.toNat 0

/-- A PREEMPT_STEP that runs the two rounds of R349 through its tree. -/
def twoPhase (p : Pkt) : Bool := nbit p.flags.toNat 0 && fld p 0x10 1 == 0

/-- What the checks of Table 12-5 look at in PREEMPT_STEP. -/
def preemptSpec (p : Pkt) (s : State) : CmdSpec :=
  let round := fld p 0x10 1
  { code := 0x41, service := false, tree := true, need := .some, anyState := preemptTree p, hst := [.running, .frozen]
    named := named p, fields := [(0x10, 1, full 1)]
    ranges := [(0x10, round == 0 || (decide (round ≤ 2) && (ringOf p.src).isNone))]
    targets := [(10, known s (wl p) || preemptTree p)]
    own := firstSome (named p) (fun h => preemptCheck h (hearthOf s h) (wl p) (preemptTree p))
    fwd := if twoPhase p then some (withRound p 1) else none }

/-- What an accepted PREEMPT_STEP does: it waits for the steps of the workload in the named hearths, which halt. -/
def preemptRun (p : Pkt) (id : Nat) (s : State) : State :=
  let hs := named p
  let l := hs.filterMap (fun h => (activeOf (hearthOf s h) (wl p)).map (fun x => (h, x.id)))
  let save : Option (BitVec 512) :=
    if twoPhase p then some (BitVec.ofNat 512 (ofLE ((pktBytes 0x41 (withRound p 2)).take 64))) else none
  let s := setWait s id (.preempt l (fld p 0x10 1 == 1 || twoPhase p) save)
  onHearths s hs (fun e hh => preemptOne e hh (wl p) (if twoPhase p then 1 else fld p 0x10 1))

/-- PREEMPT_STEP with the round in its packet. At a manager a tree command runs HALT first and SAVE after it (R349). -/
def preemptWith (p : Pkt) (s : State) : State := settle (submit s p (preemptSpec p s) (preemptRun p))

/-- PREEMPT_STEP, ROUND 0 (R347). -/
def execPreemptStep (p : Pkt) (s : State) : Host.Outcome State Fault Refusal :=
  nextOf (if fld p 0x10 1 = 1 ∨ fld p 0x10 1 = 2 then s else preemptWith p s)

/-- PREEMPT_STEP, ROUND 1 HALT (R349). -/
def execPreemptStepHalt (p : Pkt) (s : State) : Host.Outcome State Fault Refusal :=
  nextOf (if fld p 0x10 1 = 1 then preemptWith p s else s)

/-- PREEMPT_STEP, ROUND 2 SAVE (R349). -/
def execPreemptStepSave (p : Pkt) (s : State) : Host.Outcome State Fault Refusal :=
  nextOf (if fld p 0x10 1 = 2 then preemptWith p s else s)

/-! ### RESUME_STEP and ABORT_STEP -/

/-- The workload's step that is frozen by the host. -/
def hostFrozen (hh : Hearth) (w : Nat) : Option Step :=
  match frozenStep hh with
  | some x => if x.workload = w ∧ x.byHost then some x else none
  | none => none

/-- The rejections of R348 in one hearth. -/
def resumeCheck (h : Nat) (hh : Hearth) (w : Nat) : Option (Status × Nat) :=
  if (hostFrozen hh w).isNone then some (.rejectedState, stepDetail h hh w)
  else if (runStep hh).isSome then some (.rejectedState, stateDetail 3 h 8)
  else if reshapeBusy hh then some (.rejectedState, stateDetail 3 h 2) else none

/-- A step frozen by the host resumes: check 6 of Table 10-2 again, then RESTORING (R348). -/
def resumeOne (e : Env) (hh : Hearth) (w id : Nat) : Hearth :=
  match hostFrozen hh w with
  | none => hh
  | some x =>
    let hh := updStep hh x.id (fun y => { y with waiter := id, told := false })
    match badExtent hh x.ctx x.ran x.n with
    | some d => endStepH e (updStep hh x.id (fun y => { y with det := d })) x.id .rejectedParameter
    | none => beginRestore e hh x.id

/-- What the checks of Table 12-5 look at in RESUME_STEP. -/
def resumeStepSpec (p : Pkt) (s : State) : CmdSpec :=
  let hs := named p
  { code := 0x42, service := false, tree := true, need := .some, anyState := false, hst := [.frozen], named := hs
    targets := [(10, known s (wl p))]
    own := firstSome hs (fun h => resumeCheck h (hearthOf s h) (wl p)) }

/-- RESUME_STEP (R348): completes when the steps end. -/
def execResumeStep (p : Pkt) (s : State) : Host.Outcome State Fault Refusal :=
  let hs := named p
  done (submit s p (resumeStepSpec p s)
    (fun id s => onHearths (setWait s id (.steps p.hearths [])) hs (fun e hh => resumeOne e hh (wl p) id)))

/-- What the checks of Table 12-5 look at in ABORT_STEP. -/
def abortStepSpec : CmdSpec :=
  { code := 0x43, boot := true, tree := true, need := .some }

/-- ABORT_STEP: every step of the workload in the named hearths ends with ABORTED_BY_HOST (R352). -/
def execAbortStep (p : Pkt) (s : State) : Host.Outcome State Fault Refusal :=
  let hs := named p
  done (submit s p abortStepSpec
    (fun id s =>
      let n := hs.foldl (fun a h => a + (stepsOf (hearthOf s h) (wl p)).length) 0
      finish (onHearths s hs (fun e hh => endWorkload e hh (wl p) .abortedByHost)) id .done n 0 0))

/-! ### SAVE_STATE and RESTORE_STATE (R398) -/

/-- Bytes of a saved step: a head of 4,096 and the save area of Table 8-9. -/
def saveBytes : Nat := 234885120

/-- Bytes of a buffer whose contents the model does not spell out: undefined, under a generation number (log 13). -/
def blurBuffer (s : State) (w n gen : Nat) : State :=
  if spaceOf w then
    let (h, a) := localAddr (modAddr w)
    updH s h (fun hh => hUndef hh a (a + n) gen)
  else { s with hostWild := (hostAddr w, hostAddr w + n, gen) :: unwild s.hostWild (hostAddr w) (hostAddr w + n) }

/-- The bytes of a memory in [a, a + n) that are defined and not zero, by offset from a. -/
def sparseOf (m : Mem) (w : List (Nat × Nat × Nat)) (a n : Nat) : Mem :=
  (m.filter (fun y => decide (a ≤ y.1) && decide (y.1 < a + n) && (wildAt w y.1).isNone)).map (fun y => (y.1 - a, y.2))

/-- The ranges of free values of a memory in [a, a + n), by offset from a. -/
def freeOf (w : List (Nat × Nat × Nat)) (a n : Nat) : List (Nat × Nat × Nat) :=
  (clipWild w a (a + n)).map (fun x => (x.1 - a, x.2.1 - a, x.2.2))

/-- What SAVE_STATE writes: a head of 4,096 bytes, which the spec names and does not lay out (a free value), and the whole save
area (R398). -/
def saveImageOf (hh : Hearth) (gen : Nat) : Mem × List (Nat × Nat × Nat) :=
  ((sparseOf hh.mem hh.wild saveBase 0xE000000).map (fun y => (y.1 + 4096, y.2)),
   (0, 4096, gen) :: (freeOf hh.wild saveBase 0xE000000).map (fun x => (x.1 + 4096, x.2.1 + 4096, x.2.2)))

/-- A memory and its ranges of free values after an image was written at a. -/
def placeImage (m : Mem) (w : List (Nat × Nat × Nat)) (a : Nat) (bytes : Mem) (free : List (Nat × Nat × Nat)) :
    Mem × List (Nat × Nat × Nat) :=
  (bytes.foldl (fun m y => memPut m (a + y.1) y.2) (m.filter (fun y => decide (y.1 < a) || decide (a + saveBytes ≤ y.1))),
   free.map (fun x => (a + x.1, a + x.2.1, x.2.2)) ++ unwild w a (a + saveBytes))

/-- Write a saved step's image to a buffer. -/
def putImage (s : State) (w : Nat) (bytes : Mem) (free : List (Nat × Nat × Nat)) : State :=
  if spaceOf w then
    let (h, a) := localAddr (modAddr w)
    updH s h (fun hh =>
      let (m, u) := placeImage hh.mem hh.wild a bytes free
      { hh with mem := m, wild := u, errs := hh.errs.filter (fun e => e.1 < a / 8 || a + saveBytes ≤ 8 * e.1) })
  else
    let (m, u) := placeImage s.hostMem s.hostWild (hostAddr w) bytes free
    { s with hostMem := m, hostWild := u }

/-- The buffer still holds, where it was written, what SAVE_STATE wrote. -/
def bufferIntact (s : State) (w : Nat) (i : SaveImage) : Bool :=
  let same (m : Mem) (u : List (Nat × Nat × Nat)) (a : Nat) : Bool :=
    sparseOf m u a saveBytes == i.bytes && freeOf u a saveBytes == i.wild
  if spaceOf w then
    let (h, a) := localAddr (modAddr w)
    let hh := hearthOf s h
    same hh.mem hh.wild a && (badWord hh a saveBytes).isNone
  else same s.hostMem s.hostWild (hostAddr w)

/-- What the checks of Table 12-5 look at in SAVE_STATE. -/
def saveStateSpec (p : Pkt) (s : State) : CmdSpec :=
  let h := named1 p
  let a := fld p 0x10 8
  let hh := hearthOf s h
  { code := 0x44, service := false, need := .one, anyState := false, hst := [.frozen], named := named p
    fields := [(0x10, 8, full 8), (0x18, 8, full 8)], lens := [(0x18, decide (saveBytes ≤ fld p 0x18 8))]
    bufs := [(0x10, a, fld p 0x18 8)], targets := [(10, known s (wl p))]
    own := match hostFrozen hh (wl p) with
      | none => some (.rejectedState, stepDetail h hh (wl p))
      | some x => if x.linked then some (.rejectedState, stateDetail 3 h 6) else none }

/-- SAVE_STATE: a step frozen by the host goes into a buffer and ends with PREEMPTED. -/
def execSaveState (p : Pkt) (s : State) : Host.Outcome State Fault Refusal :=
  let h := named1 p
  let a := fld p 0x10 8
  done (submit s p (saveStateSpec p s)
    (fun id s =>
      let hh := hearthOf s h
      match hostFrozen hh (wl p), hh.snap with
      | some x, some sn =>
        if !(spaceOf a) && !inWindow s.regs (hostAddr a) saveBytes then
          finish (blocked s none (hostAddr a)) id .abortedFault 0 0 0
        else
          let gen := s.fresh
          let (bytes, free) := saveImageOf hh gen
          let img : SaveImage :=
            { serial := s.fuses.serial, hearth := h, census := sn.census, ctx := x.ctx
              digest := (mget {} hh.ctxs x.ctx).digest, step := x, snap := sn, bytes := bytes, wild := free }
          let s := putImage { s with fresh := gen + 1 } a bytes free
          let s := { s with saves := s.saves ++ [(a, img)] }
          let s := onHearth s h (fun e hh => endStepH e (updStep hh x.id (fun y => { y with told := true })) x.id .preempted)
          finish s id .done 0 0 0
      | _, _ => finish s id .abortedFault 0 0 0))

/-- The address of a buffer's byte in its own space. -/
def bufferBase (w : Nat) : Nat := if spaceOf w then (localAddr (modAddr w)).2 else hostAddr w

/-- Byte k of a buffer as it reads now. -/
def bufferByte (s : State) (w k : Nat) : Byte :=
  if spaceOf w then
    let (h, a) := localAddr (modAddr w)
    hByte (seenAt (hearthOf s h) a) (a + k)
  else hostByte s (hostAddr w + k)

/-- No word of a buffer is bad. -/
def bufferSound (s : State) (w n : Nat) : Bool :=
  if spaceOf w then
    let (h, a) := localAddr (modAddr w)
    (badWord (seenAt (hearthOf s h) a) a n).isNone
  else true

/-- A buffer holds, byte for byte, what SAVE_STATE wrote to the buffer at w': a saved step may be moved. -/
def bufferCopies (s : State) (w w' : Nat) (i : SaveImage) : Bool :=
  bufferSound s w saveBytes && (List.range saveBytes).all (fun k =>
    bufferByte s w k == (match wildAt i.wild k with
      | some g => Config.undefByte g (bufferBase w' + k)
      | none => mget 0 i.bytes k))

/-- The saved step that a buffer holds: one saved there, or one whose bytes have been moved there (log 13). -/
def savedIn (s : State) (w : Nat) : Option SaveImage :=
  match s.saves.find? (fun y => y.1 == w && bufferIntact s w y.2) with
  | some (_, i) => some i
  | none => (s.saves.find? (fun y => bufferCopies s w y.1 y.2)).map (·.2)

/-- What the checks of Table 12-5 look at in RESTORE_STATE. -/
def restoreStateSpec (p : Pkt) (s : State) : CmdSpec :=
  let h := named1 p
  let a := fld p 0x10 8
  let hh := hearthOf s h
  { code := 0x45, service := false, need := .one, anyState := false, hst := [.loaded, .running], named := named p
    fields := [(0x10, 8, full 8), (0x18, 8, full 8)], lens := [(0x18, decide (saveBytes ≤ fld p 0x18 8))]
    bufs := [(0x10, a, fld p 0x18 8)], targets := [(10, known s (wl p))]
    own := if (frozenStep hh).isSome ∨ hh.snap.isSome then some (.rejectedState, stateDetail 3 h 4)
      else match savedIn s a with
        | none => some (.rejectedParameter, 0x10)
        | some i =>
          let c := mget {} hh.ctxs i.ctx
          if i.census = census hh ∧ c.valid ∧ c.digest = i.digest then none else some (.rejectedParameter, 0x10) }

/-- RESTORE_STATE: the buffer's step is frozen by the host in the named hearth, under the named workload. -/
def execRestoreState (p : Pkt) (s : State) : Host.Outcome State Fault Refusal :=
  let h := named1 p
  let a := fld p 0x10 8
  done (submit s p (restoreStateSpec p s)
    (fun id s =>
      match savedIn s a with
      | none => finish s id .rejectedParameter 0x10 0 0
      | some i =>
        let s := { s with order := s.order + 1 }
        let s := activate s (wl p)
        let s := updH s h (fun hh =>
          let x := { i.step with
            id := s.order - 1, waiter := s.nextCmd, workload := wl p, state := .frozen, byHost := true, told := true
            mark := s.time.ns, causeWorkload := wl p, order := s.order - 1 }
          refreshSt { hh with
            steps := hh.steps ++ [x], snap := some { i.snap with step := x.id }
            eps := i.snap.eps.foldl (fun m y => mput {} m y.1 y.2) hh.eps })
        finish s id .done 0 0 0))

end Sys2Proof.Machine
end

