-- ==== Sys2Proof/Machine/DataCmds.lean ====
section
/-! DEFINITION. COPY and FILL (Table 12-15, R399), and the scheduling commands (R334, R338). -/

namespace Sys2Proof.Machine

/-! ### COPY -/

/-- A segment of a COPY: the offset of its SRC field, SRC, DST and BYTES. -/
structure Seg where
  off : Nat
  src : Nat
  dst : Nat
  bytes : Nat
  deriving DecidableEq, Repr

/-- The segment whose SRC field is at an offset. -/
def segAt (p : Pkt) (off : Nat) : Seg := ⟨off, fld p off 8, fld p (off + 8) 8, fld p (off + 16) 8⟩

/-- The segments of a COPY. An all-zero second half of the last slot holds none (log 41). -/
def copySegs (p : Pkt) : List Seg :=
  let n := slotsTaken p.slots.toNat
  let l := (List.range (2 * (n - 1))).map (fun j => segAt p (0x40 + 32 * j))
  segAt p 0x10 :: match l.getLast? with
    | some x => if x.src = 0 ∧ x.dst = 0 ∧ x.bytes = 0 then l.dropLast else l
    | none => l

/-- The hearth whose memory a module-space address word names. -/
def hearthOfWord (w : Nat) : List Nat := if spaceOf w then [(localAddr (modAddr w)).1] else []

/-- Bytes read for a copy, and the addresses of bad words: [offset, offset + length) of the source that they spoil (R246). -/
def copyRead (s : State) (w n : Nat) : State × List Byte × List (Nat × Nat) :=
  if spaceOf w then
    let (h, a) := localAddr (modAddr w)
    let bad := badWords (seenAt (hearthOf s h) a) a n
    let (hh, bs, _) := outsideRead (envOf s h) (hearthOf s h) a n
    (putH s h hh, bs, bad.map (fun b => (max b.1 a - a, min (b.1 + 8) (a + n) - max b.1 a)))
  else (s, hostBytes s (hostAddr w) n, [])

/-- A command has read its buffer of n bytes at an address word: corrected words are written back and bad ones count, as in any
read from outside (R385, R413). -/
def bufTouch (s : State) (w n : Nat) : State := (copyRead s w n).1

/-- Write bytes at an address word; `bad` gives the ranges whose source was bad: poisoned in module space, undefined in
host memory (log 42). -/
def copyWrite (s : State) (w : Nat) (bs : List Byte) (bad : List (Nat × Nat)) : State :=
  if spaceOf w then
    let (h, a) := localAddr (modAddr w)
    updH s h (fun hh =>
      let x := hWrite (seenAt hh a) a bs
      putSeen hh a (bad.foldl (fun x b => hPoison x (a + b.1) b.2) x))
  else
    let a := hostAddr w
    let s := hostWrite s a bs
    bad.foldl (fun s b => { s with
      fresh := s.fresh + 1
      hostWild := (a + b.1, a + b.1 + b.2, s.fresh) :: unwild s.hostWild (a + b.1) (a + b.1 + b.2) }) s

/-- The overlap of a segment's source and destination holds undefined contents (R399). -/
def blurOverlap (s : State) (x : Seg) : State :=
  if spaceOf x.src != spaceOf x.dst then s else
  let (a, b) := if spaceOf x.src then (modAddr x.src, modAddr x.dst) else (hostAddr x.src, hostAddr x.dst)
  let lo := max a b
  let hi := min (a + x.bytes) (b + x.bytes)
  if hi ≤ lo ∨ a = b then s else
  let w := if spaceOf x.src then 2 ^ 63 + lo else lo
  blurBuffer { s with fresh := s.fresh + 1 } w (hi - lo) s.fresh

/-- Copy one segment inside the module and the host. -/
def copyLocal (s : State) (x : Seg) : State :=
  let (s, bs, bad) := copyRead s x.src x.bytes
  blurOverlap (copyWrite s x.dst bs bad) x

/-- Send one segment to a remote module from the hearth that holds its source: the WRITE cells sent. What a bad source word
holds at the destination is undefined (log 42). -/
def copyRemote (s : State) (m : Nat) (x : Seg) : State × Nat × Nat :=
  let h := (localAddr (modAddr x.src)).1
  let (s, bs, bad) := copyRead s x.src x.bytes
  let gen := s.fresh
  let s := if bad = [] then s else { s with fresh := gen + 1 }
  let bs := (List.range bs.length).map (fun i =>
    if bad.any (fun b => b.1 ≤ i && i < b.1 + b.2) then Config.undefByte gen (x.dst + i) else bs.getD i 0)
  let ps := putPieces (bs.length + 1) (x.dst % 2 ^ 40) bs
  (updH s h (fun hh => ps.foldl (fun hh y => sendWrite h hh (.peer m h) 0 y.1 y.2 none none) hh), h, ps.length)

/-- Start the remote segments of a COPY and wait for their notices (R399). -/
def startRemote (s : State) (id m : Nat) (segs : List Seg) : State :=
  let (s, left) := segs.foldl (fun (a : State × List (Nat × Nat)) x =>
    let (s, h, n) := copyRemote a.1 m x
    (s, if a.2.any (fun y => y.1 == h) then a.2.map (fun y => if y.1 = h then (h, y.2 + n) else y)
        else a.2 ++ [(h, n)])) (s, [])
  setWait s id (.remoteCopy m left ((List.range segs.length).map (fun i =>
    let x := segs.getD i ⟨0, 0, 0, 0⟩
    ((localAddr (modAddr x.src)).1, i, x.dst % 2 ^ 40, x.bytes))))

/-- What the checks of Table 12-5 look at in COPY. -/
def copySpec (p : Pkt) : CmdSpec :=
  let segs := copySegs p
  let rem := fld p 0x28 4
  let remote := nbit rem 31
  { code := 0x50, slots := 0, tree := true, anyState := false, hst := rdyFrz
    named := segs.flatMap (fun x => hearthOfWord x.src ++ (if remote then [] else hearthOfWord x.dst))
    fields := segs.flatMap (fun x => [(x.off, 8, full 8), (x.off + 8, 8, if remote then 2 ^ 40 - 1 else full 8),
        (x.off + 16, 8, full 8)])
      ++ [(0x28, 4, if remote then 2 ^ 31 + (2 ^ 18 - 1) else 0)]
    lens := segs.map (fun x => (x.off + 16, decide (1 ≤ x.bytes) && decide (x.bytes ≤ 2 ^ 40)))
    ranges := if remote then segs.map (fun x => (x.off, spaceOf x.src)) else []
    bufs := segs.flatMap (fun x => (x.off, x.src, x.bytes) :: (if remote then [] else [(x.off + 8, x.dst, x.bytes)])) }

/-- COPY (R399). -/
def execCopy (p : Pkt) (s : State) : Host.Outcome State Fault Refusal :=
  let segs := copySegs p
  let rem := fld p 0x28 4
  let remote := nbit rem 31
  done (submit s p (copySpec p)
    (fun id s =>
      if remote then startRemote s id (nbits rem 17 0) segs
      else finish (segs.foldl copyLocal s) id .done 0 0 0))

/-- The oldest remote COPY of hearth h to module m that waits for notices. -/
def copyWaiting (s : State) (m h : Nat) : Option Started :=
  s.started.find? (fun x => match x.wait with
    | some (.remoteCopy m' left _) => m' == m && left.any (fun y => y.1 == h && y.2 != 0)
    | _ => false)

/-- A WRITE_DONE of n cells from module m at hearth h, for its remote COPY commands, the oldest first (R309, R399; log
38). -/
def copyDone (s : State) (m h n : Nat) : State :=
  match copyWaiting s m h with
  | some { id := id, wait := some (.remoteCopy m left segs), .. } =>
    let left' := (left.map (fun y => if y.1 = h then (h, y.2 - n) else y)).filter (fun y => y.2 != 0)
    if left' = [] then finish s id .done 0 0 0 else setWait s id (.remoteCopy m left' segs)
  | _ => s

/-- The first segment of a COPY that hearth h sends and whose destination a written word at an address touches. -/
def copySegAt (segs : List (Nat × Nat × Nat × Nat)) (h a : Nat) : Option Nat :=
  (segs.find? (fun x => x.1 == h && decide (x.2.2.1 < a + 4) && decide (a < x.2.2.1 + x.2.2.2))).map (·.2.1)

/-- An ACCESS_FAULT from module m at hearth h for a remote COPY: it ends with the index of the segment that holds the address
(R399). -/
def copyFault (s : State) (m h a : Nat) : Option State :=
  (s.started.findSome? (fun x => match x.wait with
      | some (.remoteCopy m' _ segs) => if m' = m then (copySegAt segs h a).map (fun i => (x.id, i)) else none
      | _ => none)).map (fun r => finish s r.1 .abortedFault r.2 0 0)

/-! ### FILL -/

/-- The bytes that FILL writes: byte (a mod 8) of the pattern at address a. -/
def fillBytes (pattern a n : Nat) : List Byte :=
  (List.range n).map (fun i => BitVec.ofNat 8 (pattern / 256 ^ ((a + i) % 8)))

/-- What the checks of Table 12-5 look at in FILL. -/
def fillSpec (p : Pkt) : CmdSpec :=
  let dst := fld p 0x10 8
  let n := fld p 0x18 8
  { code := 0x51, tree := true, anyState := false, hst := rdyFrz, named := hearthOfWord dst
    fields := [(0x10, 8, full 8), (0x18, 8, full 8), (0x20, 8, full 8)]
    lens := [(0x18, decide (1 ≤ n) && decide (n ≤ 2 ^ 40))]
    bufs := [(0x10, dst, n)] }

/-- FILL (Table 12-15). -/
def execFill (p : Pkt) (s : State) : Host.Outcome State Fault Refusal :=
  let dst := fld p 0x10 8
  let n := fld p 0x18 8
  let a := if spaceOf dst then modAddr dst else hostAddr dst
  done (submit s p (fillSpec p)
    (fun id s => finish (copyWrite s dst (fillBytes (fld p 0x20 8) a n) []) id .done 0 0 0))

/-! ### Scheduling (R334, R338) -/

/-- What the checks of Table 12-5 look at in SET_CLASS_POLICY. -/
def setClassPolicySpec (p : Pkt) (s : State) : CmdSpec :=
  { code := 0x60, tree := true, fields := [(0x10, 1, full 1), (0x11, 1, full 1)]
    ranges := [(0x10, decide (fld p 0x10 1 ≤ 1)), (0x11, decide (fld p 0x11 1 ≤ 1))]
    targets := [(10, known s (wl p))] }

/-- SET_CLASS_POLICY: class and pre-emption policy of a known workload, for its steps from now on (R334). -/
def execSetClassPolicy (p : Pkt) (s : State) : Host.Outcome State Fault Refusal :=
  done (submit s p (setClassPolicySpec p s)
    (fun id s => finish { s with accounts := mupd {} s.accounts (wl p) (fun a =>
      { a with latency := fld p 0x10 1 == 1, mayPreempt := fld p 0x11 1 == 1 }) } id .done 0 0 0))

/-- What the checks of Table 12-5 look at in SET_SHARES. -/
def setSharesSpec (p : Pkt) (s : State) : CmdSpec :=
  let w := fld p 0x12 2
  { code := 0x61, tree := true, fields := [(0x10, 1, full 1), (0x12, 2, full 2)]
    ranges := [(0x10, decide (fld p 0x10 1 ≤ 1)), (0x12, decide (1 ≤ w) && decide (w ≤ 1000))]
    targets := [(10, known s (wl p) || decide (knownCount s < 64))] }

/-- SET_SHARES with ACTION 0: register a workload, or set its weight (R338). -/
def execSetShares (p : Pkt) (s : State) : Host.Outcome State Fault Refusal :=
  let w := fld p 0x12 2
  if fld p 0x10 1 = 1 then nextOf s else
  done (submit s p (setSharesSpec p s)
    (fun id s =>
      let s := register s (wl p)
      finish { s with accounts := mupd {} s.accounts (wl p) (fun a => { a with weight := w }) } id .done 0 0 0))

/-- What the checks of Table 12-5 look at in SET_SHARES_REMOVE. -/
def setSharesRemoveSpec (p : Pkt) (s : State) : CmdSpec :=
  { code := 0x61, tree := true, fields := [(0x10, 1, full 1), (0x12, 2, 0)]
    targets := [(10, known s (wl p))]
    own := if workloadActive s (wl p) then some (.rejectedState, stateDetail 3 15 5) else none }

/-- SET_SHARES with ACTION 1: remove a workload that has no active step (R338). -/
def execSetSharesRemove (p : Pkt) (s : State) : Host.Outcome State Fault Refusal :=
  if fld p 0x10 1 ≠ 1 then nextOf s else
  done (submit s p (setSharesRemoveSpec p s)
    (fun id s => finish { s with accounts := mput {} s.accounts (wl p) {} } id .done 0 0 0))

end Sys2Proof.Machine
end

