-- ==== Sys2Proof/Machine/FabricCmds.lean ====
section
/-! DEFINITION. Roles, routes, links and module time (Table 12-16), and the power cap, sampling and calibration commands
(Table 12-17). -/

namespace Sys2Proof.Machine

/-! ### SET_ROLE and SET_ROUTES -/

/-- A tree command or a linked step is in progress (Table 12-8, condition 11). -/
def treeBusy (s : State) : Bool :=
  s.started.any (fun x => x.tree || x.org.src == .parent)
    || s.hearths.any (fun y => y.2.steps.any (fun x => x.linked && x.began && x.state != .ended))

/-- What the checks of Table 12-5 look at in SET_ROLE. -/
def setRoleSpec (p : Pkt) (s : State) : CmdSpec :=
  let role := fld p 0x10 1
  let th := fld p 0x11 1
  let hasParent := fld p 0x12 1 % 2 = 1
  let n := fld p 0x1A 2
  let tab := fld p 0x20 8
  let top := topOf (hearthOf s th)
  { code := 0x70, anyState := false, hst := alive, named := [th]
    fields := [(0x10, 1, full 1), (0x11, 1, full 1), (0x12, 1, 1), (0x14, 4, if hasParent then 2 ^ 18 - 1 else 0),
      (0x18, 1, if hasParent then full 1 else 0), (0x1A, 2, if role = 0 then 0 else full 2),
      (0x20, 8, if role = 0 then 0 else full 8)]
    lens := [(0x1A, role == 0 || decide (2 < role) || (decide (1 ≤ n) && decide (n ≤ if role = 1 then 256 else 1024)))]
    ranges := [(0x10, decide (role ≤ 2)), (0x11, decide (th ≤ 8)), (0x18, decide (fld p 0x18 1 ≤ 8)),
      (0x20, role == 0 || decide (tab + 8 * n ≤ top))]
    own := if treeBusy s then some (.rejectedState, stateDetail 3 15 11) else none }

/-- SET_ROLE (R321, R322). -/
def execSetRole (p : Pkt) (s : State) : Host.Outcome State Fault Refusal :=
  let role := fld p 0x10 1
  let th := fld p 0x11 1
  let hasParent := fld p 0x12 1 % 2 = 1
  let n := fld p 0x1A 2
  let tab := fld p 0x20 8
  done (submit s p (setRoleSpec p s)
    (fun id s =>
      finish { s with role :=
        { role := role, treeHearth := th, parent := if hasParent then some (fld p 0x14 4, fld p 0x18 1) else none
          children := n, table := tab } } id .done 0 0 0))

/-- An entry that a table may hold: VALID only with ports up to 53 (Table 12-16). -/
def routeOk (w : Nat) : Bool := !nbit w 63 || (decide (nbits w 60 55 ≤ 53) && decide (nbits w 54 49 ≤ 53))

/-- The defined fields of a route entry (Table 9-18). -/
def routeWord (w : Nat) : W64 := BitVec.ofNat 64 (nbits w 63 63 * 2 ^ 63 + nbits w 60 45 * 2 ^ 45)

/-- The entries of a table of n 8-byte words, keyed from 0. -/
def routeMap (ws : List Nat) : SMap W64 :=
  (List.range ws.length).foldl (fun m i => mput 0 m i (routeWord (ws.getD i 0))) []

/-- What the checks of Table 12-5 look at in SET_ROUTES. -/
def setRoutesSpec (p : Pkt) (s : State) : CmdSpec :=
  let f := fld p 0x10 1
  let id? := nbit f 0
  let tab? := nbit f 1
  let ctl? := nbit f 2
  let tab := fld p 0x18 8
  let hs := named p
  let words (s : State) : List Nat :=
    match bufRead s tab 65792 with
    | some bs => (List.range 8224).map (fun i => ofLE ((bs.drop (8 * i)).take 8))
    | none => []
  { code := 0x71, need := .some, anyState := false, hst := alive, named := hs
    fields := [(0x10, 1, 7), (0x14, 4, if id? then 2 ^ 31 + (2 ^ 18 - 1) else 0), (0x18, 8, if tab? then full 8 else 0),
      (0x20, 2, if ctl? then full 2 else 0), (0x22, 1, if ctl? then full 1 else 0)]
    ranges := [(0x10, f != 0), (0x20, !ctl? || (decide (2 ≤ fld p 0x20 2) && decide (fld p 0x20 2 ≤ 1000))),
      (0x22, decide (fld p 0x22 1 ≤ 1))]
    bufs := if tab? then [(0x18, tab, 65792)] else []
    own := if tab? then ((words s).findIdx? (fun w => !routeOk w)).map (fun i => (.rejectedParameter, 0x80000000 + i))
      else none }

/-- SET_ROUTES: the selected parts go to every named hearth, and the id to flash (R316, R320). -/
def execSetRoutes (p : Pkt) (s : State) : Host.Outcome State Fault Refusal :=
  let f := fld p 0x10 1
  let id? := nbit f 0
  let tab? := nbit f 1
  let ctl? := nbit f 2
  let mid := fld p 0x14 4
  let tab := fld p 0x18 8
  let hs := named p
  let words (s : State) : List Nat :=
    match bufRead s tab 65792 with
    | some bs => (List.range 8224).map (fun i => ofLE ((bs.drop (8 * i)).take 8))
    | none => []
  done (submit s p (setRoutesSpec p s)
    (fun id s =>
      let ws := words s
      let s := if tab? then bufTouch s tab 65792 else s
      let s := hs.foldl (fun s h => updH s h (fun hh =>
        let hh := if id? then { hh with moduleId := BitVec.ofNat 18 mid, idValid := nbit mid 31 } else hh
        let hh := if tab? then { hh with routeLocal := routeMap (ws.take 32), routeGroup := routeMap (ws.drop 32) } else hh
        if ctl? then { hh with resend := fld p 0x20 2, damperEn := fld p 0x22 1 == 1 } else hh)) s
      let s := if id? then
        { s with flash := { s.flash with moduleId := BitVec.ofNat 18 mid, idValid := nbit mid 31 } } else s
      finish s id .done 0 0 0))

/-! ### FLUE_UP and FLUE_DOWN (R282) -/

/-- The links that a command names, as (hearth, port tile). -/
def namedLinks (p : Pkt) : List (Nat × Nat) :=
  (named p).flatMap (fun h => (setBits 14 (fld p 0x10 2)).map (fun t => (h, t)))

/-- A link of a FLUE_UP: one that is DOWN and in service trains (R282). -/
def trainLink (hh : Hearth) (t : Nat) : Hearth :=
  let p := fport hh t
  if p.st = .down ∧ portIn hh t then putPort hh t { p with st := .training } else hh

/-- What the two FLUE commands check. -/
def flueSpec (code : Nat) (p : Pkt) : CmdSpec :=
  { code := code, tree := true, need := .some, anyState := false, hst := rdyFrz, named := named p
    fields := [(0x10, 2, 0x3FFF)], ranges := [(0x10, fld p 0x10 2 != 0)] }

/-- FLUE_UP: completes when each link is UP or has fallen back to DOWN. -/
def execFlueUp (p : Pkt) (s : State) : Host.Outcome State Fault Refusal :=
  let l := namedLinks p
  done (submit s p (flueSpec 0x72 p) (fun id s =>
    let s := l.foldl (fun s x => updH s x.1 (fun hh => trainLink hh x.2)) s
    setWait s id (.flueUp (linkMask l) 0)))

/-- A link of a FLUE_DOWN: an UP link drains, a training one goes DOWN at once. -/
def drainLink (hh : Hearth) (t : Nat) : Hearth :=
  let p := fport hh t
  if linkUp hh t then putPort hh t { p with draining := true }
  else putPort hh t { p with st := if p.st = .training then .down else p.st, lost := false }

/-- FLUE_DOWN: completes when each link is DOWN; the results mark the links on which cells were dropped. -/
def execFlueDown (p : Pkt) (s : State) : Host.Outcome State Fault Refusal :=
  let l := namedLinks p
  done (submit s p (flueSpec 0x73 p) (fun id s =>
    let s := l.foldl (fun s x => updH s x.1 (fun hh => drainLink hh x.2)) s
    setWait s id (.flueDown (linkMask l) 0)))

/-! ### SYNC_TIME (R400) -/

/-- What SYNC_TIME checks: both modes. -/
def timeSpec (s : State) (p : Pkt) (mode : Nat) : CmdSpec :=
  let v := fld p 0x18 8
  { code := 0x74
    fields := [(0x10, 1, full 1), (0x18, 8, full 8)]
    ranges := [(0x10, decide (fld p 0x10 1 ≤ 1)), (0x18, mode == 0 || decide ((sgn 64 v).natAbs ≤ 1000000000))]
    own := if s.role.parent.isSome then some (.rejectedState, stateDetail 3 15 10)
      else if mode = 1 then none
      else if v ≤ s.time.ns then some (.rejectedParameter, 0x18)
      else (activeStep s).map (fun x => (.rejectedState, stateDetail 2 x.1 (stepCode x.2.state))) }

/-- SYNC_TIME, MODE 0: module time takes the value and is set from then on (R400, R499). -/
def execSyncTimeSet (p : Pkt) (s : State) : Host.Outcome State Fault Refusal :=
  if fld p 0x10 1 = 1 then nextOf s else
  done (submit s p (timeSpec s p 0) (fun id s =>
    finish { s with time := { s.time with ns := fld p 0x18 8, isSet := true } } id .done 0 0 0))

/-- SYNC_TIME, MODE 1: an offset is slewed at up to 200 parts per million; the command completes when it is applied. -/
def execSyncTimeSlew (p : Pkt) (s : State) : Host.Outcome State Fault Refusal :=
  if fld p 0x10 1 ≠ 1 then nextOf s else
  done (submit s p (timeSpec s p 1) (fun id s =>
    setWait { s with time := { s.time with slew := s.time.slew + sgn 64 (fld p 0x18 8) } } id .slew))

/-! ### Power cap, sampling -/

/-- What the checks of Table 12-5 look at in SET_POWER_CAP. -/
def setPowerCapSpec (p : Pkt) : CmdSpec :=
  let w := fld p 0x10 2
  { code := 0x90, tree := true, fields := [(0x10, 2, full 2)], ranges := [(0x10, decide (1500 ≤ w) && decide (w ≤ 4800))] }

/-- SET_POWER_CAP (R363). -/
def execSetPowerCap (p : Pkt) (s : State) : Host.Outcome State Fault Refusal :=
  let w := fld p 0x10 2
  done (submit s p (setPowerCapSpec p)
    (fun id s => finish (takeCap s w) id .done 0 0 0))

/-- What SAMPLE_CONTROL checks, by ACTION. -/
def sampleSpec (p : Pkt) (a : Nat) : CmdSpec :=
  let first := fld p 0x14 4
  let count := fld p 0x18 4
  let rd (n : Nat) : Nat := if a = 2 then full n else 0
  { code := 0x91, service := false, tree := a != 2, need := if a = 2 then .one else .some, anyState := false, hst := rdyFrz
    named := named p
    fields := [(0x10, 1, full 1), (0x11, 1, if a = 0 then full 1 else 0), (0x14, 4, rd 4), (0x18, 4, rd 4), (0x20, 8, rd 8),
      (0x28, 4, rd 4)]
    lens := if a = 2 then [(0x18, decide (1 ≤ count) && decide (8197 < first ∨ count ≤ 8198 - first)),
      (0x28, decide (64 * count ≤ fld p 0x28 4))] else []
    ranges := [(0x10, decide (fld p 0x10 1 ≤ 2)), (0x11, a != 0 || (decide (8 ≤ fld p 0x11 1) && decide (fld p 0x11 1 ≤ 20))),
      (0x14, decide (first ≤ 8197))]
    bufs := if a = 2 then [(0x20, fld p 0x20 8, fld p 0x28 4)] else [] }

/-- SAMPLE_CONTROL start: every histogram of the hearth clears (R105). -/
def execSampleStart (p : Pkt) (s : State) : Host.Outcome State Fault Refusal :=
  if fld p 0x10 1 = 1 ∨ fld p 0x10 1 = 2 then nextOf s else
  done (submit s p (sampleSpec p 0) (fun id s =>
    finish ((named p).foldl (fun s h => updH s h (fun hh => { hh with sampling := some (fld p 0x11 1), hist := [] })) s)
      id .done 0 0 0))

/-- SAMPLE_CONTROL stop. -/
def execSampleStop (p : Pkt) (s : State) : Host.Outcome State Fault Refusal :=
  if fld p 0x10 1 ≠ 1 then nextOf s else
  done (submit s p (sampleSpec p 1) (fun id s =>
    finish ((named p).foldl (fun s h => updH s h (fun hh => { hh with sampling := none })) s) id .done 0 0 0))

/-- The queue of histogram i is at a position in service (R106, Table 3-8). -/
def queueIn (hh : Hearth) (i : Nat) : Bool :=
  if i < 7680 then tileEnabled hh (i / 16)
  else if i < 7800 then let j := i - 7680; tileEnabled hh (48 * (j / 12) + 8 * (j % 12 / 2) + 7 * (j % 2))
  else if i < 8160 then let j := i - 7800; tileEnabled hh (48 * (j / 36) + 8 * (j % 36 / 6) + j % 6 + 1)
  else if i < 8184 then !(List.range 2).all (fun j => hh.subsOut.contains (2 * (i - 8160) + j))
  else !hh.portsOut.contains (i - 8184)

/-- The 64 bytes of histogram i (R106). -/
def histBytes (hh : Hearth) (i : Nat) : List Byte :=
  if queueIn hh i then (List.range 16).flatMap (fun b => leBytes 4 (mget 0 hh.hist (16 * i + b))) else zeros 64

/-- SAMPLE_CONTROL read: histograms FIRST to FIRST + COUNT - 1 of one hearth. -/
def execSampleRead (p : Pkt) (s : State) : Host.Outcome State Fault Refusal :=
  if fld p 0x10 1 ≠ 2 then nextOf s else
  done (submit s p (sampleSpec p 2) (fun id s =>
    let hh := hearthOf s (named1 p)
    let bs := (List.range (fld p 0x18 4)).flatMap (fun i => histBytes hh (fld p 0x14 4 + i))
    reportAndFinish s id (fld p 0x20 8) bs .done 0 0 0))

/-! ### CALIBRATION_CONTROL (R147) -/

/-- The writable fields of JD_CAL_CFG (Table 5-2). -/
def calCfgMask : Nat := 0x8FF0FF00FFFF0000

/-- The defined fields of JD_ESC (Table 5-10). -/
def escMask : Nat := 0xC0FF0000FFFFFFFF

/-- A JD_CAL_STATE that a write may give: RATIO +∞ or finite and at least 1.0, AMAX_RUN +0 or positive finite. -/
def calStateOk (v : Nat) : Bool :=
  let g := nbits v 31 0
  let a := nbits v 63 32
  decide (0x3F800000 ≤ g) && decide (g ≤ 0x7F800000) && decide (a < 0x7F800000)

/-- A JD_ESC that a write may give a section (R160). -/
def escOk (hh : Hearth) (c s v : Nat) : Bool :=
  let sec := sectionOf hh c s
  let clean := nbits v 55 48
  match nbits v 63 62 with
  | 0 => clean == 0
  | 1 => sec.variant.isSome && decide (clean < sec.escClean)
  | _ => false

/-- What CALIBRATION_CONTROL checks, by ACTION. -/
def calSpec (p : Pkt) (a : Nat) : CmdSpec :=
  let m := fld p 0x14 1
  let v (i mask : Nat) : Nat := if a ≠ 0 ∧ nbit m i then mask else 0
  { code := 0x92, service := false, tree := a != 0, need := if a = 0 then .one else .some, anyState := false, hst := rdyFrz
    named := named p
    fields := [(0x10, 1, full 1), (0x11, 1, full 1), (0x12, 1, full 1), (0x13, 1, full 1), (0x14, 1, if a = 0 then 0 else 7),
      (0x18, 8, v 0 calCfgMask), (0x20, 8, v 1 (full 8)), (0x28, 8, v 2 escMask)]
    ranges := [(0x10, decide (fld p 0x10 1 ≤ 2)), (0x11, decide (fld p 0x11 1 ≤ 3)), (0x12, decide (fld p 0x12 1 ≤ 31)),
      (0x13, decide (fld p 0x13 1 ≤ 63)), (0x14, a == 0 || m != 0)] }

/-- CALIBRATION_CONTROL read: RESULT0 the stored JD_CAL_STATE, RESULT1 JD_ESC. -/
def execCalibrationRead (p : Pkt) (s : State) : Host.Outcome State Fault Refusal :=
  if fld p 0x10 1 = 1 ∨ fld p 0x10 1 = 2 then nextOf s else
  done (submit s p (calSpec p 0) (fun id s =>
    let hh := hearthOf s (named1 p)
    finish s id .done 0 (calOf hh (fld p 0x11 1) (fld p 0x12 1)).state.toNat (escRec hh (fld p 0x11 1) (fld p 0x13 1)).toNat))

/-- Set the selected stored values; no latched value, step field or lifetime counter changes (R147). COUNT of JD_ESC is
read-only. -/
def setCal (hh : Hearth) (c st sec m : Nat) (cfg state : W64) (esc : Nat) : Hearth :=
  let hh := if nbit m 0 then updCal hh c st (fun r => { r with cfg := cfg }) else hh
  let hh := if nbit m 1 then updCal hh c st (fun r => { r with state := state }) else hh
  if nbit m 2 then
    putEsc hh c sec (BitVec.ofNat 64 (esc / 2 ^ 32 * 2 ^ 32 + nbits (escRec hh c sec).toNat 31 0)) else hh

/-- What the checks of Table 12-5 look at in CALIBRATION_WRITE. -/
def calibrationWriteSpec (p : Pkt) (s : State) : CmdSpec :=
  let c := fld p 0x11 1
  let sec := fld p 0x13 1
  let m := fld p 0x14 1
  let hs := named p
  { calSpec p 1 with
    own := if nbit m 1 ∧ !calStateOk (fld p 0x20 8) then some (.rejectedParameter, 0x20)
      else if nbit m 2 ∧ hs.any (fun h => !escOk (hearthOf s h) c sec (fld p 0x28 8)) then some (.rejectedParameter, 0x28)
      else none }

/-- CALIBRATION_CONTROL write. -/
def execCalibrationWrite (p : Pkt) (s : State) : Host.Outcome State Fault Refusal :=
  let c := fld p 0x11 1
  let sec := fld p 0x13 1
  let m := fld p 0x14 1
  let hs := named p
  if fld p 0x10 1 ≠ 1 then nextOf s else
  done (submit s p (calibrationWriteSpec p s)
    (fun id s => finish (hs.foldl (fun s h => updH s h (fun hh =>
      setCal hh c (fld p 0x12 1) sec m (BitVec.ofNat 64 (fld p 0x18 8)) (BitVec.ofNat 64 (fld p 0x20 8)) (fld p 0x28 8))) s)
      id .done 0 0 0))

/-- CALIBRATION_CONTROL reset: the selected values take their reset values. -/
def execCalibrationReset (p : Pkt) (s : State) : Host.Outcome State Fault Refusal :=
  if fld p 0x10 1 ≠ 2 then nextOf s else
  done (submit s p (calSpec p 2) (fun id s => finish ((named p).foldl (fun s h => updH s h (fun hh =>
      setCal hh (fld p 0x11 1) (fld p 0x12 1) (fld p 0x13 1) (fld p 0x14 1) ({} : CalRec).cfg ({} : CalRec).state 0)) s)
      id .done 0 0 0))

end Sys2Proof.Machine
end

