-- ==== Sys2Proof/Machine/Audit.lean ====
section
/-! DEFINITION. The ledgers (R229 to R232, Tables 7-11 to 7-13) and AUDIT_LEDGERS. -/

namespace Sys2Proof.Machine

/-- The terms of one scope of a ledger. -/
structure Terms where
  scope : Nat := 0
  left : Nat := 0
  right : Nat := 0
  fly : Nat := 0
  path : Nat := 0
  deriving DecidableEq, Repr

/-- A scope balances (R229). -/
def balanced (t : Terms) : Bool := t.left == t.right + t.fly

/-- A hearth as an audit sees it: where its one step is frozen, the terms are those saved with the step (R231). -/
def auditView (hh : Hearth) : Hearth :=
  match runStep hh, frozenStep hh, hh.snap with
  | none, some x, some sn =>
    let words := hh.syncWords.filter (fun y => !stepWord hh x y.1)
    { setSpill hh sn.spill with
      tiles := sn.tiles.foldl (fun m y => mput {} m y.1 { y.2 with active := x.ctx }) hh.tiles
      threads := sn.threads.foldl (fun m y => mput {} m y.1 y.2) hh.threads
      eps := sn.eps.foldl (fun m y => mput {} m y.1 y.2) hh.eps
      hsync := sn.hsync.foldl (fun m y => mput {} m y.1 y.2) hh.hsync
      syncWords := sn.syncWords.foldl (fun m y => mput (0, 0) m y.1 y.2) words }
  | _, _, _ => hh

/-! ### Ledger 1: stream token credits -/

/-- Tokens of the firing in progress at an output: their credits are taken (ledger 1, RIGHT). -/
def takenBy (hh : Hearth) (u : UnitRef) (out : Nat) : Nat :=
  if u.kind ≠ 1 then 0 else
  match (tileAt hh ((tileOfId u.id.toNat).getD 480)).cur with
  | none => 0
  | some f => (f.outs.filter (fun o => o.1 == out)).foldl (fun a o => a + o.2.length) 0

/-- Tokens and credits in transit between an output and an input. -/
def inTransit (hh : Hearth) (u : UnitRef) (out : Nat) (rcv : UnitRef) (inp : Nat) (ep : BitVec 4) : Nat :=
  (hh.flights.filter (fun f => f.snd == u && f.out == out && f.rcv == rcv && f.inp == inp && f.tok.epoch == ep)).length
    + (hh.creditFlights.filter (fun c => c.snd == u && c.out == out && c.epoch == ep)).foldl (fun a c => a + c.count) 0

/-- The terms of one reader input and sender. -/
def streamTerms (hh : Hearth) (rcv : UnitRef) (inp idx owed : Nat) (ep : BitVec 4) (u : UnitRef) (out : Nat) : Terms :=
  let s := sndLive hh u out
  { scope := rcv.kind.toNat * 2 ^ 48 + rcv.id.toNat * 2 ^ 32 + idx * 2 ^ 16 + inp
    left := owed, right := (if s.epoch = ep then s.credits else 0) + takenBy hh u out
    fly := inTransit hh u out rcv inp ep, path := refPath rcv }

/-- The scopes of ledger 1: the open inputs of tiles, STORE and RELAY threads and endpoints that take tokens. -/
def ledger1 (hh : Hearth) : List Terms :=
  let tiles := hh.tiles.flatMap (fun y =>
    let v := y.1
    let t := y.2
    (List.range 16).flatMap (fun n =>
      let x := inLive t n
      if !nbit (inReg t n).toNat 63 ∨ x.closed then [] else
      if inType t n = 2 then
        let tbl := senderTable hh t.active v n
        (List.range (min (inSenders t n) tbl.length)).filterMap (fun i =>
          (tbl[i]?).map (fun s => streamTerms hh (tileRef v) n i (mget 0 x.owed i) x.epoch s.2.1 s.2.2))
      else match senderOf hh v n with
        | some (u, o) => [streamTerms hh (tileRef v) n 0 (mget 0 x.owed 0) x.epoch u o]
        | none => []))
  let live := match runStep hh, frozenStep hh with
    | some x, _ => some x
    | none, f => f
  match live with
  | none => tiles
  | some st =>
    let ths := (secThreads hh st.ctx st.ran).filterMap (fun y =>
      let d := stkOf y.2.body
      let t := threadAt hh y.1
      if (d.mode = 1 ∨ d.mode = 2) ∧ !t.closed then
        some (streamTerms hh (threadRef y.1) 0 0 t.owed t.epoch ⟨1, BitVec.ofNat 16 d.src⟩ d.srcOut) else none)
    let eps := (secEps hh st.ctx st.ran).filterMap (fun y =>
      let d := epOf y.2.body
      let x := epAt hh y.1
      if epSink d ∧ !x.closed then
        some (streamTerms hh (epRef y.2.home y.1) 0 0 x.owed x.epoch ⟨1, BitVec.ofNat 16 d.loc⟩ d.localIo) else none)
    tiles ++ ths ++ eps

/-! ### The other ledgers -/

/-- Credits that the far end of a link has granted and not seen spent: its slots but those that hold a cell and those freed and
not yet returned. The far end of an off-package port is outside the model, where a cell counts as on the link until its credit
comes back (log 138). -/
def farGranted (s : State) (h t c : Nat) : Nat :=
  let f := farHearth h t
  let u := linkTile f h
  rxSlots t c - (if t < 6 then 0 else heldSlots (hearthOf s f) u c + mget 0 (fport (hearthOf s f) u).owed c)

/-- Ledger 2: the channels of links that are up: the credits the far end granted, those held, and the cells on the link. -/
def ledger2 (s : State) (h : Nat) : List Terms :=
  let hh := hearthOf s h
  (List.range 14).flatMap (fun t =>
    if !linkUp hh t then [] else
    (List.range 4).map (fun c =>
      { scope := t * 2 ^ 9 + c, left := farGranted s h t c, right := mget 0 (fport hh t).txCredits c
        fly := (onLink hh t c).length, path := pathOf 5 0 0 0 t 0 }))

/-- Ledger 3: free and held slots of the retransmit pool. -/
def ledger3 (hh : Hearth) : List Terms := [{ left := poolSlots, right := hh.poolFree + hh.pool.length }]

/-- Ledger 4: one scope per peer context that is not CLOSED. -/
def ledger4 (hh : Hearth) : List Terms :=
  (hh.peers.filter (fun x => x.2.st != .closed && decide (x.1 < 262144))).map (fun x =>
    { scope := x.1, left := (x.2.send - x.2.ack).toNat, right := (hh.pool.filter (fun q => q.ctx == x.1)).length
      path := ctxPath x.1 })

/-- The terms of a sync object from the INIT it was loaded with, its VALUE and its ledger words. -/
def syncTerms (hh : Hearth) (key scope path init value : Nat) : Terms :=
  let w := mget (0, 0) hh.syncWords key
  { scope := scope, left := (w.1.toNat + init) % 2 ^ 32, right := (w.2.toNat + value) % 2 ^ 32, path := path }

/-- Ledger 5: the objects of tiles that their active contexts configure, and those of the hearth with a table 4 entry in some
context. INIT is what the object's last load took (R222). -/
def ledger5 (hh : Hearth) : List Terms :=
  let tiles := hh.tiles.flatMap (fun y =>
    let cfg := mget {} y.2.cfg y.2.active
    (List.range 48).filterMap (fun n =>
      let o := mget {} y.2.syncs n
      if cfg.syncs.any (fun z => z.1 == n) then
        some (syncTerms hh (48 * y.1 + n) (n * 2 ^ 32 + y.1) (tilePath y.1) o.init o.value) else none))
  let objs := (List.range 256).filterMap (fun n =>
    let o := mget {} hh.hsync n
    if hh.ctxs.any (fun c => c.2.hsync.any (fun z => z.1 == n)) then
      some (syncTerms hh (0x10000 + n) (2 ^ 40 + n * 2 ^ 32) (pathOf 12 0 0 0 n 0) o.init o.value) else none)
  tiles ++ objs

/-- Ledger 6: free bytes of the spill area, its records, and the bytes of a round in progress. -/
def ledger6 (hh : Hearth) : List Terms :=
  [{ left := spillBytes, right := hh.spillFree + 128 * hh.spill.length, fly := hh.spillBusy }]

/-- Ledger 7. -/
def ledger7 (s : State) : List Terms :=
  [{ left := s.power.budget, right := allHearths.foldl (fun a h => a + (hearthOf s h).tokens) 0 + s.power.pool
     path := pathOf 13 0 0 0 0 0 }]

/-- Ledger 8: charges recorded and not yet added are in flight (R341). -/
def ledger8 (s : State) : List Terms :=
  (s.accounts.filter (fun a => a.2.known)).map (fun a =>
    let fly := allHearths.foldl (fun n h => n + mget 0 (hearthOf s h).chargeSum a.1) 0
    { scope := a.1, left := a.2.charged + fly, right := a.2.charged, fly := fly, path := pathOf 13 0 0 0 0 0 })

/-! ### AUDIT_LEDGERS -/

/-- A hearth's scopes are not quiescent (R232). -/
def moving (hh : Hearth) : Bool := hh.steps.any (fun x => liveState x.state)

/-- One ledger of one hearth, or of the module (hearth 0xFF): its scopes and whether they move. -/
structure LedgerPart where
  id : Nat
  hearth : Nat
  moving : Bool
  scopes : List Terms
  deriving Repr

/-- Scopes of ledger i of hearth h. -/
def hearthLedger (s : State) (h i : Nat) : List Terms :=
  let v := auditView (hearthOf s h)
  match i with
  | 1 => ledger1 v
  | 2 => ledger2 s h
  | 3 => ledger3 v
  | 4 => ledger4 v
  | 5 => ledger5 v
  | _ => ledger6 v

/-- The parts that a command asks for, in ledger then hearth order. -/
def auditParts (s : State) (mask : Nat) (hs : List Nat) : List LedgerPart :=
  ((List.range 8).filter (fun i => nbit mask i)).flatMap (fun i =>
    if i < 6 then hs.map (fun h => ⟨i + 1, h, moving (hearthOf s h), hearthLedger s h (i + 1)⟩)
    else [⟨i + 1, 0xFF, allHearths.any (fun h => moving (hearthOf s h)), if i = 6 then ledger7 s else ledger8 s⟩])

/-- VERDICT of a scope. -/
def verdict (p : LedgerPart) (t : Terms) : Nat := if p.moving then 2 else if balanced t then 0 else 1

/-- An audit record (Table 7-12). -/
def auditRecord (p : LedgerPart) (v : Nat) (t : Terms) : List Byte :=
  leBytes 1 p.id ++ leBytes 1 v ++ leBytes 1 p.hearth ++ zeros 5 ++ leBytes 8 t.scope ++ leBytes 8 t.left ++ leBytes 8 t.right
    ++ leBytes 8 t.fly ++ zeros 8

/-- The summary of a part: its terms summed (R232). -/
def auditSummary (p : LedgerPart) : List Byte :=
  let t := p.scopes.foldl (fun (a : Terms) x => { a with left := a.left + x.left, right := a.right + x.right, fly := a.fly + x.fly })
    { scope := 2 ^ 64 - 1 }
  let v := if p.moving then 2 else if p.scopes.all balanced then 0 else 1
  auditRecord p v t

/-- The scopes that get records of their own: the unbalanced ones, or all with FLAGS.ALL. -/
def auditScopes (all : Bool) (p : LedgerPart) : List Terms := p.scopes.filter (fun t => all || verdict p t == 1)

/-- Each unbalanced scope writes one LEDGER signature (R232). -/
def logUnbalanced (s : State) (p : LedgerPart) : State :=
  (p.scopes.filter (fun t => verdict p t == 1)).foldl (fun s t =>
    let det := BitVec.ofNat 2048 (ofLE (auditRecord p 1 t))
    if p.hearth < 9 then onHearth s p.hearth (fun e hh => logOf e hh 0x0056 t.path 0 det) else logAll s 0x0056 t.path 0 det) s

/-- What the checks of Table 12-5 look at in AUDIT_LEDGERS. -/
def auditLedgersSpec (p : Pkt) : CmdSpec :=
  let mask := fld p 0x1C 1
  let hs := named p
  let sums := popcount 6 mask * hs.length + popcount 2 (mask / 64)
  { code := 0x13, need := .some, anyState := false, hst := rdyFlt, named := hs
    fields := [(0x10, 8, full 8), (0x18, 4, full 4), (0x1C, 1, full 1), (0x1D, 1, 1)]
    lens := [(0x18, decide (48 * sums ≤ fld p 0x18 4))]
    ranges := [(0x1C, mask != 0)]
    bufs := [(0x10, fld p 0x10 8, fld p 0x18 4)] }

/-- AUDIT_LEDGERS (R232): summaries first, then the records of scopes, while they fit. -/
def execAuditLedgers (p : Pkt) (s : State) : Host.Outcome State Fault Refusal :=
  let mask := fld p 0x1C 1
  let hs := named p
  done (submit s p (auditLedgersSpec p)
    (fun id s =>
      let s := hs.foldl (fun s h => onHearth s h accrue) s
      let parts := auditParts s mask hs
      let recs := parts.map auditSummary
        ++ parts.flatMap (fun p' => (auditScopes (fld p 0x1D 1 == 1) p').map (fun t => auditRecord p' (verdict p' t) t))
      let fit := recs.take (fld p 0x18 4 / 48)
      let bad := parts.foldl (fun a p' => a + (p'.scopes.filter (fun t => verdict p' t == 1)).length) 0
      let s := parts.foldl logUnbalanced s
      reportAndFinish s id (fld p 0x10 8) fit.flatten .done bad fit.length (recs.length - fit.length)))

end Sys2Proof.Machine
end

