-- ==== Sys2Proof/Machine/LoadChk.lean ====
section
/-! DEFINITION. The loader's field checks (R185, R186): section descriptors, frame contents, parameter blocks, routes,
hearth sync objects, checker bounds, base-die records (Tables 8-6, 9-14c, 9-16) and calibration entries. -/

namespace Sys2Proof.Machine

/-! ### Checking one entry -/

/-- A change of one field (Table 6-7): bit offset, width, action, the value read and the value used. -/
structure Chg where
  field : Nat
  width : Nat
  action : Nat
  orig : Nat
  used : Nat
  deriving DecidableEq, Repr

/-- An entry under check: its bits, the changes made, whether it is disabled. -/
structure Chk where
  w : Nat
  out : List Chg := []
  dead : Bool := false
  deriving DecidableEq, Repr

/-- The n-bit field at bit lo. -/
def ckAt (lo n : Nat) (c : Chk) : Nat := c.w / 2 ^ lo % 2 ^ n

/-- Replace a field. -/
def ckPut (lo n v : Nat) (c : Chk) : Chk := { c with w := c.w - ckAt lo n c * 2 ^ lo + v * 2 ^ lo }

/-- The field takes a value; the change is a CLAMP record. -/
def ckForce (lo n v : Nat) (c : Chk) : Chk :=
  if c.dead || ckAt lo n c == v then c else
  { ckPut lo n v c with out := c.out ++ [⟨lo, n, 1, ckAt lo n c, v⟩] }

/-- A numeric field is clamped to the nearest value from a to b (R185). -/
def ckClamp (lo n a b : Nat) (c : Chk) : Chk := ckForce lo n (max a (min (ckAt lo n c) b)) c

/-- Reserved bits, at most 64, are clamped to zero (R11, R185), in an entry that another check disables too. -/
def ckRsv (lo n : Nat) (c : Chk) : Chk :=
  if ckAt lo n c = 0 then c else { ckPut lo n 0 c with out := c.out ++ [⟨lo, n, 1, ckAt lo n c, 0⟩] }

/-- Reserved bytes lo to hi − 1, in pieces of at most 8 bytes. -/
def ckRsvBytes (base lo hi : Nat) (c : Chk) : Chk :=
  (List.range (ceilDiv (hi - lo) 8)).foldl (fun c i =>
    ckRsv (base + 8 * (lo + 8 * i)) (8 * min 8 (hi - lo - 8 * i)) c) c

/-- The entry is disabled when a field is not legal (R185). -/
def ckBan (lo n : Nat) (ok : Bool) (c : Chk) : Chk :=
  if c.dead || ok then c else { c with dead := true, out := c.out ++ [⟨lo, n, 2, ckAt lo n c, 0⟩] }

/-- A pointer field is disabled: a DISABLE record, and the field takes a value that names nothing. -/
def ckOff (lo n v : Nat) (ok : Bool) (c : Chk) : Chk :=
  if c.dead || ok then c else { ckPut lo n v c with out := c.out ++ [⟨lo, n, 2, ckAt lo n c, 0⟩] }

/-- Check only when a condition holds. -/
def ckIf (b : Bool) (f : Chk → Chk) (c : Chk) : Chk := if b && !c.dead then f c else c

/-- Check a register of n bits inside an entry: a disabled register takes its reset value. -/
def ckReg (base n reset : Nat) (f : Chk → Chk) (c : Chk) : Chk :=
  if c.dead then c else
  let x := f { w := ckAt base n c }
  { ckPut base n (if x.dead then reset else x.w) c with
    out := c.out ++ x.out.map (fun g => { g with field := base + g.field }) }

/-! ### Registers (Table 6-5) -/

/-- JD_SYNC (Table 2-24). -/
def chkSync (c : Chk) : Chk :=
  let c := ckBan 62 2 (ckAt 62 2 c != 3) (ckRsv 0 16 (ckRsv 48 6 (ckRsv 59 3 c)))
  let m := ckAt 62 2 c
  ckIf (m != 0) (fun c =>
    let c := ckClamp 54 5 1 23 c
    if m = 1 then ckForce 16 16 0 (ckClamp 32 16 1 65535 c) else ckClamp 16 16 0 (ckAt 32 16 c) c) c

/-- A Flue32 NaN. -/
def nanBits (x : Nat) : Bool := isNan32 (BitVec.ofNat 32 x)

/-- JD_CHK_LIMIT (Table 2-27): NaN to the reset value, MIN at most MAX. -/
def chkLim (c : Chk) : Chk :=
  let c := ckIf (nanBits (ckAt 32 32 c)) (ckForce 32 32 0x7F800000) c
  let c := ckIf (nanBits (ckAt 0 32 c)) (ckForce 0 32 0xFF800000) c
  let mx := ckAt 32 32 c
  ckIf (less32 (BitVec.ofNat 32 mx) (BitVec.ofNat 32 (ckAt 0 32 c))) (ckForce 0 32 mx) c

/-- JD_CHK_CTRL (Table 2-27). -/
def chkCtl (c : Chk) : Chk :=
  let m := ckAt 32 32 c
  let c := ckForce 32 32 (if nanBits m then 0x7F800000 else m % 2 ^ 31) c
  let c := ckClamp 14 6 0 62 c
  let c := ckClamp 8 6 0 (ckAt 14 6 c) c
  ckIf (1 < ckAt 5 2 c) (ckForce 5 2 0) c

/-- The operations of Table 2-8 for a tile kind. -/
def opLegal (fn : Bool) (code : Nat) : Bool :=
  if code = 0x20 then true else if fn then 0x10 ≤ code && code ≤ 0x15 else 1 ≤ code && code ≤ 3

/-- JD_OP (Table 2-26), apart from its stream masks. -/
def chkOp (fn : Bool) (c : Chk) : Chk :=
  let c := ckRsv 0 16 (ckRsv 48 8 c)
  ckIf (ckAt 63 1 c == 1) (ckBan 56 7 (opLegal fn (ckAt 56 7 c))) c

/-- JD_IN_STREAM (Table 2-21), apart from the usable-unit test. -/
def chkIn (fn : Bool) (c : Chk) : Chk :=
  let c := ckRsv 0 8 c
  ckIf (ckAt 63 1 c == 1) (fun c =>
    let ty := ckAt 61 2 c
    let c := ckBan 61 2 (if ty = 3 then !fn else if ty = 2 then fn else true) c
    let c := ckClamp 50 5 1 23 c
    if ty = 2 then
      let c := ckForce 35 3 0 (ckForce 19 16 0 (ckClamp 38 12 1 4095 c))
      ckBan 8 11 (decide (ckAt 8 11 c + (ckAt 38 12 c + 1) * (ckAt 55 6 c + 1) ≤ 1536)) c
    else
      let c := ckForce 8 11 0 (ckForce 38 12 0 c)
      ckBan 35 3 (decide (ckAt 35 3 c ≤ 4)) c) c

/-- JD_OUT_STREAM (Table 2-22), apart from the usable-unit and DEST_INPUT tests; R50 for a matrix tile. -/
def chkOut (fn : Bool) (c : Chk) : Chk :=
  let c := ckRsv 0 40 c
  ckIf (ckAt 63 1 c == 1) (fun c =>
    let k := ckAt 60 3 c
    let col := ckAt 44 16 c % 8
    let c := ckBan 60 3 ((k != 1 || fn || col == 0 || col == 7) && (k != 4 || fn) && decide (k ≤ 4)) c
    if k = 1 then c else ckForce 40 4 0 c) c

/-! ### Section descriptors (Table 6-3) -/

/-- A section descriptor of a level-2 or level-3 image (R186, R200). -/
def chkSection (level i count : Nat) (c : Chk) : Chk :=
  let c := ckRsvBytes 0 0x10 0x40 c
  if level = 2 then ckRsv 64 64 c
  else
    let v := ckAt 88 8 c
    ckOff 88 8 0xFF (v == 0xFF || (v < count && v != i)) (ckClamp 80 8 1 255 c)

/-- The section of a checked descriptor. -/
def sectionOfBits (level : Nat) (w : Nat) : Section :=
  let f (off n : Nat) : Nat := nbits w (8 * (off + n) - 1) (8 * off)
  if level = 2 then { estFixed := f 0 4, estPerTag := f 4 4 }
  else
    { estFixed := f 0 4, estPerTag := f 4 4, escThresh := f 8 2, escClean := f 0x0A 1
      variant := if f 0x0B 1 = 0xFF then none else some (f 0x0B 1), escStreams := BitVec.ofNat 32 (f 0x0C 4) }

/-! ### Frames (Table 6-4) -/

/-- Registers lo to hi − 1 of a frame. -/
def chkRegs (lo hi reset : Nat) (f : Chk → Chk) (c : Chk) : Chk :=
  (List.range (hi - lo)).foldl (fun c i => ckReg (64 * (lo + i)) 64 reset f c) c

/-- The contents of a frame in a slot of a function or matrix tile that depend on no other entry. -/
def chkFrame (fn : Bool) (slot : Nat) (w : Nat) : Chk :=
  let c : Chk := { w := w }
  match slot with
  | 0 => chkRegs 0 32 syncReset.toNat chkSync c
  | 1 =>
    let c := chkRegs 0 16 syncReset.toNat chkSync c
    if fn then chkRegs 16 32 limReset.toNat chkLim c else c
  | 2 => chkRegs 0 32 0 (chkOp fn) c
  | 3 =>
    let c := if fn then chkRegs 0 16 ctlReset.toNat (fun c => ckIf (ckAt 0 1 c == 1) chkCtl c) c else c
    ckRsvBytes 0 128 256 c
  | _ => c

/-! ### Parameter blocks (Table 2-8) -/

/-- What the check of a parameter block looks at beside the block. -/
structure ParEnv where
  hh : Hearth
  region : Region
  cfg : TileCfg
  hsyncOk : Nat → Bool

/-- Groups of a region. -/
def inGroups (r : Region) (g : Nat) : Bool := r.sliceFirst ≤ g && g < r.sliceFirst + r.sliceGroups

/-- An extent is legal for a region (R184, R500). -/
def legalExtent (hh : Hearth) (r : Region) (a n : Nat) : Bool := extentIn hh (inGroups r) a n

/-- The reserved byte runs of an operation's block. -/
def parGaps (code : Nat) : List (Nat × Nat) :=
  match code with
  | 0x01 => [(11, 64)]
  | 0x02 => [(6, 8), (12, 64)]
  | 0x03 => [(6, 8), (16, 64)]
  | 0x10 => [(10, 64)]
  | 0x11 => [(1, 2), (10, 64)]
  | 0x12 => [(1, 2), (4, 6), (10, 64)]
  | 0x13 => [(4, 6), (10, 64)]
  | 0x14 => [(4, 64)]
  | 0x15 => [(1, 2), (6, 8), (10, 64)]
  | _ => [(1, 2), (6, 64)]

/-- The operand selectors of an operation, as byte offsets: inputs and output. -/
def parSels (code : Nat) : List Nat × List Nat :=
  match code with
  | 0x10 => ([0, 2, 4], [6])
  | 0x11 => ([2, 4], [6])
  | 0x12 => ([2], [6])
  | 0x13 => ([2], [6])
  | _ => ([], [])

/-- Reserved bits of an operand selector. -/
def chkSel (off : Nat) (c : Chk) : Chk :=
  if ckAt (8 * off + 15) 1 c = 1 then ckRsv (8 * off + 11) 4 c else ckRsv (8 * off + 4) 11 c

/-- COUNT with the local-store operands at the given offsets: lines 0 to 1,535, and line + COUNT at most 1,536. -/
def chkCount (lines : List Nat) (c : Chk) : Chk :=
  let c := lines.foldl (fun c off => ckBan (8 * off) 16 (decide (ckAt (8 * off) 11 c ≤ 1535)) c) c
  let top := lines.foldl (fun a off => min a (1536 - ckAt (8 * off) 11 c)) 64
  ckClamp 64 16 1 top c

/-- The selectors and COUNT of VFMA, VBIN, SFU and REDUCE. -/
def chkOperands (code : Nat) (c : Chk) : Chk :=
  let (i, o) := parSels code
  let c := (i ++ o).foldl (fun c off => chkSel off c) c
  chkCount ((i ++ o).filter (fun off => ckAt (8 * off + 15) 1 c == 1)) c

/-- Rows: COLS, then ACC_ROW, then ROWS last (Table 6-5). -/
def chkRows (cols acc rows : Nat) (c : Chk) : Chk :=
  let c := ckClamp acc 16 0 63 (ckClamp cols 8 1 64 c)
  ckClamp rows 16 1 (64 - ckAt acc 16 c) c

/-- The largest K_BLOCKS of an MMA (R79): K_BLOCKS counts units (R127). -/
def kBlocksMax (fmt rows : Nat) : Nat :=
  1012 / rows * laneElems fmt / unitElems fmt

/-- The most lines of a WLOAD, at most n, that the memory at its source holds. -/
def linesIn (hh : Hearth) (r : Region) (a : Nat) : Nat → Nat
  | 0 => 0
  | n + 1 => if legalExtent hh r a (64 * (n + 1)) then n + 1 else linesIn hh r a n

/-- The parameter block of an enabled slot with a legal code (Table 6-5, R187). -/
def chkParam (v : ParEnv) (code : Nat) (w : Nat) : Chk :=
  let c : Chk := (parGaps code).foldl (fun c g => ckRsvBytes 0 g.1 g.2 c) { w := w }
  match code with
  | 0x01 =>
    let c := ckRsv 14 2 (ckRsv 9 3 (ckBan 0 8 (decide (ckAt 0 8 c ≤ 4)) c))
    let c := chkRows 80 64 16 c
    ckClamp 48 16 1 (kBlocksMax (ckAt 0 8 c) (max 1 (ckAt 16 16 c))) c
  | 0x02 =>
    let c := chkRows 32 0 16 (ckRsv 41 7 c)
    ckBan 64 32 ((setBits 32 (ckAt 64 32 c)).all (fun s =>
      let o := mget 0 v.cfg.ops s
      nbit o.toNat 63 && wb o 62 56 == 1)) c
  | 0x03 =>
    let c := ckClamp 16 16 1 64 (ckClamp 8 8 0 1 (ckBan 0 8 (decide (ckAt 0 8 c ≤ 4)) (ckRsv 104 24 c)))
    let c := ckForce 64 40 (ckAt 64 40 c / 64 * 64) c
    let a := ckAt 64 40 c
    let c := ckBan 64 40 (legalExtent v.hh v.region a 64) c
    ckIf true (ckForce 32 16 (max 1 (linesIn v.hh v.region a (max 1 (min (ckAt 32 16 c) 1024))))) c
  | 0x11 => chkOperands code (ckBan 0 8 (decide (ckAt 0 8 c ≤ 6)) c)
  | 0x12 => chkOperands code (ckBan 0 8 (decide (ckAt 0 8 c ≤ 9)) c)
  | 0x13 => chkOperands code (ckBan 8 8 (decide (ckAt 8 8 c ≤ 1)) (ckBan 0 8 (decide (ckAt 0 8 c ≤ 3)) c))
  | 0x14 =>
    let f (i : Nat) : Nat := ckAt (8 * i) 8 c
    let c := (List.range 4).foldl (fun c i => ckBan (8 * i) 8 (decide (f i ≤ 15)) c) c
    ckBan 16 8 (f 2 != f 0 && f 2 != f 1) (ckBan 8 8 (f 1 != f 0) c)
  | 0x15 => chkCount [4] (ckRsv 43 5 (ckRsv 20 12 (ckBan 0 8 (decide (ckAt 0 8 c ≤ 1)) c)))
  | 0x20 =>
    let act := ckAt 0 8 c
    let obj := ckAt 16 16 c
    let ok := if obj < 48 then wb (mget syncReset v.cfg.syncs obj) 63 62 != 0
      else 0x100 ≤ obj && obj < 0x200 && v.hsyncOk (obj - 0x100)
    let c := ckBan 16 16 ok (ckBan 0 8 (decide (act ≤ 3)) c)
    ckIf (2 ≤ act) (ckClamp 32 16 1 65535) c
  | _ => chkOperands code c

/-! ### Table entries -/

/-- An object lies in a region's range. -/
def inHsync (r : Region) (o : Nat) : Bool := r.hsyncFirst ≤ o && o < r.hsyncFirst + r.hsyncCount

/-- A route entry (R177): its tile must be a named one. -/
def chkRoute (isNamed : Nat → Bool) (w : Nat) : Chk :=
  let c : Chk := ckRsvBytes 0 3 8 (ckRsv 20 3 (ckRsv 10 6 { w := w }))
  let c := ckBan 0 10 (match tileOfId (ckAt 0 10 c) with | some v => isNamed v | none => false) c
  let fn := match tileOfId (ckAt 0 10 c) with | some v => isFn v | none => false
  let x := (if ckAt 23 1 c = 1 then chkOut fn else chkIn fn) { w := ckAt 64 64 c, dead := c.dead }
  { ckPut 64 64 x.w c with out := c.out ++ x.out.map (fun g => { g with field := 64 + g.field }), dead := x.dead }

/-- An entry of table 4 (R178). -/
def chkHsync (r : Region) (w : Nat) : Chk :=
  let c : Chk := ckRsvBytes 0 2 8 { w := w }
  let c := ckBan 0 16 (inHsync r (ckAt 0 16 c)) c
  let x := chkSync { w := ckAt 64 64 c, dead := c.dead }
  { ckPut 64 64 x.w c with out := c.out ++ x.out.map (fun g => { g with field := 64 + g.field }), dead := x.dead }

/-- An entry of table 5 (R178). -/
def chkBounds (w : Nat) : Chk := ckReg 64 64 0 chkCtl (ckReg 0 64 0 chkLim { w := w })

/-- An entry of table 7 (R181); `seen` are the streams of the entries before it. -/
def chkCal (seen : List Nat) (w : Nat) : Chk :=
  let c : Chk := ckRsvBytes 0 1 8 { w := w }
  let c := ckBan 0 8 (decide (ckAt 0 8 c ≤ 31) && !seen.contains (ckAt 0 8 c)) c
  let c := ckRsv 64 16 (ckRsv 96 8 (ckRsv 112 4 (ckRsv 124 3 c)))
  let g := ckAt 128 32 c
  let c := ckForce 128 32 (if nanBits g then 0x7F800000 else if 0x3F800000 ≤ g ∧ g ≤ 0x7F800000 then g else 0x3F800000) c
  let a := ckAt 160 32 c
  ckForce 160 32 (if nanBits a ∨ 2 ^ 31 ≤ a then 0 else if a = 0x7F800000 then 0x7F7FFFFF else a) c

/-! ### Base-die records (R179, R263, R311, Table 9-16) -/

/-- What the check of a base-die record looks at beside the record. -/
structure DieEnv where
  hh : Hearth
  region : Region
  level : Nat
  sections : Nat
  hsyncOk : Nat → Bool
  bounds : Nat → Bool
  threads : List Nat
  eps : List Nat
  budget : Nat → Nat

/-- Bit of body byte `off`. -/
def bo (off : Nat) : Nat := 128 + 8 * off

/-- The body of a record. -/
def bodyBits (c : Chk) : BitVec 896 := BitVec.ofNat 896 (c.w / 2 ^ 128)

/-- A format nibble: the code at bit lo, unless its F32 bit is set. -/
def chkFmt (lo : Nat) (c : Chk) : Chk := ckBan lo 3 (ckAt (lo + 3) 1 c == 1 || ckAt lo 3 c ≤ 4) c

/-- Block size of the formats in use, at least 1. -/
def blockOf (fmts : List Nat) : Nat := fmts.foldl (fun a f => if blockFmt f then max a (blockSize f) else a) 1

/-- The most rows whose tag group has at most 256 tokens (R256, R257). -/
def maxRows (tok elems : Nat) : Nat :=
  let per := if tok = flue then 1 else
    ceilDiv elems (512 / (fmtOf tok).bits) + (if blockFmt tok then ceilDiv (rowBlocks tok elems) 64 else 0)
  max 1 (if tok = flue then 4096 / elems else 256 / per)

/-- ELEMS, ROWS and TAG_MOD at the given offsets. -/
def chkShape (el ro tm : Nat) (fmts : List Nat) (top : Nat → Nat) (c : Chk) : Chk :=
  let b := blockOf fmts
  let e := max 1 (min (ckAt (bo el) 32 c) (2 ^ 24))
  let c := ckForce (bo el) 32 (max b (e / b * b)) c
  let c := ckClamp (bo ro) 16 1 (min 4096 (top (ckAt (bo el) 32 c))) c
  ckClamp (bo tm) 16 1 65535 c

/-- A tensor scale that is used is finite and greater than zero. -/
def chkScale (off : Nat) (used : Bool) (c : Chk) : Chk :=
  ckIf (used && !scaleOk (BitVec.ofNat 32 (ckAt (bo off) 32 c))) (ckForce (bo off) 32 0x3F800000) c

/-- The narrowing control (Table 6-5): SHADOW_FORMAT, EMBER_BASE; `count` is the ember buffer's element count. -/
def chkNarrow (v : DieEnv) (count : Nat) (c : Chk) : Chk :=
  let w0 := bo 0x60
  let w1 := bo 0x68
  let c := ckIf (ckAt (w0 + 60) 1 c == 1 && 1 < ckAt (w0 + 57) 3 c) (ckForce (w0 + 60) 1 0) c
  ckIf (ckAt (w0 + 62) 1 c == 1) (fun c =>
    let c := ckForce w1 40 (ckAt w1 40 c / 64 * 64) c
    ckIf (!legalExtent v.hh v.region (ckAt w1 40 c) (64 + 2 * count)) (ckForce (w0 + 62) 1 0) c) c

/-- Reserved bits that every body with a narrowing control has. -/
def chkNarrowRsv (c : Chk) : Chk := ckRsv (bo 0x68 + 40) 24 (ckRsv (bo 0x60) 32 (ckRsv (bo 0x60 + 48) 4 c))

/-- The whole of [a, a + n) lies in the LPDDR6 range. -/
def wholeDdr (hh : Hearth) (a n : Nat) : Bool := decide (a + n ≤ topOf hh)

/-- The body of a KIND 1 record (Tables 8-5 and 8-6), apart from its DEST and SRC. -/
def chkStoker (v : DieEnv) (c : Chk) : Chk :=
  let c := chkNarrowRsv (ckRsv (bo 0x5E) 16 (ckRsv (bo 0x50 + 40) 24 (ckRsv (bo 0x38 + 40) 24 (ckRsv (bo 0x20 + 40) 24
    (ckRsvBytes 128 9 10 (ckRsv (bo 8 + 4) 4 (ckRsv (bo 3 + 4) 4 (ckRsv (bo 2 + 6) 2 c))))))))
  let mode := ckAt (bo 0) 8 c
  let c := chkFmt (bo 1 + 4) (chkFmt (bo 1) (ckBan (bo 0) 8 (decide (mode ≤ 4)) c))
  let c := ckBan (bo 1 + 3) 1 (mode != 1 || ckAt (bo 1 + 3) 1 c == 1) c
  ckIf true (fun c =>
    let d := stkOf (bodyBits c)
    let fmts := if mode = 0 ∨ mode = 3 then [d.mem.fmt, d.tokFmt] else if mode = 1 then [d.mem.fmt] else []
    let top (e : Nat) : Nat :=
      if mode = 0 then maxRows d.tokFmt e else if mode = 1 then maxRows flue e else if mode = 2 then 256 else 4096
    let c := chkShape 0x14 0x18 0x1A fmts top c
    let c := ckIf (mode == 2) (fun c =>
      let c := ckForce (bo 2 + 5) 1 1 c
      ckClamp (bo 0x30) 64 (128 * ckAt (bo 0x18) 16 c) (2 ^ 64 - 1) c) c
    let c := ckClamp (bo 0x1C) 16 1 65535 (ckClamp (bo 0x1E) 16 1 (ckAt (bo 0x1A) 16 c) c)
    let c := ckClamp (bo 0x5C) 16 1 65535 c
    let obj (off : Nat) (c : Chk) : Chk :=
      let o := ckAt (bo off) 16 c
      ckBan (bo off) 16 (o == 0xFFFF || (inHsync v.region o && v.hsyncOk o)) c
    let c := obj 0x5A (obj 0x58 c)
    let c := chkScale 0x0C (mode != 2 && mode != 4 && d.mem.fmt != flue) c
    let c := chkScale 0x10 ((mode == 0 || mode == 3) && d.tokFmt != flue) c
    let c := ckIf (d.checkEn && !v.bounds d.checkIdx) (ckForce (bo 2 + 1) 1 0) c
    let d := stkOf (bodyBits c)
    let c := chkNarrow v (if d.mem.wrap then emberCount d.mem 1 else 0) c
    let d := { stkOf (bodyBits c) with nar := { d.nar with ember := false } }
    ckBan (bo 0x20) 40 (!d.mem.wrap || (stkExtents d 1).all (fun x => legalExtent v.hh v.region x.1 x.2)) c) c

/-- The save-buffer cells of an endpoint (R312). -/
def epBudget (d : EpD) : Nat :=
  if d.kind = 2 then 2 * d.credits else if d.kind = 4 then 1176 else if d.kind = 7 then d.senders + 2 else 0

/-- The body of a KIND 2 record (Tables 9-14a and 9-14c), apart from LOCAL and LOCAL_IO of a stream. -/
def chkEndpoint (v : DieEnv) (home : Nat) (c : Chk) : Chk :=
  let c := chkNarrowRsv (ckRsvBytes 128 0x40 0x60 (ckRsv (bo 0x20 + 40) 24 (ckRsv (bo 0x17) 8 (ckRsv (bo 0x0E + 9) 7
    (ckRsv (bo 0x0D) 8 (ckRsv (bo 0x0C + 4) 4 (ckRsv (bo 8 + 18) 14 (ckRsv (bo 6) 16 (ckRsv (bo 3 + 4) 4
      (ckRsv (bo 1 + 3) 5 c))))))))))
  let k := ckAt (bo 0) 8 c
  let c := chkFmt (bo 2 + 4) (chkFmt (bo 2) (ckBan (bo 0) 8 (decide (1 ≤ k) && decide (k ≤ 7)) c))
  ckIf true (fun c =>
    let d := epOf (bodyBits c)
    let noPeer := k == 7 || (k == 6 && d.root)
    let c := ckBan (bo 0x0C) 4 (decide (d.peerHearth ≤ 8) || (d.peerHearth == 15 && noPeer)) c
    let c := ckBan (bo 4) 16 (k != 7 || (inHsync v.region d.loc && v.hsyncOk d.loc)) c
    let c := ckIf (k == 2) (ckClamp (bo 0x10) 16 1 4096) c
    let c := ckClamp (bo 0x14) 16 0 4095 (ckClamp (bo 0x12) 16 (if k = 6 then 1 else 0) 4095 c)
    let c := ckIf (k == 6) (ckClamp (bo 0x16) 8 0 63) c
    let c := ckBan (bo 2 + 4) 3 (!((k == 5 || k == 6) && d.lay.fmt == 2)) c
    let c := chkScale 0x18 ((k == 3 || k == 4 || k == 5 || k == 6) && d.lay.fmt != flue) c
    let c := chkScale 0x1C (k == 4 && d.tokFmt != flue) c
    let c := ckIf (k == 3 || k == 4) (chkShape 0x38 0x3C 0x3E (if k = 3 then [d.lay.fmt] else [d.lay.fmt, d.tokFmt])
      (fun e => if k = 3 then maxRows flue e else maxRows d.tokFmt e)) c
    let c := ckIf (k == 5) (ckClamp (bo 0x3E) 16 1 65535) c
    let d := epOf (bodyBits c)
    let c := chkNarrow v (if d.lay.wrap then epEmberCount d 1 else 0) c
    let c := ckBan (bo 0x20) 40 (if k = 6 then
        decide (d.lay.base % 64 = 0) && wholeDdr v.hh d.lay.base ((d.senders + 1) * (d.window + 1) * 64)
      else if k = 7 then wholeDdr v.hh d.lay.base (8 * (d.senders + 1)) else true) c
    ckIf (14336 < v.budget home + epBudget d) (fun c => { c with dead := true, out := c.out ++ [⟨0, 0, 2, 0, 0⟩] }) c) c

/-- The body of a KIND 3 record (Table 9-16). A disabled slot sends no cells. -/
def chkSchedule (c : Chk) : Chk :=
  let c := ckRsvBytes 128 5 16 c
  let c := (List.range 12).foldl (fun c k => ckRsv (bo (0x16 + 8 * k)) 16 c) c
  if c.dead then c else
  let c := ckClamp (bo 4) 8 1 12 (ckClamp (bo 0) 32 100 (10 ^ 9) c)
  let period := ckAt (bo 0) 32 c
  (List.range (ckAt (bo 4) 8 c)).foldl (fun c k =>
    let lo := bo (0x10 + 8 * k)
    let o := ckAt lo 32 c
    if o < period ∧ (k = 0 ∨ ckAt (lo - 64) 32 c < o) then ckClamp (lo + 32) 16 1 65535 c
    else { ckPut (lo + 32) 16 0 c with out := c.out ++ [⟨lo, 32, 2, o, 0⟩] }) c

/-- A base-die record (R179, Table 6-5). A slice group with no slice in service holds no usable thread. -/
def chkDie (v : DieEnv) (w : Nat) : Chk :=
  let c : Chk := ckRsvBytes 0 4 16 { w := w }
  let k := ckAt 0 8 c
  let c := ckBan 0 8 (k == 1 || k == 2 || (k == 3 && v.level == 2)) c
  let c := ckBan 8 8 (decide (ckAt 8 8 c < v.sections)) c
  let u := ckAt 16 16 c
  if k = 1 then
    let c := ckRsv 26 6 c
    let g := u % 1024 / 32
    chkStoker v (ckBan 16 16 (inGroups v.region g && groupSlices v.hh g != [] && !v.threads.contains (u % 1024)) c)
  else if k ≠ 2 ∧ k ≠ 3 then c
  else
    let c := ckRsv 29 3 c
    let t := u % 8192 / 512
    let e := u % 512
    let c := ckBan 16 16 (portIn v.hh t && decide (v.region.epFirst ≤ e)
      && decide (e < v.region.epFirst + v.region.epCount) && (k == 3 || !v.eps.contains e)) c
    if k = 2 then chkEndpoint v t c else chkSchedule c

end Sys2Proof.Machine
end

