-- ==== Sys2Proof/Machine/Loader.lean ====
section
/-! DEFINITION. Loading a kindling image (R167 to R200): reading it, the load process of R190, LOAD_IMAGE, DROP_IMAGE,
READ_LOAD_REPORT and LOAD_COMPLETE. -/

namespace Sys2Proof.Machine

/-! ### The image in memory -/

/-- An image under load: the hearth as it is read, the address, the bytes in the buffer, IMAGE_BYTES and the directory. -/
structure Img where
  hh : Hearth
  addr : Nat
  bytes : Nat
  level : Nat
  dirs : List (Nat × Nat)

/-- A number at an offset of the image. -/
def imgNum (m : Img) (off n : Nat) : Nat := hNum m.hh (m.addr + off) n

/-- A word of [off, off + n) of the image cannot be read (R196). -/
def imgBad (m : Img) (off n : Nat) : Bool := (badWord m.hh (m.addr + off) n).isSome

/-- Offset and length of table k. -/
def tabOf (m : Img) (k : Nat) : Nat × Nat := m.dirs.getD k (0, 0)

/-- The whole entries of a fixed-size table: (index, unreadable, bits). -/
def entriesOf (m : Img) (k size : Nat) : List (Nat × Bool × Nat) :=
  let (off, len) := tabOf m k
  (List.range (len / size)).map (fun i =>
    (i, imgBad m (off + size * i) size, imgNum m (off + size * i) size))

/-- The records of a checked entry. -/
def recsOf (table entry slot tile count : Nat) (l : List Chg) : List LoadRec :=
  l.map (fun g =>
    { action := g.action, table := table, field := g.field, width := g.width, slot := slot, tile := tile, entry := entry
      count := count, original := g.orig, used := g.used })

/-- The record of an unreadable entry (R196). -/
def unreadable (table entry : Nat) : LoadRec := { action := 7, table := table, entry := entry }

/-- The place of a record within a step of R190: table, entry, field (R194). -/
def recKey (r : LoadRec) : Nat := r.table * 2 ^ 64 + r.entry * 2 ^ 16 + r.field

/-- Insert a record after those of the same place. -/
def insertRec (r : LoadRec) : List LoadRec → List LoadRec
  | [] => [r]
  | x :: t => if recKey r < recKey x then r :: x :: t else x :: insertRec r t

/-- Two records of one check on frame contents (R194). -/
def sameCheck (a b : LoadRec) : Bool :=
  a.table == 1 && b.table == 1 && 0 < a.count && 0 < b.count && a.action == b.action && a.field == b.field
    && a.width == b.width && a.slot == b.slot && a.entry == b.entry && isFn a.tile == isFn b.tile

/-- Add a record, merged with one of the same check: the tiles are counted together, the lowest is named (R194). -/
def mergeRec (r : LoadRec) (l : List LoadRec) : List LoadRec :=
  if l.any (sameCheck r) then
    l.map (fun x => if sameCheck r x then { x with tile := min x.tile r.tile, count := x.count + r.count } else x)
  else l ++ [r]

/-- The records of one step of R190, in order. -/
def stepRecs (l : List LoadRec) : List LoadRec :=
  (l.foldl (fun a r => mergeRec r a) []).foldl (fun a r => insertRec r a) []

/-! ### The header (R168, R188) -/

/-- The detail of a fatal load (R188). -/
def fatalLoad (hh : Hearth) (addr buf : Nat) : Option Nat :=
  if buf < 256 then some 1
  else if (badWord hh addr 256).isSome then some 4
  else if hNum hh addr 4 ≠ 0x444B5948 then some 2
  else if hNum hh (addr + 4) 1 ≠ 2 ∧ hNum hh (addr + 4) 1 ≠ 3 then some 3
  else none

/-- Bytes of an entry of a table; 1 for the tables of variable entries. -/
def entrySize (k : Nat) : Nat :=
  match k with | 0 => 64 | 3 => 16 | 4 => 16 | 5 => 16 | 6 => 128 | 7 => 24 | _ => 1

/-- A range of the target region, first and count (Table 6-1). -/
def chkRange (off n top lo : Nat) (c : Chk) : Chk :=
  let c := ckClamp (8 * off) (8 * n) 0 (top - 1) c
  ckClamp (8 * (off + n)) (8 * n) lo (top - ckAt (8 * off) (8 * n) c) c

/-- The header's checks: the entry is the 256 bytes. -/
def chkHeader (buf : Nat) (w : Nat) : Chk :=
  let c : Chk := ckRsvBytes 0 0x80 0x100 (ckRsvBytes 0 0x1C 0x20 (ckRsvBytes 0 5 6 { w := w }))
  let n := ckAt 64 64 c
  let c := if buf < n then { ckPut 64 64 buf c with out := c.out ++ [⟨64, 64, 4, n, buf⟩] } else ckForce 64 64 (max 256 n) c
  let c := chkRange 0x18 2 512 0 (chkRange 0x14 2 256 0 (chkRange 0x12 1 32 1 (ckRsv 138 6 c)))
  let c := if ckAt 32 8 c = 2 then ckRsv 0x2E0 32 (ckRsv 0x2C0 32 c) else c
  let c := (List.range 8).foldl (fun c k =>
    let off := ckAt (256 + 64 * k) 32 c
    let len := ckAt (288 + 64 * k) 32 c
    let room := ckAt 64 64 c - off
    if len ≤ room then c else
    let new := room / entrySize k * entrySize k
    { ckPut (288 + 64 * k) 32 new c with out := c.out ++ [⟨288 + 64 * k, 32, 4, len, new⟩] }) c
  ckForce 48 16 (min (min (max 1 (ckAt 48 16 c)) 64) (ckAt 288 32 c / 64)) c

/-- The target region of a checked header. -/
def targetOf (w : Nat) : Region :=
  let f (off n : Nat) : Nat := nbits w (8 * (off + n) - 1) (8 * off)
  { dieMask := BitVec.ofNat 10 (f 0x10 2), sliceFirst := f 0x12 1, sliceGroups := f 0x13 1, hsyncFirst := f 0x14 2
    hsyncCount := f 0x16 2, epFirst := f 0x18 2, epCount := f 0x1A 2 }

/-- The intersection of two ranges, as first and count (R182). -/
def meetRange (tf tn gf gn : Nat) : Nat × Nat :=
  let lo := max tf gf
  let hi := min (tf + tn) (gf + gn)
  if lo < hi then (lo, hi - lo) else (tf, 0)

/-- The effective region (R182). -/
def meetRegion (t g : Region) : Region :=
  let s := meetRange t.sliceFirst t.sliceGroups g.sliceFirst g.sliceGroups
  let o := meetRange t.hsyncFirst t.hsyncCount g.hsyncFirst g.hsyncCount
  let p := meetRange t.epFirst t.epCount g.epFirst g.epCount
  { dieMask := t.dieMask &&& g.dieMask, sliceFirst := s.1, sliceGroups := s.2, hsyncFirst := o.1, hsyncCount := o.2
    epFirst := p.1, epCount := p.2 }

/-- The REGION records: each field that the grant narrows (R182). -/
def regionRecs (t r : Region) : List LoadRec :=
  ([ (128, 16, t.dieMask.toNat, r.dieMask.toNat), (144, 8, t.sliceFirst, r.sliceFirst)
   , (152, 8, t.sliceGroups, r.sliceGroups), (160, 16, t.hsyncFirst, r.hsyncFirst), (176, 16, t.hsyncCount, r.hsyncCount)
   , (192, 16, t.epFirst, r.epFirst), (208, 16, t.epCount, r.epCount) ]).filterMap (fun x =>
    if x.2.2.1 = x.2.2.2 then none
    else some { action := 6, table := 0xFF, field := x.1, width := x.2.1, original := x.2.2.1, used := x.2.2.2 })

/-! ### The frame dictionary (R172) -/

/-- FRAMES after its check, and the records of the dictionary's head (R186, R196). -/
def framesOf (m : Img) : Nat × List LoadRec :=
  let (off, len) := tabOf m 1
  if len < 8 then (0, [])
  else if imgBad m off 8 then (0, [unreadable 1 0xFFFFFFFF])
  else
    let c := ckRsv 32 32 (ckClamp 0 32 0 ((len - 8) / 4) { w := imgNum m off 8 })
    (ckAt 0 32 c, recsOf 1 0 0xFF 0xFFFF 0 c.out)

/-- Decoding an encoded frame: position in the table, words decoded, the frame's bits, changes, whether bytes ran out. -/
structure FrameRun where
  pos : Nat
  n : Nat := 0
  w : Nat := 0
  out : List Chg := []
  short : Bool := false

/-- Decode one run (R172). -/
def frameRun (m : Img) (start : Nat) (x : FrameRun) : FrameRun :=
  let (off, len) := tabOf m 1
  if len ≤ x.pos then { x with short := true } else
  let b := imgNum m (off + x.pos) 1
  let bit := 8 * (x.pos - start)
  let left := 32 - x.n
  let k := min (b % 32 + 1) left
  let out := x.out ++ (if left < b % 32 + 1 then [⟨bit, 5, 1, b % 32, left - 1⟩] else [])
    ++ (if nbits b 6 5 = 0 then [] else [⟨bit + 5, 2, 1, nbits b 6 5, 0⟩])
  if b < 128 then { x with pos := x.pos + 1, n := x.n + k, out := out }
  else
    let have_ := min k ((len - x.pos - 1) / 8)
    { x with
      pos := x.pos + 1 + 8 * have_, n := x.n + have_, out := out, short := decide (have_ < k)
      w := x.w + imgNum m (off + x.pos + 1) (8 * have_) * 2 ^ (64 * x.n) }

/-- Decode runs until 32 words are complete or the table ends. -/
def frameRuns (m : Img) (start : Nat) : Nat → FrameRun → FrameRun
  | 0, x => x
  | k + 1, x => if x.n = 32 ∨ x.short then x else frameRuns m start k (frameRun m start x)

/-- Frame i: its 2,048 bits, or none where it is unusable, with its records (R186, R196). -/
def frameOf (m : Img) (i : Nat) : Option Nat × List LoadRec :=
  let (off, len) := tabOf m 1
  let p := 8 + 4 * i
  if imgBad m (off + p) 4 then (none, [unreadable 1 i]) else
  let start := imgNum m (off + p) 4
  if len ≤ start then (none, recsOf 1 i 0xFF 0xFFFF 0 [⟨0, 32, 2, start, 0⟩]) else
  let x := frameRuns m start 33 { pos := start }
  if imgBad m (off + start) ((if x.short then len else x.pos) - start) then (none, [unreadable 1 i]) else
  (some x.w, recsOf 1 i 0xFF 0xFFFF 0 (x.out ++ if x.short then [⟨8 * (len - start), 0, 4, 32, x.n⟩] else []))

/-! ### Placement (R173 to R176) -/

/-- A placement entry: its index, frame, slot, section and tiles; `ok` is false where its FRAME is not legal. -/
structure Place where
  idx : Nat
  frame : Nat
  slot : Nat
  sec : Nat
  tiles : List Nat
  ok : Bool
  deriving DecidableEq, Repr

/-- The runs of an entry, as tiles, with the entry's records. -/
def placeRuns (m : Img) (at_ n : Nat) : List Nat × List Chg :=
  (List.range n).foldl (fun (a : List Nat × List Chg) k =>
    let st := imgNum m (at_ + 8 + 4 * k) 2
    let c := imgNum m (at_ + 10 + 4 * k) 2
    if 479 < st then (a.1, a.2 ++ [⟨64 + 32 * k, 16, 2, st, 0⟩])
    else
      let c' := max 1 (min c (480 - st))
      (a.1 ++ ((List.range c').map (fun i => st + i)).filter (fun v => !a.1.contains v),
        a.2 ++ if c' = c then [] else [⟨80 + 32 * k, 16, 1, c, c'⟩])) ([], [])

/-- One entry of the placement list at an offset of the image: its bytes, the entry where it is applied, its records. -/
def placeAt (m : Img) (frames sections at_ left idx : Nat) : Nat × Option Place × List LoadRec :=
  let runs := imgNum m (at_ + 6) 2
  let n := min (max 1 runs) ((left - 8) / 4)
  let size := 8 + 4 * n
  if imgBad m at_ size then (size, none, [unreadable 2 idx]) else
  let fr := imgNum m at_ 4
  let slot := imgNum m (at_ + 4) 1
  let sec := imgNum m (at_ + 5) 1
  let recs (l : List Chg) : List LoadRec := recsOf 2 idx 0xFF 0xFFFF 0 l
  if frames ≤ fr then (size, some ⟨idx, fr, slot, sec, (placeRuns m at_ n).1, false⟩, recs [⟨0, 32, 2, fr, 0⟩])
  else if 11 < slot then (size, none, recs [⟨32, 8, 2, slot, 0⟩])
  else if sections ≤ sec then (size, none, recs [⟨40, 8, 2, sec, 0⟩])
  else
    let (tiles, out) := placeRuns m at_ n
    (size, some ⟨idx, fr, slot, sec, tiles, true⟩, recs ((if n = runs then [] else [⟨48, 16, 1, runs, n⟩]) ++ out))

/-- The entries from an offset on. -/
def placesFrom (m : Img) (frames sections : Nat) : Nat → Nat → Nat → Nat → List Place × List LoadRec
  | 0, _, _, _ => ([], [])
  | fuel + 1, at_, left, idx =>
    if left < 8 then ([], []) else
    let (size, p, r) := placeAt m frames sections at_ left idx
    let (ps, rs) := placesFrom m frames sections fuel (at_ + size) (left - size) (idx + 1)
    ((match p with | some x => [x] | none => []) ++ ps, r ++ rs)

/-! ### What a load has built -/

/-- A tile that the image names: the entry that named it first, the frame each of its slots came from, its registers. -/
structure TileBld where
  v : Nat
  first : Nat
  frames : List (Nat × Nat)
  cfg : TileCfg

/-- A load's progress: tiles named, tiles to be idle, tables read, frames decoded, records, the slot of each placement entry. -/
structure Bld where
  m : Img
  region : Region
  sections : List Section := []
  hsync : SMap W64 := []
  bounds : SMap (W64 × W64) := []
  threads : List (Nat × ThreadCfg) := []
  eps : List (Nat × EpCfg) := []
  scheds : List (Nat × BitVec 896) := []
  frames : List (Nat × Option Nat) := []
  tiles : List TileBld := []
  idle : List (Place × List Nat) := []
  routed : List (Nat × Nat × Nat × Nat) := []
  recs : List LoadRec := []
  slots : SMap Nat := []

/-- Add the records of one step. -/
def addRecs (b : Bld) (l : List LoadRec) : Bld := { b with recs := b.recs ++ stepRecs l }

/-- A hearth object in the region with an entry of table 4. -/
def hsyncUsable (b : Bld) (o : Nat) : Bool := inHsync b.region o && b.hsync.any (fun x => x.1 == o)

/-- A named tile. -/
def bldTile (b : Bld) (v : Nat) : Option TileBld := b.tiles.find? (fun x => x.v == v)

/-- Change a named tile's registers. -/
def updBld (b : Bld) (v : Nat) (f : TileCfg → TileCfg) : Bld :=
  { b with tiles := b.tiles.map (fun x => if x.v = v then { x with cfg := f x.cfg } else x) }

/-! ### Steps 4 to 7 -/

/-- Step 4: table 0. The calibration entries are applied to the hearth's records by calEntries. -/
def readSections (b : Bld) (count : Nat) : Bld × List LoadRec :=
  ((entriesOf b.m 0 64).take count).foldl (fun (a : Bld × List LoadRec) x =>
    let (i, bad, w) := x
    if bad then ({ a.1 with sections := a.1.sections ++ [{}] }, a.2 ++ [unreadable 0 i]) else
    let c := chkSection a.1.m.level i count { w := w }
    ({ a.1 with sections := a.1.sections ++ [sectionOfBits a.1.m.level c.w] }, a.2 ++ recsOf 0 i 0xFF 0xFFFF 0 c.out)) (b, [])

/-- Step 4: table 7, as (stream, JD_CAL_CFG, JD_CAL_STATE). -/
def calEntries (m : Img) : List (Nat × W64 × W64) × List LoadRec :=
  if m.level = 2 then ([], []) else
  (entriesOf m 7 24).foldl (fun (a : List (Nat × W64 × W64) × List LoadRec) x =>
    let (i, bad, w) := x
    if bad then (a.1, a.2 ++ [unreadable 7 i]) else
    let c := chkCal (a.1.map (·.1)) w
    (if c.dead then a.1 else a.1 ++ [(ckAt 0 8 c, BitVec.ofNat 64 (ckAt 64 64 c), BitVec.ofNat 64 (ckAt 128 64 c))],
      a.2 ++ recsOf 7 i 0xFF 0xFFFF 0 c.out)) ([], [])

/-- Table 4. -/
def readHsync (b : Bld) : Bld × List LoadRec :=
  (entriesOf b.m 4 16).foldl (fun (a : Bld × List LoadRec) x =>
    let (i, bad, w) := x
    if bad then (a.1, a.2 ++ [unreadable 4 i]) else
    let c := chkHsync a.1.region w
    let b := a.1
    (if c.dead then b else { b with
        hsync := b.hsync.filter (fun y => y.1 != ckAt 0 16 c) ++ [(ckAt 0 16 c, BitVec.ofNat 64 (ckAt 64 64 c))] },
      a.2 ++ recsOf 4 i 0xFF 0xFFFF 0 c.out)) (b, [])

/-- Table 5. -/
def readBounds (b : Bld) : Bld × List LoadRec :=
  (entriesOf b.m 5 16).foldl (fun (a : Bld × List LoadRec) x =>
    let (i, bad, w) := x
    if bad then (a.1, a.2 ++ [unreadable 5 i]) else
    let c := chkBounds w
    ({ a.1 with bounds := a.1.bounds ++ [(i, (BitVec.ofNat 64 (ckAt 0 64 c), BitVec.ofNat 64 (ckAt 64 64 c)))] },
      a.2 ++ recsOf 5 i 0xFF 0xFFFF 0 c.out)) (b, [])

/-- What base-die records are checked against. -/
def dieEnv (b : Bld) : DieEnv :=
  { hh := b.m.hh, region := b.region, level := b.m.level, sections := b.sections.length, hsyncOk := hsyncUsable b
    bounds := fun i => b.bounds.any (fun x => x.1 == i), threads := b.threads.map (·.1), eps := b.eps.map (·.1)
    budget := fun t => (b.eps.filter (fun x => x.2.home == t)).foldl (fun a x => a + epBudget (epOf x.2.body)) 0 }

/-- Table 6. -/
def readDie (b : Bld) : Bld × List LoadRec :=
  (entriesOf b.m 6 128).foldl (fun (a : Bld × List LoadRec) x =>
    let (i, bad, w) := x
    let b := a.1
    if bad then (b, a.2 ++ [unreadable 6 i]) else
    let c := chkDie (dieEnv b) w
    let u := ckAt 16 16 c
    let sec := ckAt 8 8 c
    let body := bodyBits c
    (if c.dead then b
      else if ckAt 0 8 c = 1 then { b with threads := b.threads ++ [(u, { section_ := sec, rcd := i, body := body })] }
      else if ckAt 0 8 c = 2 then
        { b with eps := b.eps ++ [(u % 512, { section_ := sec, rcd := i, home := u / 512, body := body })] }
      else { b with scheds := b.scheds ++ [(u, body)] },
      a.2 ++ recsOf 6 i 0xFF 0xFFFF 0 c.out)) (b, [])

/-- A tile may receive frames: present, enabled, inside the region (R23, R183). -/
def placeable (b : Bld) (v : Nat) : Bool := tileEnabled b.m.hh v && b.region.dieMask.getLsbD (v / 48)

/-- A frame, decoded once. -/
def bldFrame (b : Bld) (i : Nat) : Bld × Option Nat × List LoadRec :=
  match b.frames.find? (fun x => x.1 == i) with
  | some x => (b, x.2, [])
  | none =>
    let (w, r) := frameOf b.m i
    ({ b with frames := b.frames ++ [(i, w)] }, w, r)

/-- Registers lo to hi − 1 of a frame, from word w0 on, into a table with a reset value. -/
def putRegs (reset : W64) (m : SMap W64) (frame w0 lo n : Nat) : SMap W64 :=
  (List.range n).foldl (fun m i => mput reset m (lo + i) (BitVec.ofNat 64 (frame / 2 ^ (64 * (w0 + i))))) m

/-- A frame becomes a slot of a tile (Table 6-4). -/
def putSlot (fn : Bool) (slot frame : Nat) (c : TileCfg) : TileCfg :=
  match slot with
  | 0 => { c with syncs := putRegs syncReset c.syncs frame 0 0 32 }
  | 1 => { c with
      syncs := putRegs syncReset c.syncs frame 0 32 16
      lim := if fn then putRegs limReset c.lim frame 16 0 16 else c.lim }
  | 2 => { c with ops := putRegs 0 c.ops frame 0 0 32 }
  | 3 => { c with ctl := if fn then putRegs ctlReset c.ctl frame 0 0 16 else c.ctl }
  | _ => { c with
      params := (List.range 4).foldl (fun m j =>
        mput 0 m (4 * (slot - 4) + j) (BitVec.ofNat 512 (frame / 2 ^ (512 * j)))) c.params }

/-- The record of tiles that an entry affects. -/
def tilesRec (action table entry slot field width orig : Nat) (l : List Nat) : List LoadRec :=
  match l with
  | [] => []
  | v :: t =>
    [{ action := action, table := table, field := field, width := width, slot := slot, tile := t.foldl min v
       entry := entry, count := l.length, original := orig }]

/-- One placement entry: DISCARD for tiles it may not write; tiles of another section and slots already received are
disabled (R175); the rest receive the frame as checked for their kind. -/
def placeOne (b : Bld) (p : Place) : Bld × List LoadRec :=
  let (here, out) := p.tiles.partition (placeable b)
  let rs := tilesRec 3 2 p.idx p.slot 0 0 0 out
  if !p.ok then ({ b with idle := b.idle ++ [(p, here)] }, rs) else
  let (b, w, fr) := bldFrame b p.frame
  let rs := fr ++ rs
  match w with
  | none => ({ b with idle := b.idle ++ [(p, here)] }, rs)
  | some w =>
    let other (v : Nat) : Bool := match bldTile b v with | some x => x.cfg.section_ != p.sec | none => false
    let twice (v : Nat) : Bool := match bldTile b v with | some x => x.frames.any (fun y => y.1 == p.slot) | none => false
    let bad1 := here.filter other
    let bad2 := here.filter (fun v => !other v && twice v)
    let good := here.filter (fun v => !other v && !twice v)
    let rs := rs ++ tilesRec 2 2 p.idx p.slot 32 8 p.slot bad2 ++ tilesRec 2 2 p.idx p.slot 40 8 p.sec bad1
    let content (fn : Bool) : Chk × List LoadRec :=
      let l := good.filter (fun v => isFn v == fn)
      let c := chkFrame fn p.slot w
      (c, match l with | [] => [] | v :: t => recsOf 1 p.frame p.slot (t.foldl min v) l.length c.out)
    let (cm, rm) := content false
    let (cf, rf) := content true
    let b := good.foldl (fun b v =>
      let fr := if isFn v then cf.w else cm.w
      match bldTile b v with
      | some _ => { b with tiles := b.tiles.map (fun x => if x.v = v then
          { x with frames := x.frames ++ [(p.slot, p.frame)], cfg := putSlot (isFn v) p.slot fr x.cfg } else x) }
      | none => { b with tiles := b.tiles ++
          [⟨v, p.idx, [(p.slot, p.frame)], putSlot (isFn v) p.slot fr { section_ := p.sec }⟩] }) b
    (b, rs ++ rm ++ rf)

/-- Step 6. -/
def readPlaces (b : Bld) : Bld :=
  let (frames, r0) := framesOf b.m
  let (off, len) := tabOf b.m 2
  let (ps, r1) := placesFrom b.m frames b.sections.length (len / 8 + 1) off len 0
  let (b, rs) := ps.foldl (fun (a : Bld × List LoadRec) p =>
    let (b, r) := placeOne a.1 p
    (b, a.2 ++ r)) ({ b with slots := ps.foldl (fun t p => mput 0xFF t p.idx p.slot) [] }, r0 ++ r1)
  addRecs b rs

/-- Step 7: table 3 (R177). -/
def readRoutes (b : Bld) : Bld :=
  let (b, rs) := (entriesOf b.m 3 16).foldl (fun (a : Bld × List LoadRec) x =>
    let (i, bad, w) := x
    let b := a.1
    if bad then (b, a.2 ++ [unreadable 3 i]) else
    let c := chkRoute (fun v => (bldTile b v).isSome) w
    let tile := tileOfId (ckAt 0 10 c)
    let v := tile.getD 0
    let dir := ckAt 23 1 c
    let n := ckAt 16 4 c
    let c := ckBan 16 4 (!b.routed.any (fun y => y.1 == v && y.2.1 == dir && y.2.2.1 == n)) c
    let rs := a.2 ++ (match tile with
      | some v => recsOf 3 i 0xFF v 1 c.out
      | none => recsOf 3 i 0xFF 0xFFFF 0 c.out)
    if c.dead then (b, rs) else
    let val := BitVec.ofNat 64 (ckAt 64 64 c)
    let b := updBld b v (fun t =>
      if dir = 1 then { t with outs := mput 0 t.outs n val } else { t with ins := mput inReset t.ins n val })
    ({ b with routed := b.routed ++ [(v, dir, n, i)] }, rs)) (b, [])
  addRecs b rs

/-! ### Step 8: the cross-checks (R187) -/

/-- The progress of one pass: whether it disabled anything, and its records. -/
structure Pass where
  b : Bld
  recs : List LoadRec := []
  hit : Bool := false

/-- The frame that a tile's slot came from, as a record's ENTRY. -/
def frameEntry (x : TileBld) (slot : Nat) : Nat :=
  match x.frames.find? (fun y => y.1 == slot) with
  | some y => y.2
  | none => 0xFFFFFFFF

/-- Disable an operation slot for a field of a frame slot. -/
def opOff (p : Pass) (x : TileBld) (s slot : Nat) (g : Chg) : Pass :=
  { b := updBld p.b x.v (fun t => { t with ops := mput 0 t.ops s 0 })
    recs := p.recs ++ recsOf 1 (frameEntry x slot) slot x.v 1 [g], hit := true }

/-- The enabled slots of a tile's registers. -/
def cfgSlots (t : TileCfg) : List Nat := (List.range 32).filter (fun s => nbit (mget 0 t.ops s).toNat 63)

/-- The parameter block of one slot. -/
def crossParam (p : Pass) (v s : Nat) : Pass :=
  match bldTile p.b v with
  | none => p
  | some x =>
    let o := mget 0 x.cfg.ops s
    if !nbit o.toNat 63 then p else
    let c := chkParam ⟨p.b.m.hh, p.b.region, x.cfg, hsyncUsable p.b⟩ (wb o 62 56) (mget 0 x.cfg.params s).toNat
    let slot := 4 + s / 4
    let out := c.out.map (fun g => { g with field := 512 * (s % 4) + g.field })
    { b := updBld p.b v (fun t => { t with
        params := mput 0 t.params s (if c.dead then 0 else BitVec.ofNat 512 c.w)
        ops := if c.dead then mput 0 t.ops s 0 else t.ops })
      recs := p.recs ++ recsOf 1 (frameEntry x slot) slot v 1 out, hit := p.hit || c.dead }

/-- A unit that a stream names is usable: a named tile, a configured thread, an endpoint at its home (R186, R301). -/
def unitUsable (b : Bld) (kind id : Nat) : Bool :=
  if kind = 1 then (match tileOfId id with | some v => (bldTile b v).isSome | none => false)
  else if kind = 2 then b.threads.any (fun x => x.1 == id)
  else if kind = 4 then b.eps.any (fun x => x.1 == id % 512 && x.2.home * 512 + x.1 == id)
  else false

/-- The kinds of unit that streams join (Table 2-20). -/
def streamKind (k : Nat) : Bool := k == 1 || k == 2 || k == 4

/-- The route entry of a stream. -/
def bldRoute (b : Bld) (v dir n : Nat) : Nat :=
  match b.routed.find? (fun y => y.1 == v && y.2.1 == dir && y.2.2.1 == n) with
  | some y => y.2.2.2
  | none => 0

/-- Disable a stream of a tile. -/
def streamOff (p : Pass) (v dir n : Nat) (g : Chg) : Pass :=
  { b := updBld p.b v (fun t =>
      if dir = 1 then { t with outs := mput 0 t.outs n 0 } else { t with ins := mput inReset t.ins n inReset })
    recs := p.recs ++ recsOf 3 (bldRoute p.b v dir n) 0xFF v 1 [{ g with field := 64 + g.field }], hit := true }

/-- An input in use. -/
def inUse (t : TileCfg) (n : Nat) : Bool := nbit (mget inReset t.ins n).toNat 63

/-- An output in use. -/
def outUse (t : TileCfg) (n : Nat) : Bool := nbit (mget 0 t.outs n).toNat 63

/-- The local-store lines of a combining input (R56). -/
def combineArea (w : W64) : Nat × Nat := (wb w 18 8, wb w 18 8 + (wb w 49 38 + 1) * (wb w 60 55 + 1))

/-- Input n of a tile: its source is usable; a combining input overlaps none of lower index (R56). -/
def crossIn (p : Pass) (v n : Nat) : Pass :=
  match bldTile p.b v with
  | none => p
  | some x =>
    let w := mget inReset x.cfg.ins n
    if !nbit w.toNat 63 then p
    else if wb w 62 61 = 2 then
      let a := combineArea w
      if (List.range n).any (fun k =>
          let u := mget inReset x.cfg.ins k
          nbit u.toNat 63 && wb u 62 61 == 2 && decide ((combineArea u).1 < a.2) && decide (a.1 < (combineArea u).2)) then
        streamOff p v 0 n ⟨8, 11, 2, wb w 18 8, 0⟩
      else p
    else if unitUsable p.b (wb w 37 35) (wb w 34 19) then p
    else if streamKind (wb w 37 35) then streamOff p v 0 n ⟨19, 16, 2, wb w 34 19, 0⟩
    else streamOff p v 0 n ⟨35, 3, 2, wb w 37 35, 0⟩

/-- Output n of a tile: its destination is usable, and an input in use where it is a tile. -/
def crossOut (p : Pass) (v n : Nat) : Pass :=
  match bldTile p.b v with
  | none => p
  | some x =>
    let w := mget 0 x.cfg.outs n
    if !nbit w.toNat 63 then p
    else if !unitUsable p.b (wb w 62 60) (wb w 59 44) then
      streamOff p v 1 n (if streamKind (wb w 62 60) then ⟨44, 16, 2, wb w 59 44, 0⟩ else ⟨60, 3, 2, wb w 62 60, 0⟩)
    else if wb w 62 60 = 1 then
      match (tileOfId (wb w 59 44)).bind (bldTile p.b) with
      | some y => if inUse y.cfg (wb w 43 40) then p else streamOff p v 1 n ⟨40, 4, 2, wb w 43 40, 0⟩
      | none => p
    else p

/-- The streams of one slot: its masks, then its operand selectors. -/
def crossOp (p : Pass) (v s : Nat) : Pass :=
  match bldTile p.b v with
  | none => p
  | some x =>
    let o := mget 0 x.cfg.ops s
    let code := wb o 62 56
    let blk := (mget 0 x.cfg.params s).toNat
    let f (off n : Nat) : Nat := nbits blk (8 * (off + n) - 1) (8 * off)
    if !nbit o.toNat 63 then p
    else if !(setBits 16 (wb o 47 32)).all (inUse x.cfg) then opOff p x s 2 ⟨64 * s + 32, 16, 2, wb o 47 32, 0⟩
    else if !(setBits 16 (wb o 31 16)).all (outUse x.cfg) then opOff p x s 2 ⟨64 * s + 16, 16, 2, wb o 31 16, 0⟩
    else
      let sel : List (Nat × Bool) := if code = 0x15 then [(2, f 0 1 == 1)] else
        let (i, o) := parSels code
        (i.map (fun a => (a, false)) ++ o.map (fun a => (a, true))).filter (fun y => f y.1 2 < 2 ^ 15)
      match sel.find? (fun y => !(if y.2 then outUse x.cfg (f y.1 2 % 16) else inUse x.cfg (f y.1 2 % 16))) with
      | some y => opOff p x s (4 + s / 4) ⟨512 * (s % 4) + 8 * y.1, 16, 2, f y.1 2, 0⟩
      | none => p

/-- An input of a tile is in use and names a unit as its source; a combining input takes any sender of its table. -/
def feeds (b : Bld) (tile inp kind id : Nat) : Bool :=
  match (tileOfId tile).bind (bldTile b) with
  | some y =>
    let w := mget inReset y.cfg.ins inp
    nbit w.toNat 63 && (wb w 62 61 == 2 || (wb w 37 35 == kind && wb w 34 19 == id))
  | none => false

/-- An output of a tile names a unit as its destination. -/
def fedBy (b : Bld) (tile out kind id : Nat) : Bool :=
  match (tileOfId tile).bind (bldTile b) with
  | some y =>
    let w := mget 0 y.cfg.outs out
    nbit w.toNat 63 && wb w 62 60 == kind && wb w 59 44 == id
  | none => false

/-- DEST and SRC of a thread (Table 8-6). -/
def crossThread (p : Pass) (u : Nat) (t : ThreadCfg) : Pass :=
  let d := stkOf t.body
  let off (at_ v : Nat) : Pass :=
    { b := { p.b with threads := p.b.threads.filter (fun x => x.1 != u) }
      recs := p.recs ++ recsOf 6 t.rcd 0xFF 0xFFFF 0 [⟨bo at_, 16, 2, v, 0⟩], hit := true }
  if (d.mode = 0 ∨ d.mode = 2 ∨ d.mode = 4) ∧ !feeds p.b d.dest d.destIn 2 u then off 4 d.dest
  else if (d.mode = 1 ∨ d.mode = 2) ∧ !fedBy p.b d.src d.srcOut 2 u then off 6 d.src
  else p

/-- LOCAL and LOCAL_IO of an endpoint (Table 9-14c). -/
def crossEp (p : Pass) (e : Nat) (t : EpCfg) : Pass :=
  let d := epOf t.body
  let id := t.home * 512 + e
  if (epSource d && !feeds p.b d.loc d.localIo 4 id) || (epSink d && !fedBy p.b d.loc d.localIo 4 id) then
    { b := { p.b with eps := p.b.eps.filter (fun x => x.1 != e) }
      recs := p.recs ++ recsOf 6 t.rcd 0xFF 0xFFFF 0 [⟨bo 4, 16, 2, d.loc, 0⟩], hit := true }
  else p

/-- One pass: parameter blocks, inputs, outputs, slots, base-die units. -/
def crossPass (p : Pass) : Pass :=
  let vs := p.b.tiles.map (·.v)
  let each (n : Nat) (f : Pass → Nat → Nat → Pass) (p : Pass) : Pass :=
    vs.foldl (fun p v => (List.range n).foldl (fun p i => f p v i) p) p
  let p := each 32 crossOp (each 16 crossOut (each 16 crossIn (each 32 crossParam p)))
  let p := p.b.threads.foldl (fun p x => crossThread p x.1 x.2) p
  p.b.eps.foldl (fun p x => crossEp p x.1 x.2) p

/-- Passes until one disables nothing (R187). -/
def crossLoop : Nat → Pass → Pass
  | 0, p => p
  | n + 1, p =>
    let q := crossPass { p with hit := false }
    if q.hit then crossLoop n q else q

/-- Step 8. Every pass but the last disables a slot, a stream or a unit. -/
def crossChecks (b : Bld) : Bld :=
  let q := crossLoop (64 * b.tiles.length + b.threads.length + b.eps.length + 1) { b := b }
  addRecs q.b q.recs

/-! ### The load as a whole -/

/-- The loader's reads of the image: corrected words are written back, uncorrectable ones count (R413, Table 13-4). -/
def imageReads (e : Env) (hh : Hearth) (a n : Nat) : Hearth :=
  (hh.errs.filter (fun x => a ≤ 8 * x.1 + 7 && 8 * x.1 < a + n)).foldl (fun hh x =>
    match wordReads hh x.1 with
    | .data _ => corrected e hh x.1
    | .check => corrected e hh x.1
    | .uncorrectable => memUe e hh (8 * x.1) 3 none 0 (keyPath (memKey hh (8 * x.1)))
    | _ => hh) hh

/-- The reset of the calibration records of a context (R146, R198). -/
def resetCal (hh : Hearth) (c : Nat) : Hearth := { hh with cal := hh.cal.filter (fun x => x.1 / 32 != c) }

/-- Drop context c of every tile and base-die unit (R198). -/
def dropCtx (hh : Hearth) (c : Nat) : Hearth :=
  let tiles := mmap {} (fun _ (t : Tile) =>
    { t with
      cfg := mput {} t.cfg c {}, valid := t.valid &&& ~~~BitVec.ofNat 4 (2 ^ c)
      state := if t.active = c ∧ t.state = .configured then .idle else t.state }) hh.tiles
  resetCal { hh with tiles := tiles, ctxs := mput {} hh.ctxs c { report := { context := c } } } c

/-- A report of records made so far: at most 4,095 are held (R193). -/
def reportOf (c level digest : Nat) (l : List LoadRec) (past : Nat) : LoadReport :=
  { recs := l.take 4095, overflow := sat 32 (past + (l.length - 4095)), context := c, level := level
    digest := BitVec.ofNat 64 digest }

/-- Steps 1 to 8 of R190 for a load that is not fatal: everything but the step at which the context becomes valid. Of two
KIND 3 records for one endpoint the last one gives its schedule (DESIGN CHOICE, log 128). -/
def startLoad (cmd c addr buf : Nat) (granted : Region) (e : Env) (hh0 : Hearth) : Hearth :=
  let seen := seenAt hh0 addr
  let w := hNum seen addr 256
  let h := chkHeader buf w
  let dirs := (List.range 8).map (fun k => (ckAt (256 + 64 * k) 32 h, ckAt (288 + 64 * k) 32 h))
  let m : Img := { hh := seen, addr := addr, bytes := ckAt 64 64 h, level := ckAt 32 8 h, dirs := dirs }
  let target := targetOf h.w
  let region := meetRegion target granted
  let b : Bld := addRecs (addRecs { m := m, region := region } (recsOf 0xFF 0 0xFF 0xFFFF 0 h.out))
    (regionRecs target region)
  let (b, r0) := readSections b (ckAt 48 16 h)
  let (cal, r7) := calEntries m
  let b := addRecs b (r0 ++ r7)
  let (b, r4) := readHsync b
  let (b, r5) := readBounds b
  let (b, r6) := readDie b
  let b := crossChecks (readRoutes (readPlaces (addRecs b (r4 ++ r5 ++ r6))))
  let idleSet := (b.idle.flatMap (·.2)).eraseDups
  let idle := b.idle.flatMap (fun x =>
    tilesRec 5 2 x.1.idx (if x.1.slot ≤ 11 then x.1.slot else 0xFF) 0 0 0 x.2)
  let report := reportOf c m.level (nbits w (8 * 0x68 - 1) (8 * 0x60)) b.recs 0
  let eps : SMap EpCfg := b.eps.foldl (fun t x => mput {} t x.1 { x.2 with
    sched := (b.scheds.reverse.find? (fun y => y.1 == x.2.home * 512 + x.1)).map (·.2) }) []
  let info : CtxInfo :=
    { valid := true, digest := BitVec.ofNat 256 (nbits w (8 * 0x80 - 1) (8 * 0x60)), level := m.level, region := region
      sections := b.sections, bounds := b.bounds.foldl (fun t x => mput (0, 0) t x.1 x.2) []
      hsync := b.hsync.foldl (fun t x => mput 0 t x.1 x.2) []
      threads := b.threads.foldl (fun t x => mput {} t x.1 x.2) [], eps := eps, report := report }
  let hh := dropCtx (imageReads e hh0 addr (min buf m.bytes)) c
  let hh := cal.foldl (fun hh x => updCal hh c x.1 (fun r => { r with cfg := x.2.1, state := x.2.2 })) hh
  let kept := b.tiles.filter (fun x => !idleSet.contains x.v)
  refreshSt { hh with
    ctxs := mput {} hh.ctxs c { report := report }
    load := some
      { cmd := cmd, ctx := c, info := info, tiles := kept.map (fun x => (x.v, x.cfg))
        first := kept.map (fun x => (x.v, x.first)), idle := stepRecs idle, idleTiles := idleSet.length
        slots := b.slots } }

/-- The DISCARD record of placement entry i. -/
def isDiscard (i : Nat) (r : LoadRec) : Bool := r.action == 3 && r.table == 2 && r.entry == i

/-- The tiles retired during a load (R197) join the DISCARD record of the entry that first named them: its count grows and the
lowest tile is named; an entry without such a record gives one (R194). The records held, and those that join the report. -/
def lostRecs (l : Load) (gone : List Nat) : List LoadRec × List LoadRec :=
  ((l.first.filter (fun x => gone.contains x.1)).map (·.2)).eraseDups.foldl (fun (a : List LoadRec × List LoadRec) i =>
    let r := tilesRec 3 2 i (mget 0xFF l.slots i) 0 0 0
      ((l.first.filter (fun x => x.2 == i && gone.contains x.1)).map (·.1))
    if a.1.any (isDiscard i) then
      (r.foldl (fun t d => t.map (fun x => if isDiscard i x then
        { x with tile := min x.tile d.tile, count := x.count + d.count } else x)) a.1, a.2)
    else (a.1, a.2 ++ r)) (l.info.report.recs, [])

/-- Step 9: the context becomes valid at one instant in every named tile and configured unit (R190). -/
def endLoad (l : Load) (ns : Nat) (hh : Hearth) : Hearth × Nat :=
  let gone := (l.tiles.map (·.1)).filter (fun v => !tileEnabled hh v)
  let stay := l.tiles.filter (fun x => !gone.contains x.1)
  let c := l.ctx
  let hh := stay.foldl (fun hh x => updTile hh x.1 (fun t =>
    { t with
      cfg := mput {} t.cfg c x.2, valid := t.valid ||| BitVec.ofNat 4 (2 ^ c)
      state := if t.active = c ∧ t.state = .idle then .configured else t.state })) hh
  let (held, lost) := lostRecs l gone
  let r := l.info.report
  let recs := held ++ stepRecs (lost ++ l.idle)
  let past := sat 32 (r.overflow + (recs.length - 4095))
  let n := min recs.length 4095 + past
  let report := { r with
    recs := recs.take 4095, overflow := past, status := if n = 0 then .done else .doneWithReport
    tilesValid := stay.length, tilesIdle := l.idleTiles, loadNs := sat 32 ns }
  (refreshSt { hh with load := none, ctxs := mput {} hh.ctxs c { l.info with report := report } }, sat 32 n)

/-- LOAD_COMPLETE: a hearth's load reaches steps 9 and 10, ns nanoseconds after it began (R190, R192). -/
def execLoadComplete (h ns : Nat) (s : State) : Host.Outcome State Fault Refusal :=
  done (match (hearthOf s h).load with
    | none => s
    | some l =>
      let (hh, n) := endLoad l ns (hearthOf s h)
      loadPart (putH s h hh) l.cmd h (if n = 0 then .done else .doneWithReport) 0 n)

/-! ### Commands -/

/-- The context holds a section of a running or frozen step, or a load is in progress (R189). -/
def ctxBusy (s : State) (hs : List Nat) (c : Nat) : Option (Status × Nat) :=
  let step := hs.find? (fun h =>
    (hearthOf s h).steps.any (fun x => x.ctx == c && (liveState x.state || x.state == .frozen)))
  match step with
  | some h => some (.rejectedState, stateDetail 3 h 7)
  | none => (hs.find? (fun h => (hearthOf s h).load.isSome)).map (fun h => (.rejectedState, stateDetail 3 h 1))

/-- Whether a granted range of HSYNC counters or endpoints has a legal first index, and whether its count lies in the range;
where the grant is absent both fields are reserved (R386, R396). -/
def grantOk (g : Bool) (first count top : Nat) : Bool × Bool :=
  (!g || decide (first < top), !g || (decide (1 ≤ count) && (decide (top ≤ first) || decide (count ≤ top - first))))

/-- What the checks of Table 12-5 look at in LOAD_IMAGE. -/
def loadImageSpec (p : Pkt) (s : State) : CmdSpec :=
  let f := fld p
  let hs := named p
  let g := f 0x11 1
  let hg := grantOk (nbit g 0) (f 0x16 2) (f 0x18 2) 256
  let eg := grantOk (nbit g 1) (f 0x1A 2) (f 0x1C 2) 512
  let used := fun (b : Bool) => if b then full 2 else 0
  let addr := f 0x20 8 % 2 ^ 40
  let buf := f 0x28 8
  { code := 0x30, service := false, tree := true, need := .some, anyState := false, hst := rdyFrz, named := hs
    fields := [(0x10, 1, full 1), (0x11, 1, 3), (0x12, 2, 0x3FF), (0x14, 1, full 1), (0x15, 1, full 1),
      (0x16, 2, used (nbit g 0)), (0x18, 2, used (nbit g 0)), (0x1A, 2, used (nbit g 1)), (0x1C, 2, used (nbit g 1)),
      (0x20, 8, 2 ^ 40 - 1), (0x28, 8, full 8)]
    lens := [(0x15, decide (1 ≤ f 0x15 1) && (decide (31 < f 0x14 1) || decide (f 0x15 1 ≤ 32 - f 0x14 1))),
      (0x18, hg.2), (0x1C, eg.2)]
    ranges := [(0x10, decide (f 0x10 1 ≤ 3)), (0x12, f 0x12 2 != 0), (0x14, decide (f 0x14 1 ≤ 31)),
      (0x16, hg.1), (0x1A, eg.1), (0x20, hs.all (fun h => extentAny (hearthOf s h) addr buf))]
    own := ctxBusy s hs (f 0x10 1) }

/-- LOAD_IMAGE (R182, R188, R396). -/
def execLoadImage (p : Pkt) (s : State) : Host.Outcome State Fault Refusal :=
  let f := fld p
  let hs := named p
  let addr := f 0x20 8 % 2 ^ 40
  let buf := f 0x28 8
  let granted : Region :=
    { dieMask := BitVec.ofNat 10 (f 0x12 2), sliceFirst := f 0x14 1, sliceGroups := f 0x15 1, hsyncFirst := f 0x16 2
      hsyncCount := f 0x18 2, epFirst := f 0x1A 2, epCount := f 0x1C 2 }
  done (submit s p (loadImageSpec p s)
    (fun id s =>
      let s := setWait s id (.load p.hearths .done 0 0 0)
      hs.foldl (fun s h =>
        match fatalLoad (seenAt (hearthOf s h) addr) addr buf with
        | some d => loadPart s id h .rejectedParameter d 0
        | none => onHearth s h (startLoad id (f 0x10 1) addr buf granted)) s))

/-- What the checks of Table 12-5 look at in DROP_IMAGE. -/
def dropImageSpec (p : Pkt) (s : State) : CmdSpec :=
  let c := fld p 0x10 1
  let hs := named p
  { code := 0x31, service := false, tree := true, need := .some, anyState := false, hst := rdyFrz, named := hs
    fields := [(0x10, 1, full 1)], ranges := [(0x10, decide (c ≤ 3))], own := ctxBusy s hs c }

/-- DROP_IMAGE (R198). -/
def execDropImage (p : Pkt) (s : State) : Host.Outcome State Fault Refusal :=
  let c := fld p 0x10 1
  let hs := named p
  done (submit s p (dropImageSpec p s)
    (fun id s => finish (hs.foldl (fun s h => updH s h (fun hh => refreshSt (dropCtx hh c))) s) id .done 0 0 0))

/-- A load report's head (Table 6-6). -/
def reportHead (r : LoadReport) : List Byte :=
  leBytes 4 r.recs.length ++ leBytes 4 r.overflow ++ leBytes 2 (stCode r.status) ++ leBytes 1 r.context
    ++ leBytes 1 r.level ++ leBytes 2 r.tilesValid ++ leBytes 2 r.tilesIdle ++ leBytes 4 r.loadNs ++ leBytes 4 0
    ++ leBytes 8 r.digest.toNat

/-- A load report's record (Table 6-7). -/
def reportRec (r : LoadRec) : List Byte :=
  leBytes 1 r.action ++ leBytes 1 r.table ++ leBytes 2 r.field ++ leBytes 1 r.width ++ leBytes 1 r.slot
    ++ leBytes 2 r.tile ++ leBytes 4 r.entry ++ leBytes 4 r.count ++ leBytes 8 r.original ++ leBytes 8 r.used

/-- What the checks of Table 12-5 look at in READ_LOAD_REPORT. -/
def readLoadReportSpec (p : Pkt) : CmdSpec :=
  let c := fld p 0x10 1
  let len := fld p 0x20 4
  { code := 0x32, service := false, need := .one, anyState := false, hst := rdyFrz, named := named p
    fields := [(0x10, 1, full 1), (0x18, 8, full 8), (0x20, 4, full 4)], lens := [(0x20, decide (32 ≤ len))]
    ranges := [(0x10, decide (c ≤ 3))], bufs := [(0x18, fld p 0x18 8, len)] }

/-- READ_LOAD_REPORT (R193): the head, then as many whole records as fit. -/
def execReadLoadReport (p : Pkt) (s : State) : Host.Outcome State Fault Refusal :=
  let c := fld p 0x10 1
  let len := fld p 0x20 4
  done (submit s p (readLoadReportSpec p)
    (fun id s =>
      let r := (mget {} (hearthOf s (named1 p)).ctxs c).report
      let l := r.recs.take ((len - 32) / 32)
      reportAndFinish s id (fld p 0x18 8) (reportHead { r with context := c } ++ l.flatMap reportRec) .done 0 l.length 0))

end Sys2Proof.Machine
end

