-- ==== Sys2Proof/Machine/Links.lean ====
section
/-! DEFINITION. Flue links: what leaves a port tile (R277, R279, R292 to R298, R314, R315), link words (R276, R280),
resynchronisation (R278), lanes (R281), training (R282), the flue reference (R472). -/

namespace Sys2Proof.Machine

/-! ### Hearths on the flue -/

/-- A hearth whose port tiles take cells for it: READY to FROZEN. -/
def flueOn (hh : Hearth) : Bool := readyFrozen hh.st

/-- A hearth whose port tiles forward transit cells: a FAULTED one does, a RETIRED or resetting one does not (R318,
R392). -/
def flueForwards (hh : Hearth) : Bool := flueOn hh || hh.st == .faulted

/-- The key of the cells that loop back in a port tile among those on links (R318). -/
def loopTile : Nat := 14

/-- The far end of on-package port tile t of hearth h. -/
def farPort (s : State) (h t : Nat) : FPort := fport (hearthOf s (farHearth h t)) (linkTile (farHearth h t) h)

/-- Cells that left by port tile t are on its link no more. -/
def clearLink (hh : Hearth) (t : Nat) : Hearth := { hh with sent := hh.sent.filter (fun x => x.port != t) }

/-! ### Leaving a port tile -/

/-- A cell that loops back: it is addressed to its own module and hearth (R318). -/
def loops (h : Nat) (hh : Hearth) (q : QCell) : Bool :=
  !q.transit && q.port.isNone && q.dstModule == hh.moduleId.toNat && q.dstHearth == h

/-- The schedule lets an endpoint's bulk cell go (R315); a cell of another endpoint has none. -/
def slotOpen (hh : Hearth) (q : QCell) : Bool :=
  match q.sched with
  | none => true
  | some k => match (epAt hh k).schedLeft with | some n => n != 0 | none => false

/-- What a queue's cell does when its turn comes (R292, R294, R298). -/
inductive Turn where
  | place | wait | opens | conflict
  deriving DecidableEq, Repr

/-- The turn of a waiting cell. -/
def turnFor (hh : Hearth) (q : QCell) : Turn :=
  if !q.seqd then .place else
  let p := peerOf hh q.ctx
  if q.ctx < 262144 ∧ !ctxFree p q.dstModule q.dstHearth then .conflict
  else if p.st = .closed ∨ p.st = .lost then .opens
  else if p.st ≠ .open then .wait
  else if slotOpen hh q ∧ (p.send - p.ack).toNat < 4096 ∧ 0 < hh.poolFree then .place else .wait

/-- The first cell of a queue that has a turn, with its index: a cell that waits holds back the later cells of its
context from the same endpoint. -/
def firstTurn (hh : Hearth) : List QCell → Nat → List (Nat × Option Nat) → Option (Nat × QCell × Turn)
  | [], _, _ => none
  | q :: rest, i, held =>
    if q.seqd ∧ held.contains (q.ctx, q.ep) then firstTurn hh rest (i + 1) held
    else match turnFor hh q with
      | .wait => firstTurn hh rest (i + 1) ((q.ctx, q.ep) :: held)
      | t => some (i, q, t)

/-- The peer that a context concerns, as DETAIL: module, hearth, channel (log 28). -/
def peerDetail (m d c : Nat) : BitVec 2048 := detailOf [(0, 4, m), (4, 1, d), (5, 1, c)]

/-- R292: the cell is not sent; the step that owns its endpoint ends with ABORTED_FAULT and a CONTEXT_CONFLICT record. -/
def contextConflict (e : Env) (hh : Hearth) (q : QCell) : Hearth :=
  let p := peerOf hh q.ctx
  let own : Option Step := q.ep.bind (fun k => (hh.steps.filter (fun st =>
      st.state != .pending && st.state != .held && st.state != .ended)).find? (fun st =>
        (secEps hh st.ctx st.ran).any (fun x => x.1 == k)))
  let det := detailOf [(0, 4, q.dstModule), (4, 1, q.dstHearth), (8, 4, p.peerModule), (12, 1, p.peerHearth)]
  let hh := logStep e hh own 0 0x0061 (ctxPath q.ctx) 0 det
  match own with
  | some st => endStepH e hh st.id .abortedFault
  | none => hh

/-- A cell whose CRC follows a change of its payload by a port tile: a bad CRC stays bad. DEDUCED, log 46. -/
def recrc (c c' : Cell) : Cell := { c' with crc := c.crc ^^^ cellCrc c none ^^^ cellCrc c' none }

/-- A payload with n bytes at offset lo replaced. -/
def setPay (c : Cell) (lo n v : Nat) : BitVec 256 :=
  BitVec.ofNat 256 (c.payload.toNat - pay c lo n * 2 ^ (8 * lo) + v % 2 ^ (8 * n) * 2 ^ (8 * lo))

/-- A TIME cell as it leaves a port: T1 or T3 stamped at its source, its residence added in transit (R327). -/
def stampTime (now : Nat) (q : QCell) : Cell :=
  let c := q.cell
  let hd := hdrOf c
  if hd.type ≠ 9 then c
  else if q.transit then
    let lo := if hd.net = 0 then 24 else 28
    recrc c { c with payload := setPay c lo 4 (pay c lo 4 + 16 * (now - q.since)) }
  else recrc c { c with payload := setPay c (if hd.net = 0 then 0 else 16) 8 (16 * now) }

/-- The cell as it goes on the link: a sequenced cell takes its number and epoch, and a copy stays in the pool (R298). -/
def numbered (hh : Hearth) (q : QCell) : Hearth × Cell :=
  if !q.seqd then (hh, q.cell) else
  let p := peerOf hh q.ctx
  let c := { q.cell with hdr := BitVec.ofNat 96 (q.cell.hdr.toNat + p.send.toNat * 2 ^ 7 + p.txEpoch % 8 * 16) }
  let c := { c with crc := cellCrc c q.tokenSrc }
  let hh := putPeer hh q.ctx { p with send := p.send + 1 }
  let hh := match q.sched with
    | some k => updEp hh k (fun x => { x with schedLeft := x.schedLeft.map (· - 1) })
    | none => hh
  ({ hh with pool := hh.pool ++ [{ ctx := q.ctx, seq := p.send, cell := c, ep := q.ep }], poolFree := hh.poolFree - 1 }, c)

/-- Put a cell on the link of port tile t. -/
def place (e : Env) (hh : Hearth) (t c : Nat) (q : QCell) : Hearth :=
  let (hh, cell) := numbered hh q
  let cell := stampTime e.now { q with cell := cell }
  let lp := loops e.h hh q
  let hh := if lp then hh else
    putPort hh t { fport hh t with txCredits := mupd 0 (fport hh t).txCredits c (· - 1) }
  { hh with sent := hh.sent ++ [{ port := if lp then loopTile else t, chan := c, cell := cell, foreign := q.transit && !q.own }] }

/-- Take entry i of an injection queue. -/
def dropInj (hh : Hearth) (t c i : Nat) : Hearth :=
  let p := fport hh t
  putPort hh t { p with inj := mput [] p.inj c ((mget [] p.inj c).eraseIdx i) }

/-- The injection queue's turn. -/
def injTurn (e : Env) (hh : Hearth) (t c : Nat) (x : Nat × QCell × Turn) : Hearth :=
  let (i, q, turn) := x
  match turn with
  | .wait => hh
  | .opens => openCtx e.h hh q.ctx q.dstModule q.dstHearth
  | .conflict => contextConflict e (dropInj hh t c i) q
  | .place =>
    let hh := place e (dropInj hh t c i) t c q
    putPort hh t { fport hh t with altTransit := mput false (fport hh t).altTransit c false }

/-- The link of a port tile takes cells on a channel: UP, not draining, no resync report still to send, a credit held (R277,
R278, R282). -/
def linkTakes (hh : Hearth) (t c : Nat) : Bool :=
  let p := fport hh t
  p.st == .up && !p.draining && p.reports.isEmpty && decide (0 < mget 0 p.txCredits c)

/-- The injection queue's next cell, if any may go: link cells need the link; a cell that only opens its context, or meets a
conflict, does not. -/
def injNext (h : Nat) (hh : Hearth) (t c : Nat) : Option (Nat × QCell × Turn) :=
  if !flueOn hh then none else
  match firstTurn hh (mget [] (fport hh t).inj c) 0 [] with
  | some (i, q, turn) =>
    if turn = .place ∧ !loops h hh q ∧ !linkTakes hh t c then none else some (i, q, turn)
  | none => none

/-- A channel of a port tile has a cell to place. -/
def chanReady (h : Nat) (hh : Hearth) (t c : Nat) : Bool :=
  (flueForwards hh && linkTakes hh t c && mget [] (fport hh t).transit c != []) || (injNext h hh t c).isSome

/-- Channels 1 and 3 go before 0 and 2, and the bulk channels alternate (R279). -/
def chanTurn (h : Nat) (hh : Hearth) (t c : Nat) : Bool :=
  c % 2 == 1 || (!chanReady h hh t 1 && !chanReady h hh t 3 &&
    !(chanReady h hh t (2 - c) && (fport hh t).altBulk != (c == 2)))

/-- CELL_INJECT: the next cell of channel c leaves port tile t: transit and injection alternate (R279); a sequenced cell needs
its context OPEN, room in its window and in the pool, and its schedule (R294, R298, R315). -/
def execCellInject (h t c : Nat) (s : State) : Host.Outcome State Fault Refusal :=
  hearthEvent s h (fun e hh =>
    if 14 ≤ t ∨ 4 ≤ c ∨ !chanTurn h hh t c then hh else
    let p := fport hh t
    let inj := injNext h hh t c
    let hh' := if c % 2 = 0 then putPort hh t { p with altBulk := c == 0 } else hh
    match mget [] p.transit c with
    | q :: rest =>
      if flueForwards hh ∧ linkTakes hh t c ∧ (inj.isNone ∨ !mget false p.altTransit c) then
        let p' := fport hh' t
        let hh := putPort hh' t { p' with transit := mput [] p'.transit c rest, altTransit := mput false p'.altTransit c true }
        place e (freeSlot hh q.port c) t c q
      else match inj with
        | some x => injTurn e hh' t c x
        | none => hh
    | [] => match inj with
      | some x => injTurn e hh' t c x
      | none => hh)

/-! ### Codewords and frames (R273, R274) -/

/-- The 5,140 message bits of a codeword: the link word in bits 0 to 19, then 640 bytes of the cell stream. -/
def codewordMessage (word : BitVec 20) (stream : List Byte) : Nat := word.toNat + ofLE (stream.take 640) * 2 ^ 20

/-- The link word of a message. -/
def messageWord (m : Nat) : BitVec 20 := BitVec.ofNat 20 (nbits m 19 0)

/-- The bytes of the cell stream of a message. -/
def messageStream (m : Nat) : List Byte := leBytes 640 (nbits m 5139 20)

/-- The 544 symbols of a codeword: 514 message symbols of 10 bits, then 30 check symbols (log 134). -/
def codeword (m : Nat) : List (BitVec 10) :=
  (List.range 514).map (fun i => BitVec.ofNat 10 (nbits m (10 * i + 9) (10 * i))) ++ (List.range 30).map (Config.rsCheck m)

/-- The working lane that carries symbol i: round robin over the lanes of a mask. -/
def symbolLane (lanes : BitVec 4) (i : Nat) : Option Nat :=
  let l := setBits 4 lanes.toNat
  l[i % max 1 l.length]?

/-- One bit into the register of the CRC-12, polynomial 0x80F. -/
def crc12Bit (c : BitVec 12) (b : Bool) : BitVec 12 := if c.getLsbD 11 != b then (c <<< 1) ^^^ 0x80F else c <<< 1

/-- The CRC-12 of a frame: over its 640 bytes and then the 20 bits of its link word (R274; log 134). -/
def frameCrc (stream : List Byte) (word : BitVec 20) : BitVec 12 :=
  let order (n x : Nat) : List Bool := (List.range n).map (fun i => nbit x (if Config.crc12Low then i else n - 1 - i))
  (stream.flatMap (fun b => order 8 b.toNat) ++ order 20 word.toNat).foldl crc12Bit Config.crc12Init

/-- The 32-bit word that follows the 640 bytes of a frame: the link word, and the CRC-12 in bits 31 to 20. -/
def frameWord (stream : List Byte) (word : BitVec 20) : W32 :=
  BitVec.ofNat 32 (word.toNat + (frameCrc stream word).toNat * 2 ^ 20)

/-- A frame passes its check. -/
def frameOk (stream : List Byte) (w : W32) : Bool := w == frameWord stream (w.setWidth 20)

/-! ### Link words (Table 9-2) -/

/-- LANES of a link word reach LANES_FAR. -/
def seeLanes (hh : Hearth) (t w : Nat) : Hearth :=
  putPort hh t { fport hh t with lanesFar := if t < 6 then BitVec.ofNat 4 (nbits w 9 6) else 15 }

/-- The free slots of a channel that port tile t reports, absolute: what it still owes is in them; on an on-package link cells of
the other hearth that are still on their way have theirs (R278). -/
def freeSlots (s : State) (h t c : Nat) : Nat :=
  rxSlots t c - heldSlots (hearthOf s h) t c -
    (if 6 ≤ t then (onLink (hearthOf s (farHearth h t)) (linkTile (farHearth h t) h) c).length else 0)

/-- The link word that port tile t of hearth h sends next: the next channel of a resync report, or the credits of the next
CHANNEL in turn, with a resync request where one is due, else an equalisation request of an off-package port (R276, R278,
R280). -/
def nextWord (s : State) (h t : Nat) : BitVec 20 :=
  let p := fport (hearthOf s h) t
  match p.reports with
  | c :: _ => BitVec.ofNat 20 (c * 2 ^ 18 + freeSlots s h t c * 64 + 14)
  | [] =>
    let ask := if p.st = .resync ∧ !p.asked then 13 else if t < 6 then (Config.eqAsk h t p.words).toNat else 0
    BitVec.ofNat 20 (p.chan * 2 ^ 18 + min 255 (mget 0 p.owed p.chan) * 2 ^ 10 + (if t < 6 then p.lanes.toNat else 15) * 64 + ask)

/-- Port tile t of hearth h sends its next link word: the credits in it are owed no more, and the turn passes on. -/
def sendWord (s : State) (h t : Nat) : State :=
  let w := nextWord s h t
  updH s h (fun hh =>
    let p := fport hh t
    let p := { p with word := w, words := p.words + 1 }
    putPort hh t (match p.reports with
      | c :: rest => { p with reports := rest, owed := mput 0 p.owed c 0 }
      | [] => { p with
          chan := (p.chan + 1) % 4, owed := mupd 0 p.owed p.chan (fun n => n - min 255 n)
          asked := p.asked || p.st == .resync }))

/-- A link word comes in at port tile t of hearth h. On an on-package link it is the next word of the far port, which has then
sent it. The far end of an off-package port is outside the model, so any word may come; both directions run at one rate, so
the port sends a word for each that comes (log 135). None where no such word can come. -/
def takeWord (s : State) (h t : Nat) (word : BitVec 20) : Option State :=
  if 14 ≤ t ∨ !linkUp (hearthOf s h) t then none
  else if t < 6 then some (sendWord s h t)
  else if word = nextWord s (farHearth h t) (linkTile (farHearth h t) h) then
    some (sendWord s (farHearth h t) (linkTile (farHearth h t) h))
  else none

/-- Cells whose slots have come back have left an off-package link. -/
def leaveLink (hh : Hearth) (t c : Nat) : Nat → Hearth
  | 0 => hh
  | n + 1 => match hh.sent.findIdx? (fun x => x.port == t && x.chan == c) with
    | none => hh
    | some i => leaveLink { hh with sent := hh.sent.eraseIdx i } t c n

/-- The sender's credits of a channel grow by n. -/
def addCredits (hh : Hearth) (t c n : Nat) : Hearth :=
  let hh := putPort hh t { fport hh t with txCredits := mupd 0 (fport hh t).txCredits c (· + n) }
  if t < 6 then leaveLink hh t c n else hh

/-- LINK_CREDIT_RETURN: the sender's credits for CHANNEL grow by CREDITS (R276, R277), never above the buffer's size. -/
def execLinkCreditReturn (h t : Nat) (word : BitVec 20) (s : State) : Host.Outcome State Fault Refusal :=
  let w := word.toNat
  let c := nbits w 19 18
  let n := nbits w 17 10
  if (nbits w 3 2 = 3 ∧ nbits w 1 0 = 2) ∨ rxSlots t c < mget 0 (fport (hearthOf s h) t).txCredits c + n then nextOf s
  else match takeWord s h t word with
    | none => nextOf s
    | some s => done (updH s h (fun hh => seeLanes (addCredits hh t c n) t w))

/-- EQ_REQUEST: one tap of one lane of an off-package transmitter moves by one step within its limits (R280). -/
def execEqRequest (h t : Nat) (word : BitVec 20) (s : State) : Host.Outcome State Fault Refusal :=
  let w := word.toNat
  let lane := nbits w 5 4
  let tap := nbits w 3 2
  let up := nbits w 1 0 == 1
  let lim := Config.tapLimit h t lane tap
  if 6 ≤ t ∨ !(linkUp (hearthOf s h) t || (fport (hearthOf s h) t).st == .training) then nextOf s else
  done (updH (sendWord s h t) h (fun hh =>
    let hh := seeLanes hh t w
    if tap = 3 ∨ !(nbits w 1 0 == 1 || nbits w 1 0 == 2) then hh else
    let p := fport hh t
    let v := mget 0 p.taps (4 * lane + tap) + (if up then 1 else -1)
    if lim.1 ≤ v ∧ v ≤ lim.2 then putPort hh t { p with taps := mput 0 p.taps (4 * lane + tap) v } else hh))

/-! ### Resynchronisation (R278) -/

/-- The first n cells on the link from port tile t are lost. -/
def loseCells (hh : Hearth) (t : Nat) : Nat → Hearth
  | 0 => hh
  | n + 1 => match hh.sent.findIdx? (fun x => x.port == t) with
    | none => hh
    | some i => loseCells { hh with sent := hh.sent.eraseIdx i } t n

/-- A port tile starts a resynchronisation, having dropped n cells. -/
def startResync (hh : Hearth) (t n : Nat) : Hearth :=
  let p := fport hh t
  putPort hh t { p with
    st := .resync, dropped := sat 16 (p.dropped + n), resyncs := sat 16 (p.resyncs + 1), report := [], asked := false }

/-- CODEWORD_UNCORRECTABLE: the cells of the damaged codeword or frame are dropped and counted (step 1), and the receiver will
ask for a resynchronisation (step 2). At most 15 cells touch 640 bytes. -/
def execCodewordUncorrectable (h t cells : Nat) (s : State) : Host.Outcome State Fault Refusal :=
  if 14 ≤ t ∨ !linkUp (hearthOf s h) t ∨ 15 < cells then nextOf s else
  if t < 6 then done (updH s h (fun hh => startResync hh t cells))
  else
    let f := farHearth h t
    let u := linkTile f h
    let n := min cells ((hearthOf s f).sent.filter (fun x => x.port == u)).length
    done (updH (updH s f (fun hh => loseCells hh u n)) h (fun hh => startResync hh t n))

/-- RESYNC_REQUEST: the far sender stops placing cells, and has a report to send for each channel (step 3). The request of an
on-package link is the next word of a far port in RESYNC. -/
def execResyncRequest (h t : Nat) (s : State) : Host.Outcome State Fault Refusal :=
  let far := fport (hearthOf s (farHearth h t)) (linkTile (farHearth h t) h)
  if 14 ≤ t ∨ !linkUp (hearthOf s h) t ∨ (6 ≤ t ∧ (far.st ≠ .resync ∨ far.asked ∨ far.reports ≠ [])) then nextOf s else
  let s := if t < 6 then sendWord s h t else sendWord s (farHearth h t) (linkTile (farHearth h t) h)
  done (updH s h (fun hh => putPort hh t { fport hh t with reports := [0, 1, 2, 3] }))

/-- FREE becomes the credit count of a channel, and the link resumes when every channel is reported (step 4). -/
def takeReport (hh : Hearth) (t c free : Nat) : Hearth :=
  let p := fport hh t
  let seen := if p.report.contains c then p.report else p.report ++ [c]
  let gone := (onLink hh t c).length - (rxSlots t c - free)
  let hh := if t < 6 then leaveLink hh t c gone else hh
  putPort hh t { p with
    txCredits := mput 0 p.txCredits c free, report := if seen.length = 4 then [] else seen
    st := if seen.length = 4 then .up else .resync }

/-- RESYNC_REPORT (R278 step 4). -/
def execResyncReport (h t : Nat) (word : BitVec 20) (s : State) : Host.Outcome State Fault Refusal :=
  let w := word.toNat
  let c := nbits w 19 18
  let free := nbits w 17 6
  if 14 ≤ t ∨ (fport (hearthOf s h) t).st ≠ .resync ∨ nbits w 3 0 ≠ 14 ∨ rxSlots t c < free then nextOf s
  else match takeWord s h t word with
    | none => nextOf s
    | some s => done (updH s h (fun hh => takeReport hh t c free))

/-! ### Lanes (R281) -/

/-- A port with no working lane is retired (R281). -/
def laneless (hh : Hearth) (t : Nat) : Hearth :=
  if (fport hh t).lanes ≠ 0 ∨ !linkUp hh t ∨ hh.portsOut.contains t ∨ hh.deferred.any (fun d => d.sels == [UnitSel.port t]) then hh
  else { hh with deferred := hh.deferred ++ [{ sels := [.port t], path := keyPath (selKey (.port t)), origin := 2 }] }

/-- LANE_EVENT: an off-package lane leaves service for retraining; one event in its bucket (R281, R423). -/
def execLaneEvent (h t lane cause margin : Nat) (s : State) : Host.Outcome State Fault Refusal :=
  hearthEvent s h (fun e hh =>
    let p := fport hh t
    if 6 ≤ t ∨ !linkUp hh t ∨ !nbit p.lanes.toNat lane ∨ 4 ≤ lane then hh else
    let hh := putPort hh t { p with
      lanes := p.lanes &&& BitVec.ofNat 4 (15 - 2 ^ lane), training := p.training ||| BitVec.ofNat 4 (2 ^ lane) }
    let key := bucketKey 6 (4 * t + lane)
    laneless (eventRec e hh key { cls := 0x0032, path := BitVec.ofNat 64 (keyPath key)
                                  detail := detailOf [(0, 8, cause), (8, 8, margin)] }).1 t)

/-- LANE_RETRAIN_COMPLETE: the lane returns, or its fault is permanent (R281, R425). -/
def execLaneRetrainComplete (h t lane : Nat) (ok : Bool) (s : State) : Host.Outcome State Fault Refusal :=
  hearthEvent s h (fun _ hh =>
    let p := fport hh t
    if 6 ≤ t ∨ 4 ≤ lane ∨ !nbit p.training.toNat lane then hh else
    let m := BitVec.ofNat 4 (2 ^ lane)
    let p := { p with training := p.training &&& BitVec.ofNat 4 (15 - 2 ^ lane) }
    if ok then
      (if hh.lanesOut.contains (4 * t + lane) ∨ hh.portsOut.contains t then putPort hh t p
       else putPort hh t { p with lanes := p.lanes ||| m })
    else permanent (putPort hh t p) (bucketKey 6 (4 * t + lane)) 0 0x0032 (hh.ashNext - 1))

/-- LANE_CHANGE: the ends agree on the lanes, the change takes effect, and a resynchronisation follows (R281). -/
def execLaneChange (h t : Nat) (lanesFar : BitVec 4) (s : State) : Host.Outcome State Fault Refusal :=
  hearthEvent s h (fun _ hh =>
    let p := fport hh t
    if 6 ≤ t ∨ !linkUp hh t ∨ lanesFar ≠ p.lanes then hh
    else startResync (putPort hh t { p with lanesFar := lanesFar }) t 0)

/-! ### Training (R282) -/

/-- Lanes in service of an off-package port; an on-package link has no lanes to retire. -/
def lanesIn (hh : Hearth) (t : Nat) : Nat :=
  if 6 ≤ t then 15 else maskOf ((List.range 4).filter (fun l => !hh.lanesOut.contains (4 * t + l)))

/-- What is left of a link's earlier life when it comes up: cells on it, slots held and credits owed. -/
def freshLink (hh : Hearth) (t : Nat) : Hearth :=
  { hh with
    ports := mmap {} (fun _ p => { p with transit := mmap [] (fun _ l => l.map (fun q =>
      if q.port = some t then { q with port := none } else q)) p.transit }) hh.ports }

/-- An end of a link starts anew: full credits, nothing owed, no cell on the link (R277). -/
def anew (hh : Hearth) (t : Nat) : Hearth :=
  let hh := clearLink (freshLink hh t) t
  putPort hh t { fport hh t with
    txCredits := fullCredits t, owed := [], report := [], reports := [], asked := false, chan := 0, lost := false }

/-- LINK_TRAINING_COMPLETE: the link is UP on its working lanes, with full credits (R277, R282). The other end of an on-package
link that is UP already starts anew with it. -/
def execLinkTrainingComplete (h t : Nat) (lanes lanesFar : BitVec 4) (s : State) : Host.Outcome State Fault Refusal :=
  let far := farHearth h t
  let fst := (farPort s h t).st
  let ls := if 6 ≤ t then 15 else lanes.toNat
  let hh := hearthOf s h
  if 14 ≤ t ∨ (fport hh t).st ≠ .training ∨ !portIn hh t ∨ s.power.flueRef = 2 ∨ ls = 0 ∨ ls &&& lanesIn hh t ≠ ls
      ∨ 6 ≤ t ∧ fst ≠ .training ∧ !linkUp (hearthOf s far) (linkTile far h) then nextOf s
  else
    let s := if 6 ≤ t ∧ fst ≠ .training then
        updH s far (fun hh =>
          let hh := anew hh (linkTile far h)
          putPort hh (linkTile far h) { fport hh (linkTile far h) with st := .up })
      else s
    done (updH s h (fun hh =>
      let hh := anew hh t
      putPort hh t { fport hh t with
        st := .up, lanes := BitVec.ofNat 4 ls, lanesFar := if 6 ≤ t then 15 else lanesFar, training := 0 }))

/-- LINK_TRAINING_TIMEOUT: a link that has not reached UP within 200 ms returns to DOWN, and FLUE_UP reports it. -/
def execLinkTrainingTimeout (h t : Nat) (s : State) : Host.Outcome State Fault Refusal :=
  hearthEvent s h (fun _ hh =>
    if t < 14 ∧ (fport hh t).st = .training then putPort hh t { fport hh t with st := .down } else hh)

/-- A link goes DOWN: cells still on it, in both directions, are dropped, and their sources resend them by other paths (R282,
R298). -/
def linkDown (s : State) (h t : Nat) : State :=
  let s := updH s h (fun hh => clearLink (portLeaves h hh t .down) t)
  if 6 ≤ t then updH s (farHearth h t) (fun hh => clearLink hh (linkTile (farHearth h t) h)) else s

/-- FLUE_DOWN_DRAIN_END: the link's buffers are empty or 1 ms has passed: the link is DOWN. -/
def execFlueDownDrainEnd (h t : Nat) (s : State) : Host.Outcome State Fault Refusal :=
  if t < 14 ∧ (fport (hearthOf s h) t).draining then done (linkDown s h t) else nextOf s

/-! ### The flue reference (R472) -/

/-- FLUE_REFCLK_LOSS: each hearth's flue PLL holds its frequency. -/
def execFlueRefclkLoss (s : State) : Host.Outcome State Fault Refusal :=
  nextOf (if s.power.mantelOn ∧ s.power.flueRef = 0 then { s with power := { s.power with flueRef := 1 } } else s)

/-- A link that is up or trains. -/
def linkAlive (hh : Hearth) (t : Nat) : Bool := linkUp hh t || (fport hh t).st == .training

/-- FLUE_REFCLK_HOLDOVER_EXPIRY: after 10 ms every flue link of the module goes DOWN, until FLUE_UP. -/
def execFlueRefclkHoldoverExpiry (s : State) : Host.Outcome State Fault Refusal :=
  if s.power.flueRef ≠ 1 then nextOf s else
  done (allHearths.foldl (fun s h =>
    ((List.range 14).filter (linkAlive (hearthOf s h))).foldl (fun s t => linkDown s h t) s)
    { s with power := { s.power with flueRef := 2 } })

/-- FLUE_REFCLK_RETURN: the reference is back; links that went DOWN stay DOWN until FLUE_UP. -/
def execFlueRefclkReturn (s : State) : Host.Outcome State Fault Refusal :=
  nextOf { s with power := { s.power with flueRef := 0 } }

/-! ### The damper (R314, Table 9-15) -/

/-- Cells of an injection queue below which the damper leaves a level: 40, 65 and 80 % of 4,096. -/
def damperLeave (level : Nat) : Nat :=
  match level with | 1 => 1639 | 2 => 2663 | 3 => 3277 | _ => 0

/-- DAMPER_LEVEL_FALL: occupancy has stayed below the lower threshold of the current level: the level falls by one. -/
def execDamperLevelFall (h t : Nat) (s : State) : Host.Outcome State Fault Refusal :=
  hearthEvent s h (fun _ hh =>
    let p := fport hh t
    if t < 14 ∧ 0 < p.damper ∧ injCount p < damperLeave p.damper then putPort hh t { p with damper := p.damper - 1 }
    else hh)

end Sys2Proof.Machine
end

