-- ==== Sys2Proof/Machine/Cells.lean ====
section
/-! DEFINITION. Cells that arrive: taking them off the link (R277, R284, R286), acknowledgement and opening (R294 to R299),
the services of a hearth (R301, R308, R309, R323, R324) and its endpoints (R305 to R307, R310, R325). -/

namespace Sys2Proof.Machine

/-! ### Taking a cell off its link -/

/-- The source of a TOKEN cell, as the RECEIVE entry gives it (R287). -/
def tokenPeer (hh : Hearth) (k : Nat) : Option EpD :=
  match anyEp hh k with
  | some (_, _, d) => if d.kind = 2 then some d else none
  | none => none

/-- A cell's CRC is right (R284, R287). -/
def crcOk (hh : Hearth) (c : Cell) : Bool :=
  let hd := hdrOf c
  if hd.type = 12 then match tokenPeer hh hd.dstEp with
    | some d => c.crc == cellCrc c (some (identityOf d.peerModule d.peerHearth d.peerEp))
    | none => false
  else c.crc == cellCrc c none

/-- A cell is for this hearth: link-local, or for its module and hearth (R300, R318); one that R286 calls malformed for its
DST_HEARTH ends at the module it is for. -/
def addressedHere (h : Nat) (hh : Hearth) (hd : Hdr) : Bool :=
  hd.dstHearth == 15 ||
    (hh.idValid && hd.dstModule == hh.moduleId.toNat && (hd.dstHearth == h || decide (9 ≤ hd.dstHearth)))

/-- The row of a cell: its type; 16 + KIND for ACK, 32 + NETWORK for TIME, 48 + KIND for NOTICE. -/
def rowCode (c : Cell) : Nat :=
  let hd := hdrOf c
  if hd.type = 3 then 16 + nbits (pay c 0 8) 63 60
  else if hd.type = 9 then 32 + hd.net
  else if hd.type = 13 then 48 + nbits (pay c 0 8) 63 60
  else hd.type

/-- Remove the first cell of a channel from a link. -/
def unsend (hh : Hearth) (t c : Nat) : Hearth :=
  match hh.sent.findIdx? (fun x => x.port == t && x.chan == c) with
  | some i => { hh with sent := hh.sent.eraseIdx i }
  | none => hh

/-- A cell comes in at port tile t: off-package from outside the module, on-package from the far hearth of the link, or looped
back. None where no such cell can come; an idle cell is not counted, buffered or forwarded (R275). -/
def takeOff (s : State) (h t : Nat) (c : Cell) : Option State :=
  let hh := hearthOf s h
  let ch := chanOf (hdrOf c)
  let f := farHearth h t
  let u := linkTile f h
  if 9 ≤ h ∨ 14 ≤ t ∨ !present hh.st ∨ isIdle c then none
  else if t = 6 ∧ (onLink hh loopTile ch).head?.map (·.cell) = some c then some (putH s h (unsend hh loopTile ch))
  else if (fport hh t).st ≠ .up ∨ rxSlots t ch ≤ heldSlots hh t ch + mget 0 (fport hh t).owed ch then none
  else if t < 6 then some (updH s h (fun hh => freeSlot hh (some t) ch))
  else if (onLink (hearthOf s f) u ch).head?.map (·.cell) = some c then
    some (updH (updH s f (fun far => unsend far u ch)) h (fun hh => freeSlot hh (some t) ch))
  else none

/-- The next cell that comes in at a port tile on a channel is of another module: every cell that comes off-package, and of the
cells of the far hearth of an on-package link those that it forwards (R317). -/
def comesForeign (s : State) (h t ch : Nat) : Bool :=
  decide (t < 6) ||
    (match (onLink (hearthOf s (farHearth h t)) (linkTile (farHearth h t) h) ch).head? with
     | some x => x.foreign
     | none => true)

/-- Count a discarded cell. -/
def discard (s : State) (h : Nat) : State := updH s h (fun hh => { hh with discards := hh.discards + 1 })

/-- The arrival of a cell of a row at a hearth it is for: none where the event is not due; otherwise the state without the cell
on its link, and whether the cell is taken. A cell with a bad CRC or a malformed one is discarded and counted with no reply
(R284, R286); a hearth that is not in READY to FROZEN takes none. -/
def arrive (row : Nat) (s : State) (h t : Nat) (c : Cell) : Option (State × Bool) :=
  match takeOff s h t c with
  | none => none
  | some s' =>
    let hh := hearthOf s' h
    if !addressedHere h hh (hdrOf c) then none
    else if !flueOn hh then some (s', false)
    else if !crcOk hh c || malformed c then some (discard s' h, false)
    else if rowCode c ≠ row then none
    else some (s', true)

/-- The context of an arriving sequenced cell, with its peer (R292, R300). -/
def cellCtx (hh : Hearth) (t : Nat) (c : Cell) : Nat × Nat × Nat :=
  let hd := hdrOf c
  let ch := chanOf hd
  if hd.dstHearth = 15 then (linkCtx t ch, 0, 15)
  else if hd.type = 12 then
    match tokenPeer hh hd.dstEp with
    | some d => (ctxIndex d.peerModule d.peerHearth ch, d.peerModule, d.peerHearth)
    | none => (0, 0, 15)
  else (ctxIndex hd.srcModule hd.srcHearth ch, hd.srcModule, hd.srcHearth)

/-- Who is answered: the source hearth, or the link of a link-local cell. -/
def replyDest (t : Nat) (hd : Hdr) : Dest := if hd.dstHearth = 15 then .link t else .peer hd.srcModule hd.srcHearth

/-! ### Losing a peer (R299) -/

/-- A step of the hearth that has begun and has an endpoint whose peer is that hearth. -/
def dependsOn (hh : Hearth) (m d : Nat) (st : Step) : Bool :=
  st.state != .pending && st.state != .held && st.state != .ended &&
    (secEps hh st.ctx st.ran).any (fun x => (epOf x.2.body).peerModule == m && (epOf x.2.body).peerHearth == d)

/-- A context is LOST: its cells are freed, a PEER_LOST record, and the steps that depend on the peer end. -/
def loseCtx (e : Env) (hh : Hearth) (i : Nat) : Hearth :=
  let p := peerOf hh i
  let hh := putPeer hh i { p with st := .lost, ack := p.send }
  let hh := dropResends (freePool hh (fun x => x.ctx == i)) i
  let hh := logOf e hh 0x0060 (ctxPath i) 0 (peerDetail p.peerModule p.peerHearth (i % 4))
  if 262144 ≤ i then hh else
  (hh.steps.filter (dependsOn hh p.peerModule p.peerHearth)).foldl (fun hh st => endStepH e hh st.id .abortedFault) hh

/-- A child's part of a tree command ends with a status; a bad end of a child's launch makes the manager abort the workload
through the tree (R324, R351). -/
def childEnded (s : State) (id i : Nat) (st : Status) (lost : Bool) : State :=
  let s := updStarted s id (fun x => { x with
    children := x.children.filter (· != i), childWorst := worse x.childWorst st
    childBad := x.childBad + (if st = .done then 0 else 1), lost := x.lost || lost })
  let bad := st != .done && st != .doneWithReport && st != .preempted
  let s := match startedOf s id with
    | some x => if bad ∧ x.org.opcode = 0x40 then abortTree s x.workload else s
    | none => s
  tryPost s id none

/-- The children of a tree command at one peer are lost: each counts as a completion with ABORTED_FAULT (R299, R410). -/
def loseChildren (s : State) (m d : Nat) : State :=
  s.started.foldl (fun s x => x.children.foldl (fun s i =>
    if (childEntry s i).2 = (m, d) then childEnded s x.id i .abortedFault true else s) s) s

/-- Remote COPY commands of hearth h to a lost peer end with ABORTED_FAULT (log 47). -/
def loseCopies (s : State) (h m d : Nat) : State :=
  s.started.foldl (fun s x => match x.wait with
    | some (.remoteCopy m' left segs) =>
      if m' = m ∧ d = h ∧ left.any (fun y => y.1 == h && y.2 != 0) then
        finish s x.id .abortedFault (((segs.find? (fun y => y.1 == h)).map (·.2.1)).getD 0) 0 0
      else s
    | _ => s) s

/-- The consequences of a lost context for the module (R299). -/
def losePeer (s : State) (h i : Nat) : State :=
  let p := peerOf (hearthOf s h) i
  let s := onHearth s h (fun e hh => loseCtx e hh i)
  if 262144 ≤ i then s else
  let s := if h = s.role.treeHearth then loseChildren s p.peerModule p.peerHearth else s
  loseCopies s h p.peerModule p.peerHearth

/-! ### The memory service (R308, R309) -/

/-- A hearth's key for a writer that is due notices: module and hearth, or the link of link-local cells. -/
def writerKey (t : Nat) (hd : Hdr) : Nat × Nat :=
  if hd.dstHearth = 15 then (2 ^ 18 + t, 15) else (hd.srcModule, hd.srcHearth)

/-- Where notices to a writer go. -/
def writerDest (m d : Nat) : Dest := if 2 ^ 18 ≤ m then .link (m - 2 ^ 18) else .peer m d

/-- One WRITE cell more is performed for a writing endpoint; a notice goes at 64 (R309). -/
def countWrite (h : Nat) (hh : Hearth) (m d ep : Nat) : Hearth :=
  let mine (x : Nat × Nat × Nat × Nat) : Bool := x.1 == m && x.2.1 == d && x.2.2.1 == ep
  let n := ((hh.performed.find? mine).map (·.2.2.2)).getD 0 + 1
  if n = 64 then
    sendNotice h { hh with performed := hh.performed.filter (fun x => !mine x) } (writerDest m d) ep 1 0 0 0 n 0
  else if n = 1 then { hh with performed := hh.performed ++ [(m, d, ep, 1)] }
  else { hh with performed := hh.performed.map (fun x => if mine x then (m, d, ep, n) else x) }

/-- A WRITE: performed and counted, or answered with ACCESS_FAULT. -/
def writeService (h t : Nat) (hh : Hearth) (c : Cell) : Hearth :=
  let hd := hdrOf c
  let a := pay c 0 5
  let n := 4 * (hd.len - 2)
  let (m, d) := writerKey t hd
  if extentAny hh a n then
    countWrite h (outsideWrite hh a (leBytes n (pay c 8 n))) m d hd.srcEp
  else sendNotice h hh (writerDest m d) hd.srcEp 2 0 0 0 0 a

/-- A READ_REPLY cell (Table 9-8). -/
def sendReply (h : Nat) (hh : Hearth) (dst : Dest) (ep tag off : Nat) (fault poison : Bool) (bs : List Byte) : Hearth :=
  sendCell h hh dst 2 1 0 ep (1 + ceilDiv bs.length 4) 0
    (leBytes 4 (tag + off / 4 * 2 ^ 16 + b2n fault * 2 ^ 30 + b2n poison * 2 ^ 31) ++ bs)

/-- One of some bad words lies in [a, a + n). -/
def holdsBad (bad : List (Nat × Bool)) (a n : Nat) : Bool := bad.any (fun b => decide (b.1 < a + n) && decide (a < b.1 + 8))

/-- A READ_REQ: ⌈BYTES ÷ 28⌉ replies in order, each marked where it holds a bad word; one with FAULT for an address that does
not exist (R308). -/
def readService (e : Env) (t : Nat) (hh : Hearth) (c : Cell) : Hearth :=
  let hd := hdrOf c
  let a := pay c 0 5
  let n := pay c 8 2 % 4096 + 1
  let tag := pay c 10 2
  let dst := replyDest t hd
  if !extentAny hh a n then sendReply e.h hh dst hd.srcEp tag 0 true false []
  else
    let bad := badWords (seenAt hh a) a n
    let (hh, bs, _) := outsideRead e hh a n
    (List.range (ceilDiv n 28)).foldl (fun hh i =>
      let part := (bs.drop (28 * i)).take 28
      sendReply e.h hh dst hd.srcEp tag (28 * i) false (holdsBad bad (a + 28 * i) part.length) part) hh

/-! ### Commands and completions (R323, R324, R408) -/

/-- A COMMAND cell: from the parent at the tree hearth, or link-local while ID_VALID is 0; any other is discarded and
counted (R408). -/
def commandCell (s : State) (h t : Nat) (c : Cell) : State :=
  let hd := hdrOf c
  if hd.dstHearth = 15 then
    if (hearthOf s h).idValid then discard s h
    else { s with linkCells := mupd [] s.linkCells (16 * h + t) (· ++ [c.payload]) }
  else if s.role.parent = some (hd.srcModule, hd.srcHearth) ∧ h = s.role.treeHearth then
    { s with cmdCells := mupd [] s.cmdCells h (· ++ [c.payload]) }
  else discard s h

/-- A COMPLETION cell of a child: it ends the child's part of the oldest tree command with its HOST_TAG and opcode; one that is
not DONE is kept as a CHILD_COMPLETION record (R324, R439). -/
def completionCell (s : State) (h : Nat) (c : Cell) : State :=
  let hd := hdrOf c
  let st := codeSt (pay c 6 2)
  let from_ (i : Nat) : Bool := (childEntry s i).2 == (hd.srcModule, hd.srcHearth)
  if h ≠ s.role.treeHearth then s else
  match s.started.find? (fun x => x.org.hostTag.toNat == pay c 0 4 && x.org.opcode == pay c 4 2 && x.children.any from_) with
  | none => s
  | some x => match x.children.find? from_ with
    | none => s
    | some i =>
      let s := if st = .done then s else onHearth s h (fun e hh =>
        logOf e hh 0x0070 (pathOf 0 0 0 0 0 0) 0 (detailOf [(0, 4, hd.srcModule), (8, 32, c.payload.toNat)]))
      childEnded s x.id i st false

/-! ### Records of children (R326, R439) -/

/-- A forwarded record goes into the tree hearth's log, unchanged but for FORWARDED and its record ID (R439). -/
def keepForwarded (hh : Hearth) (bs : List Byte) : Hearth :=
  let f (lo n : Nat) : Nat := ofLE ((bs.drop lo).take n)
  let r : AshRec :=
    { cls := f 200 2, flags := BitVec.ofNat 8 (f 203 1) ||| 1, level := f 204 1, window := f 205 3, time := f 208 8
      path := BitVec.ofNat 64 (f 216 8), syndrome := BitVec.ofNat 64 (f 224 8), step := BitVec.ofNat 64 (f 232 8)
      image := BitVec.ofNat 64 (f 240 8), env := BitVec.ofNat 64 (f 248 8), detail := BitVec.ofNat 2048 (f 256 256)
      seq := hh.ashNext, originSeq := f 108 8, raw := some (BitVec.ofNat 4096 (ofLE (bs.take 512))) }
  { hh with ash := mput { cls := 0 } hh.ash (hh.ashNext % 4096) r, ashNext := hh.ashNext + 1, sigNew := true }

/-- Pieces of a child's telemetry record gather until the number of records in its head is reached; the tree hearth keeps the
last whole record of each child, by context (R326; log 139). -/
def telemetryCell (s : State) (h i : Nat) (c : Cell) : State :=
  updH s h (fun hh =>
    let bs := mget [] hh.telemetry i ++ leBytes 32 c.payload.toNat
    if sensorHead + 16 * ofLE ((bs.drop 8).take 2) ≤ bs.length then
      { hh with telemetry := mput [] hh.telemetry i [], childTelemetry := mput [] hh.childTelemetry i bs }
    else { hh with telemetry := mput [] hh.telemetry i bs })

/-- Pieces of a record gather until its own length field is reached (R326). A CPER record gives its length at byte 20
(log 48). -/
def signatureCell (s : State) (h i : Nat) (c : Cell) : State :=
  updH s h (fun hh =>
    let bs := mget [] hh.assembly i ++ leBytes 32 c.payload.toNat
    if 32 ≤ bs.length ∧ max 32 (ofLE ((bs.drop 20).take 4)) ≤ bs.length then
      keepForwarded { hh with assembly := mput [] hh.assembly i [] } bs
    else { hh with assembly := mput [] hh.assembly i bs })

/-! ### Notices (R304, R305, R308, R309) -/

/-- A NOTICE at its endpoint. WRITE_DONE and ACCESS_FAULT for endpoint 0 concern a remote COPY of the hearth where one waits
for that module (log 38). -/
def noticeCell (s : State) (h : Nat) (c : Cell) : State :=
  let hd := hdrOf c
  let k := hd.dstEp
  let w := pay c 0 8
  let n := nbits w 31 0
  let a := pay c 8 5
  match nbits w 63 60 with
  | 0 => updH s h (fun hh => creditAtEp hh k (nbits w 59 56) n)
  | 1 => if k = 0 ∧ (copyWaiting s hd.srcModule h).isSome then copyDone s hd.srcModule h n
    else updH s h (fun hh => updEp hh k (fun x => performed x n))
  | 2 =>
    match if k = 0 then copyFault s hd.srcModule h a else none with
    | some s => s
    | none => onHearth s h (fun e hh => remoteFault e hh k (nbits w 55 52) a)
  | 3 => onHearth s h (fun e hh => droppedAtEp e hh k (nbits w 55 52) (nbits w 47 32))
  | _ => s

/-! ### Delivery -/

/-- Pass a cell to its endpoint or service (R301). -/
def handOver (h t i : Nat) (s : State) (c : Cell) : State :=
  match (hdrOf c).type with
  | 0 => updH s h (fun hh => writeService h t hh c)
  | 1 => onHearth s h (fun e hh => readService e t hh c)
  | 4 => commandCell s h t c
  | 5 => completionCell s h c
  | 10 => signatureCell s h i c
  | 11 => telemetryCell s h i c
  | 13 => noticeCell s h c
  | _ => onHearth s h (fun e hh => epCell e hh c)

/-- The arrival of a sequenced cell: its context takes, holds or discards it, and what it releases is delivered in order
(R295, R296). -/
def seqCell (row h t : Nat) (c : Cell) (s : State) : Host.Outcome State Fault Refusal :=
  match arrive row s h t c with
  | none => nextOf s
  | some (s, false) => done s
  | some (s, true) =>
    let (i, m, d) := cellCtx (hearthOf s h) t c
    let (hh, l) := acceptSeq (envOf s h) (hearthOf s h) i m d c
    done (l.foldl (handOver h t i) (putH s h hh))

/-- WRITE (R308). -/
def execWrite (h t : Nat) (c : Cell) (s : State) : Host.Outcome State Fault Refusal := seqCell 0 h t c s
/-- READ_REQ (R308). -/
def execReadReq (h t : Nat) (c : Cell) (s : State) : Host.Outcome State Fault Refusal := seqCell 1 h t c s
/-- READ_REPLY (R307). -/
def execReadReply (h t : Nat) (c : Cell) (s : State) : Host.Outcome State Fault Refusal := seqCell 2 h t c s
/-- COMMAND (R323, R408). -/
def execCommand (h t : Nat) (c : Cell) (s : State) : Host.Outcome State Fault Refusal := seqCell 4 h t c s
/-- COMPLETION (R324). -/
def execCompletion (h t : Nat) (c : Cell) (s : State) : Host.Outcome State Fault Refusal := seqCell 5 h t c s
/-- SYNC_ARRIVE (R325). -/
def execSyncArrive (h t : Nat) (c : Cell) (s : State) : Host.Outcome State Fault Refusal := seqCell 6 h t c s
/-- SYNC_RELEASE (R325). -/
def execSyncRelease (h t : Nat) (c : Cell) (s : State) : Host.Outcome State Fault Refusal := seqCell 7 h t c s
/-- COMBINE (R310). -/
def execCombine (h t : Nat) (c : Cell) (s : State) : Host.Outcome State Fault Refusal := seqCell 8 h t c s
/-- SIGNATURE (R326, R439). -/
def execSignature (h t : Nat) (c : Cell) (s : State) : Host.Outcome State Fault Refusal := seqCell 10 h t c s
/-- TELEMETRY (R326). -/
def execTelemetry (h t : Nat) (c : Cell) (s : State) : Host.Outcome State Fault Refusal := seqCell 11 h t c s
/-- TOKEN (R287, R305). -/
def execToken (h t : Nat) (c : Cell) (s : State) : Host.Outcome State Fault Refusal := seqCell 12 h t c s
/-- NOTICE CREDIT (R304). -/
def execCredit (h t : Nat) (c : Cell) (s : State) : Host.Outcome State Fault Refusal := seqCell 48 h t c s
/-- NOTICE WRITE_DONE (R306, R309). -/
def execWriteDone (h t : Nat) (c : Cell) (s : State) : Host.Outcome State Fault Refusal := seqCell 49 h t c s
/-- NOTICE ACCESS_FAULT (R308). -/
def execAccessFault (h t : Nat) (c : Cell) (s : State) : Host.Outcome State Fault Refusal := seqCell 50 h t c s
/-- NOTICE DROPPED (R305). -/
def execDropped (h t : Nat) (c : Cell) (s : State) : Host.Outcome State Fault Refusal := seqCell 51 h t c s

/-! ### ACK records (Table 9-9) -/

/-- The context that an ACK record concerns, with its peer. -/
def ackCtx (t : Nat) (c : Cell) : Nat × Nat × Nat :=
  let hd := hdrOf c
  let ch := nbits (pay c 0 8) 59 58
  if hd.dstHearth = 15 then (linkCtx t ch, 0, 15) else (ctxIndex hd.srcModule hd.srcHearth ch, hd.srcModule, hd.srcHearth)

/-- SEQ of an ACK record. -/
def ackSeq (c : Cell) : W16 := BitVec.ofNat 16 (nbits (pay c 0 8) 47 32)

/-- MAP of an ACK record. -/
def ackMap (c : Cell) : W32 := BitVec.ofNat 32 (nbits (pay c 0 8) 31 0)

/-- EPOCH of an ACK record. -/
def ackEpoch (c : Cell) : Nat := nbits (pay c 0 8) 50 48

/-- The arrival of an ACK record. -/
def ackCell (row h t : Nat) (c : Cell) (s : State) (f : State → Nat → Nat → Nat → State) :
    Host.Outcome State Fault Refusal :=
  match arrive row s h t c with
  | none => nextOf s
  | some (s, false) => done s
  | some (s, true) => let (i, m, d) := ackCtx t c; done (f s i m d)

/-- ACK: cells passed are freed (R298). -/
def execAck (h t : Nat) (c : Cell) (s : State) : Host.Outcome State Fault Refusal :=
  ackCell 16 h t c s (fun s i m d => updH s h (fun hh =>
    let p := peerOf hh i
    if p.st = .open ∧ serves p m d then takeAck hh i (ackSeq c) (ackMap c) else hh))

/-- NACK: cells passed are freed, and the set of R298 is resent at once. -/
def execNack (h t : Nat) (c : Cell) (s : State) : Host.Outcome State Fault Refusal :=
  ackCell 17 h t c s (fun s i m d => updH s h (fun hh =>
    let p := peerOf hh i
    if p.st = .open ∧ serves p m d then
      resendSeqs h (takeAck hh i (ackSeq c) (ackMap c)) i (resendSet (ackSeq c) p.send (ackMap c))
    else hh))

/-- OPEN: the context takes the other end's epoch and sequence number, answers OPEN_ACK and is OPEN (R294); one held by another
peer does not (R292). -/
def execOpen (h t : Nat) (c : Cell) (s : State) : Host.Outcome State Fault Refusal :=
  ackCell 18 h t c s (fun s i m d => updH s h (fun hh =>
    if !ctxFree (peerOf hh i) m d ∧ i < 262144 then { hh with discards := hh.discards + 1 }
    else
      let hh := takeOpen hh i m d (ackEpoch c) (ackSeq c)
      sendAck h hh i 3 (epochOf hh) (peerOf hh i).send.toNat 0))

/-- OPEN_ACK: the opener takes it in the same way (R294). -/
def execOpenAck (h t : Nat) (c : Cell) (s : State) : Host.Outcome State Fault Refusal :=
  ackCell 19 h t c s (fun s i m d => updH s h (fun hh =>
    let p := peerOf hh i
    if p.st = .opening ∧ serves p m d then takeOpen hh i m d (ackEpoch c) (ackSeq c) else hh))

/-- RESET: an OPEN or OPENING context is lost under R299 and reopens on its next send (R295). -/
def execReset (h t : Nat) (c : Cell) (s : State) : Host.Outcome State Fault Refusal :=
  ackCell 20 h t c s (fun s i m d =>
    let p := peerOf (hearthOf s h) i
    if (p.st = .open ∨ p.st = .opening) ∧ serves p m d then losePeer s h i else s)

/-! ### Timers of contexts -/

/-- ACK_DELAY_EXPIRY: deliveries since the last ACK or NACK are acknowledged (R297). -/
def execAckDelayExpiry (h ctx : Nat) (s : State) : Host.Outcome State Fault Refusal :=
  hearthEvent s h (fun e hh => if flueOn hh ∧ (peerOf hh ctx).sinceAck ≠ 0 then ackNow e.h hh ctx else hh)

/-- RESEND_TIMEOUT: the set of R298 counted from ACK is resent, or OPEN again, and RETRY rises; at RETRY 8 the context is LOST
(R294, R298, R299). -/
def execResendTimeout (h ctx : Nat) (s : State) : Host.Outcome State Fault Refusal :=
  let hh := hearthOf s h
  let p := peerOf hh ctx
  if !flueOn hh ∨ !(p.st = .opening ∨ (p.st = .open ∧ p.ack ≠ p.send)) then nextOf s
  else if 8 ≤ p.retry then done (losePeer s h ctx)
  else
    done (updH s h (fun hh =>
      let hh := putPeer hh ctx { p with retry := p.retry + 1 }
      if p.st = .opening then sendAck h hh ctx 2 p.txEpoch p.send.toNat 0
      else resendSeqs h hh ctx (resendSet p.ack p.send p.lastMap)))

/-- WRITE_DONE_TIMER: 1 µs after a performed cell that no notice covers, a WRITE_DONE covers it (R309). -/
def execWriteDoneTimer (h i : Nat) (s : State) : Host.Outcome State Fault Refusal :=
  hearthEvent s h (fun e hh =>
    match hh.performed[i]? with
    | none => hh
    | some (m, d, ep, n) =>
      if !flueOn hh then hh else
      sendNotice e.h { hh with performed := hh.performed.eraseIdx i } (writerDest m d) ep 1 0 0 0 n 0)

/-! ### Transit (R317, R318) -/

/-- The way of a cell that a hearth forwards: MIN_PORT only for a cell of another module; the lookup of the source module for one
of its own, which another of its hearths handed over (R317 step 4, R318). A module without an id forwards nothing (R300). -/
def transitPort (h : Nat) (hh : Hearth) (hd : Hdr) (own : Bool) : Option Nat :=
  if !hh.idValid then none else
  match routeOf h hh hd.dstModule hd.dstHearth (chanOf hd) own with
  | some t => if portUp hh t then some t else none
  | none => none

/-- TRANSIT_CELL: a cell for another hearth is forwarded by its port, or dropped and counted; its CRC is not checked (R284,
R317, R318). -/
def execTransitCell (h t : Nat) (c : Cell) (s : State) : Host.Outcome State Fault Refusal :=
  match takeOff s h t c with
  | none => nextOf s
  | some s' =>
    let hd := hdrOf c
    let hh := hearthOf s' h
    let ch := chanOf hd
    if addressedHere h hh hd then nextOf s
    else if !flueForwards hh then done s'
    else
      let own := !comesForeign s h t ch
      match transitPort h hh hd own with
      | none => done (discard s' h)
      | some u =>
        let slot (hh : Hearth) : Hearth := putPort hh t { fport hh t with owed := mupd 0 (fport hh t).owed ch (· - 1) }
        done (updH s' h (fun hh =>
          let hh := slot hh
          putPort hh u { fport hh u with transit := mupd [] (fport hh u).transit ch (· ++
            [{ cell := c, dstModule := hd.dstModule, dstHearth := hd.dstHearth, transit := true, port := some t
               since := s.time.ns, own := own }]) }))

end Sys2Proof.Machine
end

