-- ==== Sys2Proof/Machine/Sideband.lean ====
section
/-! DEFINITION. The sideband (R482 to R484) and the FRU EEPROM (R496, R497). -/

namespace Sys2Proof.Machine

/-- The FRU EEPROM answers: mantel rails in regulation, endpoints not failed (R482, Table 1-12). -/
def fruOk (s : State) : Bool := s.power.inputOk && s.power.mantelOn && !s.sidebandFailed

/-- The MCTP endpoint acknowledges its address: from SERVICE on (R482, R484). -/
def mctpOk (s : State) : Bool := fruOk s && s.sidebandOn && s.mod != .boot && !s.power.perst

/-- An upper-case hexadecimal digit. -/
def hexDigit (n : Nat) : Byte := BitVec.ofNat 8 (if n < 10 then 0x30 + n else 0x37 + n)

/-- SERIAL as 16 hexadecimal digits (Table 16-7). -/
def serialText (v : W64) : List Byte := (List.range 16).map (fun i => hexDigit (v.toNat / 16 ^ (15 - i) % 16))

/-- The ordering code of a grade: "JD9-3240-L", "JD9-3120-L" or "JD9-2880-L" (Table 11-6). -/
def orderingCode (g : Nat) : List Byte :=
  let mid : List Byte := if g = 0 then [0x33, 0x32, 0x34, 0x30] else if g = 1 then [0x33, 0x31, 0x32, 0x30]
    else [0x32, 0x38, 0x38, 0x30]
  [0x4A, 0x44, 0x39, 0x2D] ++ mid ++ [0x2D, 0x4C]

/-- The zero checksum of IPMI FRU areas. -/
def checksum (bs : List Byte) : Byte := BitVec.ofNat 8 (256 - bs.foldl (fun a b => a + b.toNat) 0 % 256)

/-- An 8-bit ASCII field with its type/length byte. -/
def fruField (bs : List Byte) : List Byte := BitVec.ofNat 8 (0xC0 + bs.length) :: bs

/-- An area padded to a multiple of 8 with its checksum: version, length, body. -/
def fruArea (body : List Byte) : List Byte :=
  let n := ceilDiv (body.length + 3) 8
  let a := [1, BitVec.ofNat 8 n] ++ body ++ zeros (8 * n - 3 - body.length)
  a ++ [checksum a]

/-- "Pereveras". -/
def txtMaker : List Byte := [0x50, 0x65, 0x72, 0x65, 0x76, 0x65, 0x72, 0x61, 0x73]
/-- "Jardeif module". -/
def txtName : List Byte := [0x4A, 0x61, 0x72, 0x64, 0x65, 0x69, 0x66, 0x20, 0x6D, 0x6F, 0x64, 0x75, 0x6C, 0x65]

/-- The OEM record body (Table 16-8). -/
def oemBody (f : Fuses) : List Byte :=
  [1, BitVec.ofNat 8 f.grade.toNat] ++ leBytes 2 f.fusedW ++ leBytes 2 4800 ++ leBytes 2 30 ++ leBytes 2 36 ++ [40, 1]
    ++ leBytes 8 f.serial.toNat ++ zeros 12

/-- The FRU data (Tables 16-7, 16-8) in the areas that the IPMI definition gives (PRESUMED, log 19). The manufacture date
and the board revision are free values (log 6). -/
def fruData (f : Fuses) : List Byte :=
  let board := fruArea ([0, Config.fruByte 0, Config.fruByte 1, Config.fruByte 2] ++ fruField txtMaker ++ fruField txtName
    ++ fruField (serialText f.serial) ++ fruField (orderingCode f.grade.toNat) ++ [0xC1])
  let product := fruArea ([0] ++ fruField txtMaker ++ fruField txtName ++ fruField (orderingCode f.grade.toNat)
    ++ fruField [Config.fruByte 3, Config.fruByte 4] ++ fruField (serialText f.serial) ++ fruField [] ++ [0xC1])
  let rec_ := [0xE9, 0xB7, 0x00] ++ oemBody f
  let hd := [0xC0, 0x82, BitVec.ofNat 8 rec_.length, checksum rec_]
  let multi := hd ++ [checksum hd] ++ rec_
  let b := 1
  let p := b + board.length / 8
  let m := p + product.length / 8
  let common := [1, 0, 0, BitVec.ofNat 8 b, BitVec.ofNat 8 p, BitVec.ofNat 8 m, 0]
  common ++ [checksum common] ++ board ++ product ++ multi

/-- A byte of the 2 KiB EEPROM; bytes that the areas do not reach are free values (log 6). -/
def fruAt (f : Fuses) (o : Nat) : Byte := (fruData f).getD o (Config.fruByte (16 + o))

/-- FRU_READ: a read of the EEPROM, which nothing on the sideband can change (R496). -/
def execFruRead (offset : Nat) (s : State) : Host.Outcome State Fault Refusal :=
  nextOf { s with rsp := if fruOk s ∧ offset < 2048 then .fru (fruAt s.fuses offset) else .noAnswer }

/-- An answer whose bytes a published standard gives, from the endpoint ID and the request: free bytes (log 17). -/
def standardAnswer (s : State) (msg : List Byte) : Rsp :=
  if mctpOk s then
    .sideband ((List.range (Config.sidebandLen (s.eid :: msg))).map (Config.sidebandByte (s.eid :: msg)))
  else .noAnswer

/-- MCTP_CONTROL other than Set Endpoint ID (R483). -/
def execMctpControl (msg : List Byte) (s : State) : Host.Outcome State Fault Refusal :=
  nextOf { s with rsp := standardAnswer s msg }

/-- SET_ENDPOINT_ID: the bus owner assigns the endpoint ID (R483). -/
def execSetEndpointId (eid : Byte) (s : State) : Host.Outcome State Fault Refusal :=
  nextOf (if mctpOk s then { s with eid := eid, rsp := standardAnswer { s with eid := eid } [eid] }
    else { s with rsp := .noAnswer })

/-- PLDM_BASE (type 0; R483). -/
def execPldmBase (msg : List Byte) (s : State) : Host.Outcome State Fault Refusal :=
  nextOf { s with rsp := standardAnswer s msg }

/-- The sensor IDs of Table 15-7, module sensors first (Table 15-6). -/
def sensorIds : List Nat :=
  (List.range 10).map (· + 1) ++ allHearths.flatMap (fun h => (List.range 87).map (fun i => 0x100 * (h + 1) + i))

/-- The record index of a sensor ID. -/
def sensorIndex (id : Nat) : Option Nat :=
  if 1 ≤ id ∧ id ≤ 10 then some (id - 1)
  else if 0x100 ≤ id ∧ id / 0x100 ≤ 9 ∧ id % 0x100 ≤ 86 then some (16 + 96 * (id / 0x100 - 1) + id % 0x100)
  else none

/-- UNIT of a sensor record (Tables 15-6, 15-7). -/
def sensorUnit (idx : Nat) : Nat :=
  if idx < 16 then (if idx = 0 ∨ idx = 7 then 2 else if idx = 1 then 3 else if idx = 2 ∨ idx = 3 then 4
    else if idx = 4 ∨ idx = 5 then 5 else 1)
  else
    let i := (idx - 16) % 96
    if i < 64 then 1 else if i < 68 then 2 else if i < 72 then 3 else if i < 77 then 4 else if i < 80 then 5 else 1

/-- STATE that a sensor reports: 4 while its hearth is off (R481). -/
def sensorState (s : State) (idx : Nat) : Nat := if sensorOff s idx then 4 else (mget {} s.sensors idx).state

/-- GET_PDR_REPOSITORY_INFO: one numeric sensor PDR per sensor (R483). -/
def execGetPdrRepositoryInfo (s : State) : Host.Outcome State Fault Refusal :=
  nextOf { s with rsp := if mctpOk s then .pdrInfo sensorIds.length else .noAnswer }

/-- GET_PDR: the sensor of a record handle, with its unit and thresholds. Handles count from 1 in the order of Table 15-7; 0 asks for the
first (PRESUMED, log 17). -/
def execGetPdr (handle : Nat) (s : State) : Host.Outcome State Fault Refusal :=
  let r : Rsp :=
    if !mctpOk s then .noAnswer
    else match sensorIds[handle - 1]? with
      | some id => .pdr id (sensorUnit ((sensorIndex id).getD 0)) (sensorLimits ((sensorIndex id).getD 0))
      | none => standardAnswer s (leBytes 4 handle)
  nextOf { s with rsp := r }

/-- GET_SENSOR_READING: VALUE and STATE (R483). -/
def execGetSensorReading (id : Nat) (s : State) : Host.Outcome State Fault Refusal :=
  let r : Rsp :=
    if !mctpOk s then .noAnswer
    else match sensorIndex id with
      | some k => .sensor (mget {} s.sensors k).value (sensorState s k)
      | none => standardAnswer s (leBytes 2 id)
  nextOf { s with rsp := r }

/-- SET_NUMERIC_SENSOR_ENABLE is answered; the sideband changes no module state (R483, R484). -/
def execSetNumericSensorEnable (id state : Nat) (s : State) : Host.Outcome State Fault Refusal :=
  nextOf { s with rsp := standardAnswer s (leBytes 2 id ++ leBytes 1 state) }

/-- SIDEBAND_ENDPOINT_FAILURE: the FRU EEPROM and the MCTP endpoint stop answering; recorded in every hearth (Table 1-12). -/
def execSidebandEndpointFailure (s : State) : Host.Outcome State Fault Refusal :=
  nextOf (if s.sidebandFailed then s else mantelFail { s with sidebandFailed := true } 3)

end Sys2Proof.Machine
end

