-- ==== Sys2Proof/Machine/Windows.lean ====
section
/-! DEFINITION. What the host reads through BAR 0 and BAR 2 (R361, R362, R374). No command of the table is such a read but
HEALTH_READ; these are the values that the state shows. -/

namespace Sys2Proof.Machine

/-! ### BAR 0 (Tables 11-5, 11-14) -/

/-- JD_TIME (Table 11-9): module time in nanoseconds. -/
def regTime (s : State) : Nat := s.time.ns % 2 ^ 64

/-- JD_SQ_SIZE (Table 11-14). -/
def regSqSize (q : SQ) : Nat := b2n q.enable * 2 ^ 63 + b2n q.error * 2 ^ 62 + q.priority * 2 ^ 59 + q.cause * 2 ^ 56 + q.log2

/-- JD_CQ_SIZE (Table 11-14). -/
def regCqSize (q : CQ) : Nat := b2n q.enable * 2 ^ 63 + b2n q.error * 2 ^ 62 + q.cause * 2 ^ 56 + q.log2

/-- A register of ring pair n by its offset in the pair; the write-only doorbell reads 0. -/
def regRing (s : State) (n o : Nat) : Nat :=
  match o with
  | 0x00 => (sqOf s n).base.toNat * 4096
  | 0x08 => regSqSize (sqOf s n)
  | 0x18 => (sqOf s n).head
  | 0x20 => (cqOf s n).base.toNat * 4096
  | 0x28 => regCqSize (cqOf s n)
  | 0x30 => (cqOf s n).head
  | _ => 0

/-- The 64 bits of a JD_ register by its BAR 0 offset; an offset not listed reads 0. -/
def regRead (s : State) (off : Nat) : Nat :=
  if off = 0x2000 then regIdent s
  else if off = 0x2008 then regCap s
  else if off = 0x2010 then regHealth s
  else if off = 0x2018 then regTime s
  else if off = 0x2020 then regPowerCap s
  else if off = 0x2028 then regAlarm s
  else if off = 0x2030 then s.regs.winSel.toNat
  else if 0x2040 ≤ off ∧ off < 0x2088 then regHearthState (hearthOf s ((off - 0x2040) / 8))
  else if 0x2100 ≤ off ∧ off < 0x2140 then (mget 0 s.regs.winBase ((off - 0x2100) / 8)).toNat
  else if 0x2140 ≤ off ∧ off < 0x2180 then (mget 0 s.regs.winLimit ((off - 0x2140) / 8)).toNat
  else if 0x2200 ≤ off ∧ off < 0x2320 then (mget 0 s.regs.bias ((off - 0x2200) / 8)).toNat
  else if 0x3000 ≤ off ∧ off < 0x3200 then regRing s ((off - 0x3000) / 0x40) ((off - 0x3000) % 0x40)
  else 0

/-- A register of an HDM decoder, by its offset in the decoder's 32 bytes (log 142). -/
def decoderRead (x : Decoder) (o : Nat) : Nat :=
  match o with
  | 0x00 => x.hpa % 2 ^ 32 / 2 ^ 28 * 2 ^ 28
  | 0x04 => x.hpa / 2 ^ 32 % 2 ^ 32
  | 0x08 => x.size % 2 ^ 32 / 2 ^ 28 * 2 ^ 28
  | 0x0C => x.size / 2 ^ 32 % 2 ^ 32
  | 0x10 => x.iw * 2 ^ 4 + b2n x.committed * 2 ^ 9 + b2n x.committed * 2 ^ 10 + b2n x.error * 2 ^ 11
  | 0x14 => x.skip % 2 ^ 32 / 2 ^ 28 * 2 ^ 28
  | 0x18 => x.skip / 2 ^ 32 % 2 ^ 32
  | _ => 0

/-- The 32 bits of a CXL register: the capability header and its pointers to the RAS, Link and HDM capabilities of Table 11-5, the
two decoders, which read 0 in the PCIe fallback (R356), and registers whose layout only the CXL 2.0 specification gives: free
values of what was last written (log 142). -/
def cxlRead (s : State) (off : Nat) : Nat :=
  if off = 0x1000 then 0x03110001
  else if off = 0x1004 then 0x10010002
  else if off = 0x1008 then 0x20010004
  else if off = 0x100C then 0x30010005
  else if off < 0x1100 then 0
  else if 0x1300 ≤ off ∧ off < 0x1400 ∧ !s.regs.cxl then 0
  else if off = 0x1300 then 1
  else if 0x1310 ≤ off ∧ off < 0x1350 then decoderRead (mget {} s.regs.decoders ((off - 0x1310) / 0x20)) ((off - 0x1310) % 0x20)
  else (Config.cxlValue off (mget 0 s.regs.cxlRegs off)).toNat

/-- A read of BAR 0: 8-byte aligned reads of 8 bytes of a JD_ register, 4-byte reads of a CXL register, and 8-byte ones of the Link
capability; any other size or alignment reads 0 (R362, Table 11-5). None while the BARs do not answer (R375). -/
def bar0Read (s : State) (off size : Nat) : Option Nat :=
  if !barOk s then none
  else if size = 4 ∧ off % 4 = 0 ∧ cxlOffset off then some (cxlRead s off)
  else if size = 8 ∧ off % 8 = 0 ∧ 0x1200 ≤ off ∧ off < 0x1300 then some (cxlRead s off + cxlRead s (off + 4) * 2 ^ 32)
  else if size = 8 ∧ off % 8 = 0 then some (regRead s off) else some 0

/-! ### Configuration space (Tables 11-2 to 11-4) -/

/-- A base address register: its size; 64-bit and non-prefetchable (Table 11-2). A size of 0 is one that is not implemented. -/
structure Bar where
  bytes : Nat
  bits64 : Bool := true
  prefetchable : Bool := false
  deriving DecidableEq, Repr

/-- The header values of Table 11-2. `interruptStatus` is that bit of the Status register (R358). -/
structure CfgHeader where
  vendor : Nat := 0x1F8C
  device : Nat := 0x0900
  classCode : Nat := 0x120000
  subVendor : Nat := 0x1F8C
  subsystem : Nat
  bar0 : Bar := ⟨0x10000, true, false⟩
  bar2 : Bar := ⟨0x200000, true, false⟩
  bar4 : Nat := 0
  bar5 : Nat := 0
  expansionRom : Nat := 0
  interruptPin : Nat := 0
  interruptStatus : Bool := false
  deriving DecidableEq, Repr

/-- Configuration space answers (R36, Table 14-7). -/
def cfgAnswers (s : State) : Bool := s.regs.cfgOk && !s.hostPortFailed

/-- The configuration header, while configuration space answers (R359). -/
def cfgHeader (s : State) : Option CfgHeader :=
  if cfgAnswers s then some { subsystem := s.fuses.grade.toNat } else none

/-- A capability of Table 11-3 with what the table, R355 and R358 say of it. -/
inductive Capability where
  /-- D0 and D3hot; whether the function is in D3hot now. -/
  | powerManagement (d3hot : Bool)
  /-- The PCI Express capability: no function level reset, no ASPM, error-reporting enables hardwired to 0; the link's width and
  speed code. -/
  | pciExpress (flr aspmL0s aspmL1 : Bool) (errorEnables width speed : Nat)
  /-- Advanced Error Reporting: it logs, and sends no message. -/
  | aer (uncorrectable correctable : W32)
  | serialNumber (serial : W64)
  | secondaryPcie
  | physical16
  | physical32
  | laneMargining
  /-- Data Object Exchange: CDAT objects only. -/
  | doe (cdatOnly : Bool)
  | cxlDevice
  | flexBus (cache mem io : Bool)
  /-- Register Locator: the number of blocks, and the BAR and offset of the component registers. -/
  | registerLocator (blocks bar offset : Nat)
  deriving DecidableEq, Repr

/-- The capabilities present and their offsets (Table 11-3); no other is, so none for interrupts (R358). -/
def capabilities (s : State) : List (Nat × Capability) :=
  [ (0x040, .powerManagement s.regs.d3hot)
  , (0x050, .pciExpress false false false 0 s.regs.linkWidth s.regs.linkSpeed)
  , (0x100, .aer s.regs.aerUncor s.regs.aerCor), (0x150, .serialNumber s.fuses.serial), (0x160, .secondaryPcie)
  , (0x1A0, .physical16), (0x1F0, .physical32), (0x240, .laneMargining), (0x2A0, .doe true), (0x2C0, .cxlDevice)
  , (0x300, .flexBus true true true), (0x320, .registerLocator 1 0 0) ]

/-- The PCIe DVSEC for CXL Devices (Table 11-4). -/
structure CxlDvsec where
  cacheCapable : Bool := true
  ioCapable : Bool := true
  memCapable : Bool := true
  memHwInit : Bool := false
  hdmCount : Nat := 1
  cacheBytes : Nat := 0x40000
  range1Size : Nat := 0x24000000000
  range1Valid : Bool
  range1Active : Bool
  range2Size : Nat := 0
  deriving DecidableEq, Repr

/-- The DVSEC as it reads now (R360): Memory_Info_Valid from SERVICE on. -/
def cxlDvsec (s : State) : CxlDvsec := { range1Valid := s.ringsOn && s.mod != .boot, range1Active := s.memActive }

/-- The CDAT (R360): a header with its length, revision, checksum and sequence number, then a DSMAS structure for each entry. The
checksum makes the sum of all bytes 0 modulo 256. PRESUMED from the CDAT specification, log 143. -/
def cdatBytes (s : State) : List Byte :=
  let l := s.cdat.entries
  let body := (List.range l.length).flatMap (fun i =>
    let x := l.getD i (0, 0)
    leBytes 2 0 ++ leBytes 2 24 ++ leBytes 1 i ++ zeros 3 ++ leBytes 8 x.1 ++ leBytes 8 x.2)
  let head (sum : Nat) : List Byte := leBytes 4 (16 + body.length) ++ leBytes 1 1 ++ leBytes 1 sum ++ zeros 6 ++ leBytes 4 s.cdat.seq
  let total := (head 0 ++ body).foldl (fun a b => a + b.toNat) 0
  head ((256 - total % 256) % 256) ++ body

/-- The DPA that a host physical address reaches through the committed decoders, in CXL mode (R356, R372). -/
def decodeHpa (s : State) (a : Nat) : Option Nat :=
  if !s.regs.cxl then none else
  (List.range 2).findSome? (fun d =>
    let x := mget {} s.regs.decoders d
    if x.committed ∧ x.hpa ≤ a ∧ a < x.hpa + x.size then some (decoderDpa s d x.skip + (a - x.hpa)) else none)

/-! ### BAR 2 (Tables 11-16, 11-17) -/

/-- The bytes of a calibration record (Tables 5-1 to 5-5). -/
def calBytes (r : CalRec) : List Byte :=
  leBytes 8 r.cfg.toNat ++ leBytes 8 r.state.toNat ++ leBytes 8 (b2n r.observed * 2 ^ 32 + r.stepAmax.toNat)
    ++ [r.elems, r.clip, r.nar, r.narBlock, r.flush, r.shadowClip, r.emberReset, r.lifeElems, r.lifeClip, r.lifeNar].flatMap
        (leBytes 8)
    ++ zeros 152 ++ (List.range 32).flatMap (fun b => leBytes 8 (mget 0 r.hist b))

/-- The bytes of a load report where the telemetry SRAM keeps it (R193). -/
def loadReportBytes (c : Nat) (r : LoadReport) : List Byte := reportHead { r with context := c } ++ r.recs.flatMap reportRec

/-- The 64 bits of a ledger word (R230): ADDED above TAKEN. -/
def ledgerBytes (x : W32 × W32) : List Byte := leBytes 4 x.2.toNat ++ leBytes 4 x.1.toNat

/-- Byte o of a list of bytes; 0 beyond its end. -/
def byteAt (l : List Byte) (o : Nat) : Byte := l.getD o 0

/-- Byte x of a hearth's telemetry SRAM: histograms (R106), calibration records (R142), step reports (R353), load reports
(R193), ledger words (R230). The manual gives no other byte a place; those read 0. -/
def sramByte (hh : Hearth) (x : Nat) : Byte :=
  if x < 524672 then byteAt (histBytes hh (x / 64)) (x % 64)
  else if 0xC0000 ≤ x ∧ x < 0xD0000 then byteAt (calBytes (mget {} hh.cal ((x - 0xC0000) / 512))) (x % 512)
  else if 0xD0000 ≤ x ∧ x < 0xD8000 then byteAt (leBytes 128 (mget 0 hh.reportRing ((x - 0xD0000) / 128)).toNat) (x % 128)
  else if 0x100000 ≤ x ∧ x < 0x180000 then
    let c := (x - 0x100000) / 0x20000
    byteAt (loadReportBytes c (mget {} hh.ctxs c).report) ((x - 0x100000) % 0x20000)
  else if 0x180000 ≤ x ∧ x < 0x180000 + 8 * 23040 then
    byteAt (ledgerBytes (mget (0, 0) hh.syncWords ((x - 0x180000) / 8))) (x % 8)
  else if 0x1B0000 ≤ x ∧ x < 0x1B0000 + 8 * 256 then
    byteAt (ledgerBytes (mget (0, 0) hh.syncWords (0x10000 + (x - 0x1B0000) / 8))) (x % 8)
  else 0

/-- Byte x of the ash log of hearth h: slot k at 512 × k (R435). -/
def ashByte (s : State) (h x : Nat) : Byte :=
  if x / 512 < 4096 then
    byteAt (ashBytes h s.fuses.serial (mget { cls := 0 } (hearthOf s h).ash (x / 512))) (x % 512)
  else 0

/-- Steps PENDING or HELD of a workload. -/
def pendingOf (s : State) (w : Nat) : Nat :=
  allHearths.foldl (fun a h => a + ((hearthOf s h).steps.filter (fun x =>
    x.workload == w && (x.state == .pending || x.state == .held))).length) 0

/-- A workload account (Table 10-3). -/
def accountBytes (s : State) (w : Nat) (a : Account) : List Byte :=
  leBytes 2 w ++ leBytes 2 a.weight ++ leBytes 1 (b2n a.latency) ++ leBytes 1 (b2n a.known + 2 * b2n a.mayPreempt)
    ++ leBytes 2 (pendingOf s w) ++ leBytes 8 a.charged ++ leBytes 8 a.vtime ++ leBytes 8 a.stalled
    ++ leBytes 8 a.freezeCharge ++ leBytes 4 a.stepsDone ++ leBytes 4 a.stepsOther ++ leBytes 4 a.freezes ++ zeros 12

/-- A sensor record (Table 15-6). -/
def sensorBytes (s : State) (k : Nat) : List Byte :=
  if !sensorDefined k then zeros 16 else
  let x := mget {} s.sensors k
  leBytes 2 (if k < 16 then k + 1 else 0x100 * ((k - 16) / 96 + 1) + (k - 16) % 96) ++ leBytes 1 (sensorUnit k)
    ++ leBytes 1 (sensorState s k) ++ leBytes 4 (unsgn 32 x.value) ++ leBytes 4 (unsgn 32 x.low) ++ leBytes 4 (unsgn 32 x.high)

/-- The sensor records with their head, as the mantel area holds them from 0x1_0000 (R480). -/
def sensorArea (s : State) : List Byte :=
  leBytes 8 s.sensorTime ++ leBytes 2 sensorCount ++ zeros (sensorHead - 10) ++ (List.range sensorCount).flatMap (sensorBytes s)

/-- Byte x of the mantel area (Table 11-17, R480). Accounts stand in the order of their workload ids (log 51). -/
def mantelByte (s : State) (x : Nat) : Byte :=
  if x < 0x1000 then
    (match (s.accounts.filter (fun a => a.2.known))[x / 64]? with
     | some a => byteAt (accountBytes s a.1 a.2) (x % 64)
     | none => 0)
  else if 0x10000 ≤ x ∧ x < 0x10040 then byteAt (leBytes 8 s.sensorTime ++ leBytes 2 sensorCount) (x % 64)
  else if 0x10040 ≤ x ∧ x < 0x10040 + 16 * sensorCount then byteAt (sensorBytes s ((x - 0x10040) / 16)) (x % 16)
  else 0

/-- Byte x of BAR 2 (Table 11-16), while the BARs answer. A hearth's bytes come by its command link (R12). -/
def bar2Byte (s : State) (x : Nat) : Byte :=
  let src := s.regs.winSel.toNat % 4
  let h := s.regs.winSel.toNat / 16 % 16
  if src = 2 then mantelByte s x
  else if 8 < h ∨ 2 < src ∨ !present (hearthOf s h).st ∨ (hearthOf s h).linkLost then 0
  else if src = 0 then sramByte (hearthOf s h) x
  else ashByte s h x

/-- A read of a byte of BAR 2: none while the BARs do not answer (R36, R375). -/
def bar2Read (s : State) (x : Nat) : Option Byte := if barOk s then some (bar2Byte s x) else none

end Sys2Proof.Machine
end

