-- ==== Sys2Proof/Machine/TimeSig.lean ====
section
/-! DEFINITION. Module time over the tree (R327 to R330, R499) and signatures towards the parent (R326, R438). -/

namespace Sys2Proof.Machine

/-! ### TIME cells -/

/-- Module time in units of 1/16 ns, as TIME cells carry it. -/
def time16 (s : State) : Nat := 16 * s.time.ns % 2 ^ 64

/-- Send a TIME cell; T1 of a query and T3 of an answer are stamped as it leaves its port (R327). -/
def sendTime (h : Nat) (hh : Hearth) (d : Dest) (net spare t1 t2 corr : Nat) : Hearth :=
  sendCell h hh d 9 net 1 0 8 spare (leBytes 8 t1 ++ leBytes 8 t2 ++ zeros 8 ++ leBytes 4 corr ++ zeros 4)

/-- TIME_EXCHANGE_TICK: the tree hearth sends a query to its parent's tree hearth (R327 step 1). -/
def execTimeExchangeTick (s : State) : Host.Outcome State Fault Refusal :=
  match s.role.parent with
  | none => nextOf s
  | some (m, d) =>
    hearthEvent s s.role.treeHearth (fun e hh => if flueOn hh then sendTime e.h hh (.peer m d) 0 0 0 0 0 else hh)

/-- TIME_QUERY: the tree hearth answers with T1, T2, CORR_FWD and SET (R327 step 3, Table 9-5). -/
def execTimeQuery (h t : Nat) (c : Cell) (s : State) : Host.Outcome State Fault Refusal :=
  match arrive 32 s h t c with
  | none => nextOf s
  | some (s, false) => done s
  | some (s, true) =>
    if h ≠ s.role.treeHearth then done s else
    done (updH s h (fun hh =>
      sendTime h hh (replyDest t (hdrOf c)) 1 (b2n s.time.isSet) (pay c 0 8) (time16 s) (pay c 24 4)))

/-- Twice the offset of the parent over the child, in units of 1/16 ns: (T2 − T1 − CORR_FWD) − (T4 − T3 − CORR_BACK). -/
def offset2 (t1 t2 t3 t4 fwd back : Nat) : Int := ((t2 : Int) - t1 - fwd) - ((t4 : Int) - t3 - back)

/-- The child applies an offset (R328): a step forward at once, half rate, or a slew; `free` says that no step of the module
is RUNNING or FROZEN. The offset is applied in whole nanoseconds (log 49). -/
def applyOffset (t : Time) (free : Bool) (x : Int) : Time :=
  let ns := x / 32
  if free ∧ 320000 < x then { t with ns := t.ns + ns.toNat, slew := 0, half := false, acc := 0 }
  else if free ∧ x < -320000 then { t with slew := ns, half := true, acc := 0 }
  else { t with slew := ns, half := false, acc := 0 }

/-- TIME_ANSWER: the offset is applied, and the exchange is complete: time is set where the parent's is, and locked
(R327, R328, R330, R499). -/
def execTimeAnswer (h t : Nat) (c : Cell) (s : State) : Host.Outcome State Fault Refusal :=
  match arrive 33 s h t c with
  | none => nextOf s
  | some (s, false) => done s
  | some (s, true) =>
    let hd := hdrOf c
    if h ≠ s.role.treeHearth ∨ s.role.parent ≠ some (hd.srcModule, hd.srcHearth) then done s else
    let x := offset2 (pay c 0 8) (pay c 8 8) (pay c 16 8) (time16 s) (pay c 24 4) (pay c 28 4)
    let t := applyOffset s.time (!anyStepActive s) x
    done { s with
      time := { t with isSet := t.isSet || nbit hd.spare 0, lastExchange := t.ns }
      regs := { s.regs with timeUnlocked := false } }

/-- TIME_UNLOCK_EXPIRY: no exchange for 100 ms: module time runs unslewed, and TIME_UNLOCKED is set (R330). -/
def execTimeUnlockExpiry (s : State) : Host.Outcome State Fault Refusal :=
  if s.role.parent.isSome ∧ s.time.lastExchange + 100000000 ≤ s.time.ns then
    done { s with time := { s.time with slew := 0, half := false }, regs := { s.regs with timeUnlocked := true } }
  else nextOf s

/-! ### Signatures (R326, R438) -/

/-- Records that travel: severity 0 and 1, RETIRE, RESTORE and FORWARD_LOSS (R438). -/
def travels (r : AshRec) : Bool := decide (severity r.cls ≤ 1) || r.cls == 0x30 || r.cls == 0x31 || r.cls == 0x71

/-- A record's SIGNATURE (10) or TELEMETRY (11) cells: 32-byte pieces in order on channel 0. -/
def sendRecord (ty h : Nat) (hh : Hearth) (d : Dest) (bs : List Byte) : Hearth :=
  (List.range (ceilDiv bs.length 32)).foldl (fun hh k => sendCell h hh d ty 0 0 0 8 0 ((bs.drop (32 * k)).take 32)) hh

/-- The second of hearth h: up to 64 records go to the parent; those that stay behind are counted in one FORWARD_LOSS record.
While the parent context is LOST, all stay. -/
def forwardSecond (s : State) (m d h : Nat) : State :=
  let th := s.role.treeHearth
  let hh := hearthOf s h
  if !present hh.st then s else
  let l := (heldFrom hh hh.forwardFrom).filter travels
  let lost := !flueOn (hearthOf s th) ||
    (let p := peerOf (hearthOf s th) (ctxIndex m d 0); p.st == .lost && serves p m d)
  let n := if lost then 0 else min 64 l.length
  let s := (l.take n).foldl (fun s r =>
    updH s th (fun hh => sendRecord 10 th hh (.peer m d) (ashBytes h s.fuses.serial r))) s
  let s := updH s h (fun x => { x with forwardFrom := hh.ashNext })
  if n < l.length then
    onHearth s h (fun e x => logOf e x 0x0071 (pathOf 0 0 0 0 0 0) 0 (detailOf [(0, 8, l.length - n)]))
  else s

/-- The tree hearth sends the module's telemetry to the parent: the sensor records with their head (R326, R480; log 139), unless the parent's context is LOST. -/
def sendTelemetry (s : State) (m d : Nat) : State :=
  let th := s.role.treeHearth
  let hh := hearthOf s th
  let p := peerOf hh (ctxIndex m d 0)
  if !flueOn hh ∨ (p.st = .lost ∧ serves p m d) then s
  else updH s th (fun hh => sendRecord 11 th hh (.peer m d) (sensorArea s))

/-- SIGNATURE_FORWARD_TICK: one second of forwarding by every hearth of a module that has a parent (R438), and the module's
telemetry (R326; log 139). -/
def execSignatureForwardTick (s : State) : Host.Outcome State Fault Refusal :=
  match s.role.parent with
  | none => nextOf s
  | some (m, d) => done (sendTelemetry (allHearths.foldl (fun s h => forwardSecond s m d h) s) m d)

end Sys2Proof.Machine
end

