-- ==== Sys2Proof/Machine/Security.lean ====
section
/-! DEFINITION. Firmware staging and activation (R444 to R449), the identity key and attestation (R450 to R456), authorised
commands, debug access (R457 to R460) and the events of the trust unit. -/

namespace Sys2Proof.Machine

/-! ### Byte strings -/

/-- A digest as its fuse or field holds it, byte 0 lowest (R441). -/
def digestBytes (d : BitVec 256) : List Byte := leBytes 32 d.toNat

/-- n bytes at an offset of a byte string. -/
def cut (bs : List Byte) (lo n : Nat) : List Byte := (bs.drop lo).take n

/-- A little-endian field of a byte string. -/
def cutNum (bs : List Byte) (lo n : Nat) : Nat := ofLE (cut bs lo n)

/-! ### The fuse array (R441) -/

/-- A thermometer code of n ones. -/
def thermometer (n : Nat) : Nat := 2 ^ min n 64 - 1

/-- The fuse array as Table 14-2 lays it out. PUF_HELPER reads all ones once it is blown; before, it is the helper data, which
nothing but the identity engine reads. -/
def fuseWord (f : Fuses) : Nat :=
  f.rootHash.toNat + f.ownerHash.toNat * 2 ^ 256 + b2n f.ownerEn * 2 ^ 512 + b2n f.policySet * 2 ^ 513 + b2n f.policyKill * 2 ^ 514
    + b2n f.kill * 2 ^ 515 + f.grade.toNat * 2 ^ 516 + f.stepping.toNat * 2 ^ 520 + f.serial.toNat * 2 ^ 528
    + f.fusedW % 65536 * 2 ^ 592 + thermometer f.rollbackModule * 2 ^ 608 + thermometer f.rollbackHearth * 2 ^ 672
    + (if f.helperLeft = 0 then 2 ^ 7168 - 1 else Config.pufHelper.toNat) * 2 ^ 1024

/-! ### SIG_FAILS (R459) -/

/-- A failure that counts adds one to SIG_FAILS in flash; the eighth raises the alarm (R459, R461). -/
def countSig (s : State) : State :=
  if !s.flash.writable then s else
  let n := sat 15 (s.flash.sigFails + 1)
  let s := { s with flash := { s.flash with sigFails := n } }
  if 8 ≤ n then raiseAlarm s .signature else s

/-- A failure of Table 14-5 that counts in SIG_FAILS. -/
def sigCounts (d : Nat) : Bool := 2 ≤ d && d ≤ 6

/-- A security command fails with a detail of Table 14-5. -/
def failSecurity (s : State) (id d : Nat) : State :=
  let s := finish s id .rejectedSecurity d 0 0
  if sigCounts d then countSig s else s

/-- A success sets SIG_FAILS to 0. -/
def clearSig (s : State) : State := if s.flash.writable then { s with flash := { s.flash with sigFails := 0 } } else s

/-! ### Firmware images (R444, R445) -/

/-- Where the body of an image starts: the header, the root signature, and the owner's where OWNER_PUB is not zero. -/
def bodyAt (bs : List Byte) : Nat := 256 + 5396 + (if cutNum bs 0x70 60 = 0 then 0 else 5396)

/-- The bytes of the whole image. -/
def imageLen (bs : List Byte) : Nat := bodyAt bs + cutNum bs 0x0C 4

/-- Test 1 of R445: MAGIC, TARGET, SECVER and the reserved fields, and the lengths (log 50). -/
def headerOk (bs : List Byte) (target : Nat) : Bool :=
  cutNum bs 0 4 == 0x57465948 && cutNum bs 4 1 == target && decide (cutNum bs 5 1 ≤ 64) && cutNum bs 6 2 == 0
    && cutNum bs 0x6C 4 == 0 && cutNum bs 0xAC 84 == 0 && decide (256 ≤ bs.length) && decide (imageLen bs ≤ bs.length)

/-- The tests of R445 in order: the detail of the first that fails (Table 14-5). -/
def verifyImage (s : State) (bs : List Byte) (target : Nat) : Option Nat :=
  let f := s.fuses
  let head := cut bs 0 256
  let root := cut bs 0x30 60
  let own := cut bs 0x70 60
  if !headerOk bs target then some 1
  else if Config.sha256 root ≠ f.rootHash then some 2
  else if !Config.hssVerify root head (cut bs 256 5396) then some 3
  else if f.ownerEn ∧ (ofLE own = 0 ∨ Config.sha256 own ≠ f.ownerHash) then some 4
  else if f.ownerEn ∧ !Config.hssVerify own head (cut bs (256 + 5396) 5396) then some 5
  else if Config.sha256 (cut bs (bodyAt bs) (cutNum bs 0x0C 4)) ≠ BitVec.ofNat 256 (cutNum bs 0x10 32) then some 6
  else if cutNum bs 5 1 < (if target = 0 then f.rollbackModule else f.rollbackHearth) then some 7
  else none

/-- What the module keeps of an image that verified. -/
def imageOf (bs : List Byte) : FwImage :=
  { version := BitVec.ofNat 32 (cutNum bs 8 4), secver := cutNum bs 5 1, hash := Config.sha256 (bs.take (imageLen bs)) }

/-- What the checks of Table 12-5 look at in FW_STAGE. -/
def fwStageSpec (p : Pkt) : CmdSpec :=
  let addr := fld p 0x10 8
  let n := fld p 0x18 4
  let t := fld p 0x1C 1
  { code := 0x0020, fields := [(0x10, 8, full 8), (0x18, 4, full 4), (0x1C, 1, full 1)]
    lens := [(0x18, decide (1 ≤ n) && decide (n ≤ 67108864))], ranges := [(0x1C, decide (t ≤ 1))], bufs := [(0x10, addr, n)] }

/-- FW_STAGE (R448). -/
def execFwStage (p : Pkt) (s : State) : Host.Outcome State Fault Refusal :=
  let addr := fld p 0x10 8
  let n := fld p 0x18 4
  let t := fld p 0x1C 1
  done (submit s p (fwStageSpec p)
    (fun id s =>
      if s.trust.verifyFailed then finish s id .abortedFault 2 0 0 else
      match bufRead s addr n with
      | none => finish s id .abortedFault 0 0 0
      | some bs =>
        let s := bufTouch s addr n
        match verifyImage s bs t with
        | some d => failSecurity s id d
        | none =>
          let s := clearSig s
          if s.activation.any (fun a => a.target == t) then setWait s id (.fwStage t (imageOf bs))
          else finishStage s id t (imageOf bs)))

/-! ### Activation (R449) -/

/-- Something is staged for a target. -/
def stagedFor (s : State) (t : Nat) : Bool := if t = 0 then s.flash.modStaged else s.flash.hearthStaged

/-- The staged image becomes the active slot in flash. -/
def activateSlot (s : State) (t : Nat) : State :=
  let f := s.flash
  if t = 0 then { s with
    flash := { f with modActive := 1 - f.modActive, modStaged := false }, trust := { s.trust with measModuleStaged := 0 } }
  else { s with
    flash := { f with hearthActive := 1 - f.hearthActive, hearthStaged := false }
    trust := { s.trust with measHearthStaged := 0 } }

/-- What the checks of Table 12-5 look at in FW_ACTIVATE. -/
def fwActivateSpec (p : Pkt) (s : State) : CmdSpec :=
  let t := fld p 0x10 1
  { code := 0x0021, tree := true, need := if t = 1 then .some else .none, anyState := t != 1, hst := rdyFrz
    named := named p, fields := [(0x10, 1, full 1)], ranges := [(0x10, decide (t ≤ 1))]
    own := if stagedFor s t then none else some (.rejectedParameter, 0x10) }

/-- FW_ACTIVATE: the new active slot goes to flash, and the targets switch one at a time, after those of an activation that
runs (R449). -/
def execFwActivate (p : Pkt) (s : State) : Host.Outcome State Fault Refusal :=
  let t := fld p 0x10 1
  done (submit s p (fwActivateSpec p s)
    (fun id s =>
      if !s.flash.writable then finish s id .abortedFault 0 0 0 else
      let left := if t = 1 then named p else if s.standbyOk then [0, 1] else [0]
      setWait { activateSlot s t with
        activation := s.activation ++ [{ cmd := id, target := t, left := left, switched := 0 }] } id .fwActivate))

/-- The image that an activation switches to. -/
def activeImage (s : State) (t : Nat) : FwImage :=
  ((if t = 0 then mget none s.flash.modSlots s.flash.modActive
    else mget none s.flash.hearthSlots s.flash.hearthActive).getD {})

/-- The next target of an activation, or its end. -/
def nextTarget (s : State) (a : Activation) (rest : List Nat) (sw : W16) : State :=
  if rest = [] then finish { s with activation := s.activation.drop 1 } a.cmd .done 0 0 0
  else { s with activation := { a with left := rest, switched := sw } :: s.activation.drop 1 }

/-- FW_SWITCH_COMPLETE: the target whose turn it is resumes on the staged image. A hearth that does not is lost with its
management pair: it enters FAULTED, and the activation stops (R432, R449). -/
def execFwSwitchComplete (ok : Bool) (s : State) : Host.Outcome State Fault Refusal :=
  match s.activation with
  | [] => nextOf s
  | a :: _ => match a.left with
    | [] => nextOf s
    | h :: rest =>
      let img := activeImage s a.target
      if a.target = 0 then
        done (nextTarget { s with trust := { s.trust with measModule := img.hash, fwVersion := img.version } } a rest a.switched)
      else if !flueOn (hearthOf s h) then nextOf s
      else if ok then
        let s := updH s h (fun hh => { hh with fw := img.version })
        let s := { s with trust := { s.trust with measHearth := mput 0 s.trust.measHearth h img.hash } }
        done (nextTarget s a rest (a.switched ||| BitVec.ofNat 16 (2 ^ h)))
      else hearthEvent s h (fun e hh => fatal e hh 1 false)

/-! ### The identity key (R450 to R454) -/

/-- Reserve the next block of the identity key: END grows by 1,024 in flash (R452). -/
def reserveBlock (s : State) : State :=
  let e := s.flash.leafEnd + 1024
  { s with flash := { s.flash with leafEnd := e }, trust := { s.trust with leafEnd := e } }

/-- The scopes of debug access now open, together. -/
def debugScope (t : Trust) : BitVec 10 := List.foldl (fun a x => a ||| x.1) 0 t.debug

/-- FUSE_STATE of a statement (Table 14-8). -/
def fuseState (f : Fuses) : Nat :=
  b2n f.ownerEn + b2n f.policySet * 2 + b2n f.policyKill * 4 + f.grade.toNat * 16 + f.stepping.toNat * 2 ^ 8
    + f.fusedW % 65536 * 2 ^ 16 + f.rollbackModule % 128 * 2 ^ 32 + f.rollbackHearth % 128 * 2 ^ 40

/-- STATE of a statement (Table 14-8). -/
def trustState (s : State) : Nat :=
  let sc := (debugScope s.trust).toNat
  modCode s.mod + s.trust.sources.toNat * 4 + b2n (sc != 0) * 2 ^ 7 + sc * 2 ^ 8 + s.flash.sigFails % 1024 * 2 ^ 18

/-- Measurement of a hearth's running firmware; zero for a hearth that runs none. -/
def runningMeas (s : State) (h : Nat) : BitVec 256 :=
  if readyFaulted (hearthOf s h).st then mget 0 s.trust.measHearth h else 0

/-- The 640 bytes of a statement that are signed (Table 14-8). -/
def statement (s : State) (q : Nat) (nonce : BitVec 256) : List Byte :=
  leBytes 4 0x54415948 ++ leBytes 2 1 ++ zeros 2 ++ leBytes 4 8280 ++ zeros 4 ++ leBytes 8 s.fuses.serial.toNat ++ leBytes 8 q
    ++ leBytes 32 nonce.toNat ++ leBytes 4 (b2n s.flash.idValid * 2 ^ 31 + s.flash.moduleId.toNat)
    ++ leBytes 4 s.flash.bootCount ++ leBytes 8 s.time.ns
    ++ digestBytes (if s.ringsOn then s.trust.measModule else 0) ++ digestBytes s.trust.measModuleStaged
    ++ allHearths.flatMap (fun h => digestBytes (runningMeas s h)) ++ digestBytes s.trust.measHearthStaged
    ++ digestBytes s.fuses.rootHash ++ digestBytes s.fuses.ownerHash ++ leBytes 8 (fuseState s.fuses)
    ++ leBytes 8 (trustState s)
    ++ digestBytes (Config.sha256 (allHearths.flatMap (fun h => (census (hearthOf s h)).flatMap (fun e => leBytes 16 e.toNat))))
    ++ leBytes 60 Config.identityPub.toNat ++ zeros 4

/-- Sign and write a statement (R451 to R456): the reservation grows first where the block is used up (R453, R454). -/
def attestNow (s : State) (id addr : Nat) (nonce : BitVec 256) : State :=
  if s.fuses.kill then finish s id .rejectedSecurity 10 0 0
  else if s.trust.engineFailed then finish s id .abortedFault 1 0 0
  else if 2 ^ 30 ≤ s.trust.next then finish s id .abortedFault 2 0 0
  else if s.trust.next = s.trust.leafEnd ∧ !s.flash.writable then finish s id .abortedFault 1 0 0
  else
    let s := if s.trust.next = s.trust.leafEnd then reserveBlock s else s
    let q := s.trust.next
    let body := statement s q nonce
    reportAndFinish { s with trust := { s.trust with next := q + 1 } } id addr
      (body ++ leBytes 7640 (Config.hssSign q body).toNat) .done 0 q 0

/-- What the checks of Table 12-5 look at in ATTEST. -/
def attestSpec (p : Pkt) : CmdSpec :=
  let addr := fld p 0x30 8
  let n := fld p 0x38 4
  { code := 0x00A0, boot := true, fields := [(0x10, 32, full 32), (0x30, 8, full 8), (0x38, 4, full 4)]
    lens := [(0x38, decide (8280 ≤ n))], bufs := [(0x30, addr, n)] }

/-- ATTEST waits until the identity engine has started (R455). -/
def execAttest (p : Pkt) (s : State) : Host.Outcome State Fault Refusal :=
  let addr := fld p 0x30 8
  let nonce := BitVec.ofNat 256 (fld p 0x10 32)
  done (submit s p (attestSpec p)
    (fun id s =>
      if s.trust.engineOn ∨ s.trust.engineFailed ∨ s.fuses.kill then attestNow s id addr nonce
      else setWait s id (.attest (BitVec.ofNat 64 addr) nonce)))

/-- The ATTEST commands that wait for the identity engine go on (Table 14-7 event 5). -/
def serveAttests (s : State) : State :=
  s.started.foldl (fun s x => match x.wait with
    | some (.attest a nonce) => attestNow s x.id a.toNat nonce
    | _ => s) s

/-- IDENTITY_ENGINE_FAILURE: ATTEST fails with detail 1 from now on, one that waits at once; nothing else is affected. -/
def execIdentityEngineFailure (s : State) : Host.Outcome State Fault Refusal :=
  done (if s.trust.engineFailed then s else
    serveAttests (mantelFail { s with trust := { s.trust with engineFailed := true, engineOn := false } } 1))

/-- IDENTITY_ENGINE_START: the engine rebuilds the PUF secret, sets NEXT to END and reserves a block; waiting ATTEST commands go
on (Table 14-7 event 5, R446, R453). -/
def execIdentityEngineStart (writeOk : Bool) (s : State) : Host.Outcome State Fault Refusal :=
  if s.trust.engineOn ∨ s.trust.engineFailed ∨ s.fuses.kill ∨ s.mod = .alarm ∨ !s.power.booted ∨ !(s.ringsOn ∨ s.romEngine)
  then nextOf s
  else
    let e := s.flash.leafEnd
    let s := { s with trust := { s.trust with engineOn := true, next := e, leafEnd := e } }
    let s := if writeOk ∧ s.flash.writable then reserveBlock s else s
    done (serveAttests s)

/-! ### Authorised commands (R457) -/

/-- The authorisation block of a command: the detail of the first failure (R457, Table 14-5). `scope` is what SCOPE must be,
`timed` that DURATION must be 1 to 86,400 and not 0. -/
def authFails (s : State) (bs : List Byte) (opcode : Nat) (scope : Option Nat) (timed : Bool) : Option Nat :=
  let f := s.fuses
  let key := cut bs 0x28 60
  let sc := cutNum bs 6 2
  let dur := cutNum bs 0x20 4
  if cutNum bs 0 4 ≠ 0x55415948 ∨ cutNum bs 0x24 4 ≠ 0 ∨ cutNum bs 0x64 4 ≠ 0
      ∨ !(match scope with | some x => sc == x | none => decide (sc < 1024))
      ∨ !(if timed then decide (1 ≤ dur) && decide (dur ≤ 86400) else dur == 0) then some 1
  else if f.ownerEn ∧ Config.sha256 key ≠ f.ownerHash then some 4
  else if !f.ownerEn ∧ Config.sha256 key ≠ f.rootHash then some 2
  else if !Config.hssVerify key (bs.take 0x68) (cut bs 0x68 5396) then some 3
  else if cutNum bs 4 2 ≠ opcode ∨ cutNum bs 8 8 ≠ f.serial.toNat then some 9
  else match s.trust.challenge with
    | some c => if cutNum bs 0x10 16 = c.toNat then none else some 8
    | none => some 8

/-- Run an authorised command: its block is read and checked; acceptance consumes the challenge and clears SIG_FAILS (R457,
R459). -/
def authorised (s : State) (id addr opcode : Nat) (scope : Option Nat) (timed : Bool) (run : List Byte → State → State) :
    State :=
  match bufRead s addr 5500 with
  | none => finish s id .abortedFault 0 0 0
  | some bs =>
    let s := bufTouch s addr 5500
    match authFails s bs opcode scope timed with
    | some d => failSecurity s id d
    | none => run bs (clearSig { s with trust := { s.trust with challenge := none } })

/-- What the authorised commands check of AUTH and AUTH_BYTES. -/
def authLens (p : Pkt) : List (Nat × Bool) := [(0x20, fld p 0x20 4 == 5500)]

/-- What the checks of Table 12-5 look at in SET_ALARM_POLICY. -/
def setAlarmPolicySpec (p : Pkt) (s : State) : CmdSpec :=
  let pol := fld p 0x10 1
  let addr := fld p 0x18 8
  { code := 0x00A1, fields := [(0x10, 1, full 1), (0x18, 8, full 8), (0x20, 4, full 4)], lens := authLens p
    ranges := [(0x10, decide (pol ≤ 1))], bufs := [(0x18, addr, 5500)]
    own := if s.fuses.policySet then some (.rejectedState, stateDetail 3 15 9) else none }

/-- SET_ALARM_POLICY: POLICY_SET, and POLICY_KILL for POLICY 1; a second write is rejected (R460). -/
def execSetAlarmPolicy (p : Pkt) (s : State) : Host.Outcome State Fault Refusal :=
  let pol := fld p 0x10 1
  let addr := fld p 0x18 8
  done (submit s p (setAlarmPolicySpec p s)
    (fun id s => authorised s id addr 0x00A1 (some pol) false (fun _ s =>
      finish { s with fuses := { s.fuses with policySet := true, policyKill := s.fuses.policyKill || pol == 1 } }
        id .done 0 0 0)))

/-- What DEBUG_UNLOCK checks, by PHASE. -/
def debugSpec (p : Pkt) (response : Bool) : CmdSpec :=
  { code := 0x00A2
    fields := [(0x10, 1, full 1), (0x18, 8, if response then full 8 else 0), (0x20, 4, if response then full 4 else 0)]
    lens := if response then authLens p else [], ranges := [(0x10, decide (fld p 0x10 1 ≤ 1))]
    bufs := if response then [(0x18, fld p 0x18 8, 5500)] else [] }

/-- DEBUG_UNLOCK, PHASE 0: a fresh challenge takes the place of any live one (R457). -/
def execDebugUnlockChallenge (p : Pkt) (s : State) : Host.Outcome State Fault Refusal :=
  if fld p 0x10 1 = 1 then nextOf s else
  done (submit s p (debugSpec p false) (fun id s =>
    let c := Config.challenge s.fresh
    finish { s with fresh := s.fresh + 1, trust := { s.trust with challenge := some c } } id .done 0
      (c.toNat % 2 ^ 64) (c.toNat / 2 ^ 64)))

/-- DEBUG_UNLOCK, PHASE 1: debug access opens to the dies of SCOPE for DURATION seconds (R457, R458). -/
def execDebugUnlockResponse (p : Pkt) (s : State) : Host.Outcome State Fault Refusal :=
  let addr := fld p 0x18 8
  if fld p 0x10 1 ≠ 1 then nextOf s else
  done (submit s p (debugSpec p true) (fun id s =>
    authorised s id addr 0x00A2 none true (fun bs s =>
      finish { s with trust := { s.trust with
        debug := s.trust.debug ++ [(BitVec.ofNat 10 (cutNum bs 6 2), s.time.ns + cutNum bs 0x20 4 * 1000000000)] } }
        id .done 0 0 0)))

/-- What the checks of Table 12-5 look at in ZEROIZE. -/
def zeroizeSpec (p : Pkt) : CmdSpec :=
  let addr := fld p 0x18 8
  { code := 0x00A3, fields := [(0x10, 8, full 8), (0x18, 8, full 8), (0x20, 4, full 4)], lens := authLens p
    ranges := [(0x10, fld p 0x10 8 == 0x5A45524F495A4521)], bufs := [(0x18, addr, 5500)] }

/-- ZEROIZE: KILL, then every bit of PUF_HELPER (R460). -/
def execZeroize (p : Pkt) (s : State) : Host.Outcome State Fault Refusal :=
  let addr := fld p 0x18 8
  done (submit s p (zeroizeSpec p)
    (fun id s => authorised s id addr 0x00A3 (some 0) false (fun _ s =>
      finish { s with fuses := blowKill s.fuses } id .done 0 0 0)))

/-! ### Debug access (R458, R461) -/

/-- The SCOPE bit of a die: compute die k of hearth h is 10 h + k, base die h is 90 + h, the mantel is 99. -/
def scopeBit (die : Nat) : Nat := if die < 90 then die / 10 else if die < 99 then die - 90 else 9

/-- JTAG_INSTRUCTION: BYPASS, SAMPLE/PRELOAD, EXTEST and IDCODE (operands 0 to 3; log 16) are always answered; any other is a
debug access, which raises the alarm where access is not open for the die (R458, Table 14-10). -/
def execJtagInstruction (die ir : Nat) (s : State) : Host.Outcome State Fault Refusal :=
  if !s.power.mantelOn then nextOf s
  else if ir < 4 ∨ (debugScope s.trust).getLsbD (scopeBit die) then nextOf { s with rsp := .jtag true }
  else done { raiseAlarm s .debug with rsp := .jtag false }

/-- DEBUG_ACCESS_EXPIRY: the DURATION that ends first has elapsed, and the access it opened closes (R458). -/
def execDebugAccessExpiry (s : State) : Host.Outcome State Fault Refusal :=
  let l := s.trust.debug
  match l.findIdx? (fun x => l.all (fun y => decide (x.2 ≤ y.2))) with
  | some i => nextOf { s with trust := { s.trust with debug := l.eraseIdx i } }
  | none => nextOf s

/-- CHALLENGE_EXPIRY: the live challenge ends after 60 s (R457). -/
def execChallengeExpiry (s : State) : Host.Outcome State Fault Refusal :=
  nextOf { s with trust := { s.trust with challenge := none } }

end Sys2Proof.Machine
end

