-- ==== Sys2Proof/Machine/Clock.lean ====
section
/-! DEFINITION. One nanosecond of the mantel oscillator with nothing commanded: module time (R327, R328, R499), and the
rejection of a command whose opcode no row has (R387 check 1). -/

namespace Sys2Proof.Machine

/-- Advance module time by one nanosecond, slewing one nanosecond in 5,000 (200 parts per million), and at half rate
while the parent is behind by more than 10 µs (R328). -/
def tickTime (t : Time) : Time :=
  if t.half then
    -- half rate: one tick in every 2 ns, and the offset falls by the tick not taken
    if t.acc % 2 = 1 then
      let left := t.slew + 1
      { t with acc := if left < -10000 then t.acc + 1 else 0, slew := left, half := decide (left < -10000) }
    else { t with ns := t.ns + 1, acc := t.acc + 1 }
  else if t.slew = 0 then { t with ns := t.ns + 1, acc := 0 }
  else if t.acc < 4999 then { t with ns := t.ns + 1, acc := t.acc + 1 }
  else if 0 < t.slew then { t with ns := t.ns + 2, acc := 0, slew := t.slew - 1 }
  else { t with acc := 0, slew := t.slew + 1 }

/-- Half rate ends when a step of the module is RUNNING or FROZEN: every offset is slewed then (R328). -/
def timeFor (s : State) : Time :=
  if s.time.half && anyStepActive s then { s.time with half := false, acc := 0 } else s.time

/-! ### Opcodes that no row has (R387 check 1) -/

/-- A command's first slot as the source holds it: its opcode and header; its parameters are not looked at. -/
def headOfSource (s : State) (src : Src) : Option (Nat × Pkt) :=
  let read (bs : List Byte) : Nat × Pkt :=
    (ofLE (bs.take 2), { src := src, flags := bs.getD 2 0, slots := bs.getD 3 0, hostTag := BitVec.ofNat 32 (ofLE ((bs.drop 4).take 4))
                         hearths := 0, workload := 0, rsvd := 0, par := 0 })
  match src with
  | .ring n =>
    let q := mget {} s.regs.sq n
    some (read (hostBytes s (q.base.toNat * 4096 + 64 * q.head) 16))
  | _ => (cellCommand (cellsOf s src)).map read

/-- The sources that hold commands. -/
def sources (s : State) : List Src :=
  (List.range 8).map .ring ++ .parent :: s.linkCells.map (fun x => .linkLocal (x.1 / 16) (x.1 % 16))

/-- The command that the mantel reads next, when no row has its opcode. -/
def unknownNext (s : State) : Option (Nat × Pkt) :=
  (sources s).findSome? (fun src => match headOfSource s src with
    | none => none
    | some (code, p) =>
      if (packetOf code p).isNone && winner s src code p.flags.toNat p.slots.toNat 0 then some (code, p) else none)

/-- Take its slots and reject it with REJECTED_OPCODE and the opcode as detail. -/
def rejectUnknown (s : State) : State :=
  match unknownNext s with
  | none => s
  | some (code, p) =>
    if !slotsInWindow s p then
      match ringOf p.src with
      | some n => stopRing (blocked s none ((mget {} s.regs.sq n).base.toNat * 4096)) n 4
      | none => s
    else
      let s := takeSlots s p
      post s { src := p.src, opcode := code, hostTag := p.hostTag, sqHead := headOf s p.src } .rejectedOpcode code 0 0 none

/-- The time bases of the hearths in that nanosecond: locked to module time, or running on their own where the link is lost
(R13, R328). -/
def tickBases (s : State) : State :=
  onHearths (lockTime s) (allHearths.filter (fun h => (hearthOf s h).rail && (hearthOf s h).linkLost))
    (fun _ hh => { hh with timeBase := hh.timeBase + 1 })

/-- One nanosecond with nothing commanded. -/
def tick (s : State) : State := settle (rejectUnknown (tickBases { s with time := tickTime (timeFor s) }))

end Sys2Proof.Machine
end

