-- ==== Sys2Proof/Machine/Info.lean ====
section
/-! DEFINITION. Information and signature commands (Table 12-10). -/

namespace Sys2Proof.Machine

/-- What the checks of Table 12-5 look at in NOP. -/
def nopSpec : CmdSpec :=
  { code := 0x0001, boot := true, tree := true }

/-- NOP: RESULT0 is module time when executed (Table 12-10). -/
def execNop (p : Pkt) (s : State) : Host.Outcome State Fault Refusal :=
  nextOf (submit s p nopSpec (fun id s => finish s id .done 0 s.time.ns 0))

/-- PAD: its slots are skipped and no record is written; a bad count or one that overruns the ring is rejected (R378). -/
def execPad (p : Pkt) (s : State) : Host.Outcome State Fault Refusal :=
  nextOf (
    if !startable s 0x0002 p then s
    else if !slotsInWindow s p then
      match ringOf p.src with
      | some n => stopRing (blocked s none ((mget {} s.regs.sq n).base.toNat * 4096)) n 4
      | none => s
    else
      let past := overruns s p
      let s := takeSlots s p
      if past ∨ p.slots = 0 ∨ 16 < p.slots.toNat then
        post s { src := p.src, opcode := 2, hostTag := p.hostTag, sqHead := headOf s p.src } .rejectedLength 3 0 0 none
      else s)

/-- Module totals: enabled matrix tiles, enabled function tiles, tiles retired in service. -/
def tileTotals (s : State) : Nat × Nat × Nat :=
  allHearths.foldl (fun a h =>
    let hh := hearthOf s h
    let c := tileCounts hh
    let r := (List.range 10).foldl (fun a d => a + popcount 48 (dieRetired (dieOf hh d))) 0
    (a.1 + c.1, a.2.1 + c.2, a.2.2 + r)) (0, 0, 0)

/-- The staged module firmware's version, 0 when none is staged. -/
def stagedVersion (s : State) : Nat :=
  if s.flash.modStaged then
    match mget none s.flash.modSlots (1 - s.flash.modActive) with
    | some i => i.version.toNat
    | none => 0
  else 0

/-- What the checks of Table 12-5 look at in IDENTIFY. -/
def identifySpec : CmdSpec :=
  { code := 0x0010, boot := true, alarm := true }

/-- IDENTIFY: two records (R394, Table 12-11). -/
def execIdentify (p : Pkt) (s : State) : Host.Outcome State Fault Refusal :=
  nextOf (submit s p identifySpec (fun id s =>
    let (m, f, r) := tileTotals s
    finish s id .done 0 (regIdent s) (m * 2 ^ 48 + f * 2 ^ 32 + r * 2 ^ 16 + hearthMask s readyFrozen)
      (some (s.fuses.serial.toNat, 0x000C * 2 ^ 32 + stagedVersion s,
        s.role.role * 2 ^ 19 + b2n s.flash.idValid * 2 ^ 18 + s.flash.moduleId.toNat, s.flash.bootCount))))

/-- Sub-channel i is retired: out of the map, or leaving it in a reshape (R427). -/
def subGone (hh : Hearth) (i : Nat) : Bool :=
  hh.subsOut.contains i || (match hh.reshape with | some r => r.leaving && r.sub == i | none => false)

/-- The working lanes of an off-package port: those of its link, or, before it trains, all that are neither retired nor in
training (Table 2-28: 4 at reset). -/
def workingLanes (hh : Hearth) (t : Nat) : Nat :=
  let p : FPort := mget {} hh.ports t
  if p.st = .up ∨ p.st = .resync then popcount 4 p.lanes.toNat
  else ((List.range 4).filter (fun l => !hh.lanesOut.contains (4 * t + l) && !nbit p.training.toNat l)).length

/-- JD_UNIT_STATUS of a base-die unit (Table 2-28): kind 2 slice group, 3 memory port, 4 flue port. -/
def regUnit (hh : Hearth) (kind i : Nat) : Nat :=
  let c := mget {} hh.cnt (kind * 1024 + i)
  let mask := if kind = 2 then maskOf ((List.range 16).filter (fun j => !sliceIn hh (16 * i + j)))
    else if kind = 3 then maskOf ((List.range 2).filter (fun j => subGone hh (2 * i + j)))
    else maskOf ((List.range 4).filter (fun l => hh.lanesOut.contains (4 * i + l)))
  let gone := if kind = 2 then mask == 0xFFFF else if kind = 3 then mask == 3 else hh.portsOut.contains i
  let lanes := if kind = 4 then (if gone then 0 else if i < 6 then workingLanes hh i else 4) else 0
  let st := if gone then 2 else if mask ≠ 0 then 1 else if hh.st = .frozen then 3 else 0
  st * 2 ^ 61 + kind * 2 ^ 58 + i * 2 ^ 53 + lanes * 2 ^ 50 + mask * 2 ^ 32 + c.ce * 2 ^ 16 + c.ue

/-- A hearth's block of GET_HEALTH (Table 12-12). -/
def healthBlock (hh : Hearth) : List Byte :=
  if !present hh.st then leBytes 8 (regHearthState hh) ++ zeros 16376 else
  leBytes 8 (regHearthState hh) ++ leBytes 8 (sat 64 hh.holeReads) ++ leBytes 8 (sat 64 hh.holeWrites) ++ zeros 40
    ++ (List.range 32).flatMap (fun i => leBytes 8 (regUnit hh 2 i))
    ++ (List.range 24).flatMap (fun i => leBytes 8 (regUnit hh 3 i))
    ++ (List.range 14).flatMap (fun i => leBytes 8 (regUnit hh 4 i))
    ++ (List.range 14).flatMap (fun i => leBytes 8 (regFlueLink (mget {} hh.ports i)))
    ++ leBytes 8 (regFlueCtrl hh) ++ zeros (0x1000 - 0x2E8)
    ++ (List.range 1024).flatMap (fun i => leBytes 8 (regStoker (mget {} hh.threads i))) ++ zeros (0x4000 - 0x3000)

/-- The RC fields of a hearth's block clear (R395). -/
def clearHealthBlock (hh : Hearth) : Hearth :=
  if !present hh.st then hh else
  { hh with
    cnt := mmap {} (fun _ c => { c with ce := 0, ue := 0 }) hh.cnt
    ports := mmap {} (fun _ p => { p with dropped := 0, resyncs := 0 }) hh.ports }

/-- What the checks of Table 12-5 look at in GET_HEALTH. -/
def getHealthSpec (p : Pkt) : CmdSpec :=
  let peers := fld p 0x1C 1 % 2 = 1
  let first := fld p 0x20 4
  let count := fld p 0x24 2
  let hs := named p
  let need := 64 + hs.length * 16384 + (if peers then hs.length * 16 * count else 0)
  { code := 0x0011, boot := true, alarm := true
    fields := [(0x10, 8, full 8), (0x18, 4, full 4), (0x1C, 1, 1), (0x20, 4, if peers then full 4 else 0),
      (0x24, 2, if peers then full 2 else 0)]
    lens := [(0x18, decide (need ≤ fld p 0x18 4)), (0x24, !peers || (1 ≤ count && count ≤ 4096))]
    ranges := [(0x20, !peers || first + count ≤ 262144)]
    bufs := [(0x10, fld p 0x10 8, fld p 0x18 4)] }

/-- GET_HEALTH: head, a block per named hearth, and peer contexts with PEERS (R395). -/
def execGetHealth (p : Pkt) (s : State) : Host.Outcome State Fault Refusal :=
  let peers := fld p 0x1C 1 % 2 = 1
  let first := fld p 0x20 4
  let count := fld p 0x24 2
  let hs := named p
  nextOf (submit s p (getHealthSpec p)
    (fun id s =>
      let head := leBytes 8 (regHealth s) ++ leBytes 8 s.time.ns ++ leBytes 8 (regPowerCap s) ++ leBytes 8 (regAlarm s)
        ++ leBytes 8 (regCap s) ++ zeros 24
      let body := head ++ hs.flatMap (fun h => healthBlock (hearthOf s h))
        ++ (if peers then hs.flatMap (fun h => (List.range count).flatMap (fun i =>
            leBytes 16 (if present (hearthOf s h).st then regPeer (peerOf (hearthOf s h) (first + i)) else 0))) else [])
      let s' := hs.foldl (fun s h => updH s h clearHealthBlock) (clearHealth s)
      reportAndFinish s' id (fld p 0x10 8) body .done 0 0 0))

/-- What the checks of Table 12-5 look at in READ_CENSUS. -/
def readCensusSpec (p : Pkt) : CmdSpec :=
  let n := (named p).length
  { code := 0x0012, need := .some, fields := [(0x10, 8, full 8), (0x18, 4, full 4)]
    lens := [(0x18, decide (max 1 (160 * n) ≤ fld p 0x18 4))], bufs := [(0x10, fld p 0x10 8, fld p 0x18 4)] }

/-- READ_CENSUS: entries of dies 0 to 9 of each named hearth (R24). -/
def execReadCensus (p : Pkt) (s : State) : Host.Outcome State Fault Refusal :=
  nextOf (submit s p (readCensusSpec p)
    (fun id s =>
      let bs := (named p).flatMap (fun h => (census (hearthOf s h)).flatMap (fun e => leBytes 16 e.toNat))
      let t := (named p).foldl (fun (a : Nat × Nat) h =>
        let c := tileCounts (hearthOf s h); (a.1 + c.1, a.2 + c.2)) (0, 0)
      reportAndFinish s id (fld p 0x10 8) bs .done 0 (t.1 * 2 ^ 16 + t.2) 0))

/-- What the checks of Table 12-5 look at in READ_SIGNATURES. -/
def readSignaturesSpec (p : Pkt) : CmdSpec :=
  { code := 0x0080, boot := true, alarm := true, need := .one
    fields := [(0x10, 8, full 8), (0x18, 4, full 4), (0x20, 8, full 8)]
    lens := [(0x18, decide (1 ≤ fld p 0x18 4))], bufs := [(0x10, fld p 0x10 8, fld p 0x18 4)] }

/-- READ_SIGNATURES: whole records from START while they fit (Table 12-10, R435). -/
def execReadSignatures (p : Pkt) (s : State) : Host.Outcome State Fault Refusal :=
  nextOf (submit s p (readSignaturesSpec p)
    (fun id s =>
      let hh := hearthOf s (named1 p)
      let recs := heldFrom hh (fld p 0x20 8)
      let fit := recs.take (fld p 0x18 4 / 512)
      let nxt := match recs.drop (fld p 0x18 4 / 512) with | r :: _ => r.seq | [] => hh.ashNext
      reportAndFinish s id (fld p 0x10 8) (fit.flatMap (ashBytes (named1 p) s.fuses.serial)) .done 0 fit.length nxt))

/-- What the checks of Table 12-5 look at in CLEAR_SIGNATURES. -/
def clearSignaturesSpec : CmdSpec :=
  { code := 0x0081, need := .one, fields := [(0x10, 8, full 8)] }

/-- CLEAR_SIGNATURES: records below BEFORE are cleared (Table 12-10). -/
def execClearSignatures (p : Pkt) (s : State) : Host.Outcome State Fault Refusal :=
  nextOf (submit s p clearSignaturesSpec
    (fun id s =>
      let h := named1 p
      let gone := (hearthOf s h).ash.filter (fun x => x.2.seq < fld p 0x10 8)
      let s := updH s h (fun hh => { hh with ash := hh.ash.filter (fun x => !(x.2.seq < fld p 0x10 8)) })
      finish s id .done 0 gone.length 0))

end Sys2Proof.Machine
end

