-- ==== Sys2Proof/Machine/Progress.lean ====
section
/-! DEFINITION. Progress (R97 to R104): the wait-for graph, spill rounds and DEADLOCK. -/

namespace Sys2Proof.Machine

/-- Where the pairs of a cycle or chain start: the unit blocked longest, of those blocked since one instant that of the lowest
key (R103). A unit with no note is blocked since now. -/
def longest (hh : Hearth) (now : Nat) (l : List (UnitRef × WaitEdge)) : Nat :=
  let key (x : UnitRef × WaitEdge) : Nat :=
    ((hh.blocked.find? (fun b => b.1 == x.1)).map (·.2)).getD now * 2 ^ 24 + unitKey x.1 0
  (l.findIdx? (fun x => l.all (fun y => key x ≤ key y))).getD 0

/-- Some walk of blocked units: its pairs from the unit blocked longest, and how many the whole cycle or chain has. Along a
cycle the pairs go round; along a chain they go to its end. DEDUCED, log 85. -/
def pairsOf (hh : Hearth) (now : Nat) (w : List (UnitRef × WaitEdge) × WalkEnd) : List (UnitRef × WaitEdge) × Nat :=
  match w.2 with
  | .cycle u =>
    let c := w.1.dropWhile (fun x => x.1 != u)
    let i := longest hh now c
    (c.drop i ++ c.take i, c.length)
  | _ => (w.1.drop (longest hh now w.1), w.1.length)

/-- The walks from the blocked units of a step, by unit key order of its section. -/
def walks (hh : Hearth) (st : Step) : List (List (UnitRef × WaitEdge) × WalkEnd) :=
  let us := secUnits hh st
  (us.filter (blockedUnit hh st)).map (fun u => walk hh st (us.length + 2) u [])

/-- The first cycle or chain that ends inside the hearth, if any (R99). -/
def stuck (hh : Hearth) (st : Step) : Option (List (UnitRef × WaitEdge) × WalkEnd) :=
  (walks hh st).find? (fun w => w.2 != .remote)

/-- A wait-for pair (Table 3-6). -/
def pairWord (x : UnitRef × WaitEdge) : Nat :=
  x.1.kind.toNat * 2 ^ 29 + x.1.id.toNat * 2 ^ 13 + x.2.dir * 2 ^ 12 + x.2.stream % 16 * 2 ^ 8 + x.2.reason * 2 ^ 4

/-- DEADLOCK (R102, R103): the pairs, and the number of the whole cycle or chain. -/
def deadlock (e : Env) (hh : Hearth) (st : Step) (w : List (UnitRef × WaitEdge) × Nat) : Hearth :=
  let l := w.1
  let n := w.2
  let path := match l.head? with | some x => refPath x.1 | none => 0
  let det := detailOf ((List.range (min 64 n)).map (fun i =>
    (4 * i, 4, match l[i]? with | some x => pairWord x | none => 0)))
  let hh := logStep e hh (some st) 0 0x0050 path (n % 65536 + b2n (decide (64 < n)) * 65536) det
  endRun e (updStep hh st.id (fun x => { x with det := n })) .deadlock

/-- Token a, at place i of its store, is older than b at place j: nearer to the tile's lowest open tag, then of the lower SEQ
(R100), then of the earlier arrival. DESIGN CHOICE, log 118. -/
def olderTok (base : W16) (a b : Tok × Nat) : Bool :=
  let da := (a.1.tag - base).toNat
  let db := (b.1.tag - base).toNat
  decide (da < db) || (da == db && (decide (a.1.seq.toNat < b.1.seq.toNat) || (a.1.seq == b.1.seq && decide (a.2 < b.2))))

/-- The n youngest of some tokens in order of arrival. -/
def youngest {α : Type} (f : α → Tok) (base : W16) (n : Nat) (l : List α) : List α :=
  let p := l.zip (List.range l.length)
  (p.filter (fun a => (p.filter (fun b => olderTok base (f a.1, a.2) (f b.1, b.2))).length < n)).map (·.1)

/-- What a spill round moves (R100): from a full queue the youngest half, from a full match store the youngest 128. The
second number is the input, and 16 more for an entry of the match store. -/
def spillSet (hh : Hearth) (st : Step) : List (Nat × Nat × Tok) :=
  (secTiles hh st.ctx st.ran).flatMap (fun v =>
    let t := tileAt hh v
    let base := baseTag t st
    let queues := (List.range 16).flatMap (fun n =>
      let q := (inLive t n).queue
      let free := q.filter (fun k => !hh.spill.contains (v, n, k))
      if free.length < 8 then [] else (youngest id base 4 free).map (fun k => (v, n, k)))
    let store := if isFn v ∧ 256 ≤ t.matches_.length then
        (youngest (fun (m : MatchEntry) => m.tok) base 128 t.matches_).map (fun m => (v, 16 + m.inp, m.tok)) else []
    queues ++ store)

/-- The section holds tokens, or a sink has not retired a tag that a source has issued (R97). -/
def tokensHeld (hh : Hearth) (st : Step) : Bool :=
  (secTiles hh st.ctx st.ran).any (fun v =>
    let t := tileAt hh v
    t.matches_ != [] || t.staging != [] || t.ins.any (fun x => x.2.queue != []))
  || (secThreads hh st.ctx st.ran).any (fun x =>
    let m := (stkOf x.2.body).mode
    (m == 0 || m == 2 || m == 4) && decide (retiredTags hh st < (threadAt hh x.1).next))
  || (secEps hh st.ctx st.ran).any (fun x =>
    let y := epAt hh x.1
    epSource (epOf x.2.body) &&
      (decide (retiredTags hh st < y.donePre) || y.done.any (fun i => decide (retiredTags hh st ≤ i))))

/-- PROGRESS_COUNT_TRIP (R97 to R102): a spill round starts, one remote wait is counted, or the step ends with DEADLOCK. -/
def execProgressCountTrip (h : Nat) (s : State) : Host.Outcome State Fault Refusal :=
  hearthEvent s h (fun e hh =>
    match runStep hh with
    | none => hh
    | some st =>
      if st.state ≠ .running ∨ hh.spilling ∨ hh.arb.isSome ∨ !tokensHeld hh st ∨
          (secTiles hh st.ctx st.ran).any (fun v => (tileAt hh v).cur.isSome) then hh
      else
        let end_ (w : List (UnitRef × WaitEdge) × WalkEnd) : Hearth := deadlock e hh st (pairsOf hh e.now w)
        match stuck hh st with
        | none =>
          if 8 ≤ st.streak then end_ ((walks hh st).headD ([], .remote))
          else updStep hh st.id (fun x => { x with remoteWaits := sat 32 (x.remoteWaits + 1) })
        | some w =>
          let n := 128 * (spillSet hh st).length
          if 8 ≤ st.streak ∨ hh.spillFree < n then end_ w
          else { hh with spilling := true, spillFree := hh.spillFree - n, spillBusy := n })

/-- Remove one match-store entry. -/
def takeMatch (l : List MatchEntry) (n : Nat) (k : Tok) : List MatchEntry :=
  match l.findIdx? (fun m => m.inp == n && m.tok == k) with
  | some i => l.eraseIdx i
  | none => l

/-- SPILL_ROUND_COMPLETE (R100, R101): the tokens are in the spill area; the progress count starts again. -/
def execSpillRoundComplete (h : Nat) (s : State) : Host.Outcome State Fault Refusal :=
  hearthEvent s h (fun _ hh =>
    match runStep hh with
    | none => hh
    | some st =>
      if !hh.spilling ∨ !syncState st then hh else
      let free := hh.spillFree + hh.spillBusy
      let l := (spillSet hh st).take (free / 128)
      let hh := l.foldl (fun hh x =>
        if x.2.1 < 16 then hh
        else updTile hh x.1 (fun t => { t with matches_ := takeMatch t.matches_ (x.2.1 - 16) x.2.2 })) hh
      let hh := { hh with spill := hh.spill ++ l, spilling := false, spillFree := free - 128 * l.length, spillBusy := 0 }
      updStep hh st.id (fun x => { x with
        spillRounds := sat 32 (x.spillRounds + 1), streak := x.streak + 1
        spillPeak := sat 32 (max x.spillPeak (128 * hh.spill.length)) }))

end Sys2Proof.Machine
end

