-- ==== Sys2Proof/Machine/Dispatch.lean ====
section
/-! DEFINITION. The effect of each command: one arm per constructor. -/

namespace Sys2Proof.Machine

def exec (i : Instr) (s : State) : Host.Outcome State Fault Refusal :=
  match i with
  | .nop p => Sys2Proof.Machine.execNop p s
  | .pad p => Sys2Proof.Machine.execPad p s
  | .identify p => Sys2Proof.Machine.execIdentify p s
  | .getHealth p => Sys2Proof.Machine.execGetHealth p s
  | .readCensus p => Sys2Proof.Machine.execReadCensus p s
  | .auditLedgers p => Sys2Proof.Machine.execAuditLedgers p s
  | .readSignatures p => Sys2Proof.Machine.execReadSignatures p s
  | .clearSignatures p => Sys2Proof.Machine.execClearSignatures p s
  | .fwStage p => Sys2Proof.Machine.execFwStage p s
  | .fwActivate p => Sys2Proof.Machine.execFwActivate p s
  | .loadImage p => Sys2Proof.Machine.execLoadImage p s
  | .dropImage p => Sys2Proof.Machine.execDropImage p s
  | .readLoadReport p => Sys2Proof.Machine.execReadLoadReport p s
  | .launchStep p => Sys2Proof.Machine.execLaunchStep p s
  | .preemptStep p => Sys2Proof.Machine.execPreemptStep p s
  | .preemptStepHalt p => Sys2Proof.Machine.execPreemptStepHalt p s
  | .preemptStepSave p => Sys2Proof.Machine.execPreemptStepSave p s
  | .resumeStep p => Sys2Proof.Machine.execResumeStep p s
  | .abortStep p => Sys2Proof.Machine.execAbortStep p s
  | .saveState p => Sys2Proof.Machine.execSaveState p s
  | .restoreState p => Sys2Proof.Machine.execRestoreState p s
  | .copy p => Sys2Proof.Machine.execCopy p s
  | .fill p => Sys2Proof.Machine.execFill p s
  | .setClassPolicy p => Sys2Proof.Machine.execSetClassPolicy p s
  | .setShares p => Sys2Proof.Machine.execSetShares p s
  | .setSharesRemove p => Sys2Proof.Machine.execSetSharesRemove p s
  | .setRole p => Sys2Proof.Machine.execSetRole p s
  | .setRoutes p => Sys2Proof.Machine.execSetRoutes p s
  | .flueUp p => Sys2Proof.Machine.execFlueUp p s
  | .flueDown p => Sys2Proof.Machine.execFlueDown p s
  | .syncTimeSet p => Sys2Proof.Machine.execSyncTimeSet p s
  | .syncTimeSlew p => Sys2Proof.Machine.execSyncTimeSlew p s
  | .retireUnit p => Sys2Proof.Machine.execRetireUnit p s
  | .restoreUnit p => Sys2Proof.Machine.execRestoreUnit p s
  | .resetHearth p => Sys2Proof.Machine.execResetHearth p s
  | .moduleWarmReset p => Sys2Proof.Machine.execModuleWarmReset p s
  | .setPowerCap p => Sys2Proof.Machine.execSetPowerCap p s
  | .sampleStart p => Sys2Proof.Machine.execSampleStart p s
  | .sampleStop p => Sys2Proof.Machine.execSampleStop p s
  | .sampleRead p => Sys2Proof.Machine.execSampleRead p s
  | .calibrationRead p => Sys2Proof.Machine.execCalibrationRead p s
  | .calibrationWrite p => Sys2Proof.Machine.execCalibrationWrite p s
  | .calibrationReset p => Sys2Proof.Machine.execCalibrationReset p s
  | .attest p => Sys2Proof.Machine.execAttest p s
  | .setAlarmPolicy p => Sys2Proof.Machine.execSetAlarmPolicy p s
  | .debugUnlockChallenge p => Sys2Proof.Machine.execDebugUnlockChallenge p s
  | .debugUnlockResponse p => Sys2Proof.Machine.execDebugUnlockResponse p s
  | .zeroize p => Sys2Proof.Machine.execZeroize p s
  | .sqDoorbell n value => Sys2Proof.Machine.execSqDoorbell n value s
  | .cqHeadWrite n value => Sys2Proof.Machine.execCqHeadWrite n value s
  | .sqEnable n value => Sys2Proof.Machine.execSqEnable n value s
  | .sqDisable n value => Sys2Proof.Machine.execSqDisable n value s
  | .cqEnable n value => Sys2Proof.Machine.execCqEnable n value s
  | .cqDisable n value => Sys2Proof.Machine.execCqDisable n value s
  | .powerCapWrite value => Sys2Proof.Machine.execPowerCapWrite value s
  | .biasWrite n value => Sys2Proof.Machine.execBiasWrite n value s
  | .healthRead => Sys2Proof.Machine.execHealthRead s
  | .hdmDecoderCommit d hpa size skip ways => Sys2Proof.Machine.execHdmDecoderCommit d hpa size skip ways s
  | .registerWrite offset size value => Sys2Proof.Machine.execRegisterWrite offset size value s
  | .cxlMemRead dpa => Sys2Proof.Machine.execCxlMemRead dpa s
  | .cxlMemWrite dpa data mask => Sys2Proof.Machine.execCxlMemWrite dpa data mask s
  | .hostBiasAccess h addr line => Sys2Proof.Machine.execHostBiasAccess h addr line s
  | .hotReset => Sys2Proof.Machine.execHotReset s
  | .d3hotEntry => Sys2Proof.Machine.execD3hotEntry s
  | .d0Return => Sys2Proof.Machine.execD0Return s
  | .cxlLinkTraining cxl width speed => Sys2Proof.Machine.execCxlLinkTraining cxl width speed s
  | .pcieRefclkLoss => Sys2Proof.Machine.execPcieRefclkLoss s
  | .powerUp => Sys2Proof.Machine.execPowerUp s
  | .inputOutOfRange => Sys2Proof.Machine.execInputOutOfRange s
  | .perstAssert => Sys2Proof.Machine.execPerstAssert s
  | .perstRelease => Sys2Proof.Machine.execPerstRelease s
  | .perstWaitExpiry => Sys2Proof.Machine.execPerstWaitExpiry s
  | .moduleFirmwareStart => Sys2Proof.Machine.execModuleFirmwareStart s
  | .bootRomRingEngine => Sys2Proof.Machine.execBootRomRingEngine s
  | .hearthPowerOn h => Sys2Proof.Machine.execHearthPowerOn h s
  | .hearthBootComplete h ok => Sys2Proof.Machine.execHearthBootComplete h ok s
  | .identityEngineStart writeOk => Sys2Proof.Machine.execIdentityEngineStart writeOk s
  | .tokenShare demand => Sys2Proof.Machine.execTokenShare demand s
  | .chargeReport h => Sys2Proof.Machine.execChargeReport h s
  | .powerOvershoot watts => Sys2Proof.Machine.execPowerOvershoot watts s
  | .thermalCheck h eighths => Sys2Proof.Machine.execThermalCheck h eighths s
  | .thermalShutdown h => Sys2Proof.Machine.execThermalShutdown h s
  | .mantelOvertemp => Sys2Proof.Machine.execMantelOvertemp s
  | .clockStepChange h step => Sys2Proof.Machine.execClockStepChange h step s
  | .sensorUpdate readings => Sys2Proof.Machine.execSensorUpdate readings s
  | .cellInject h t ch => Sys2Proof.Machine.execCellInject h t ch s
  | .linkCreditReturn h t word => Sys2Proof.Machine.execLinkCreditReturn h t word s
  | .eqRequest h t word => Sys2Proof.Machine.execEqRequest h t word s
  | .codewordUncorrectable h t cells => Sys2Proof.Machine.execCodewordUncorrectable h t cells s
  | .resyncRequest h t => Sys2Proof.Machine.execResyncRequest h t s
  | .resyncReport h t word => Sys2Proof.Machine.execResyncReport h t word s
  | .laneEvent h t lane cause margin => Sys2Proof.Machine.execLaneEvent h t lane cause margin s
  | .laneRetrainComplete h t lane ok => Sys2Proof.Machine.execLaneRetrainComplete h t lane ok s
  | .laneChange h t lanesFar => Sys2Proof.Machine.execLaneChange h t lanesFar s
  | .linkTrainingComplete h t lanes lanesFar => Sys2Proof.Machine.execLinkTrainingComplete h t lanes lanesFar s
  | .linkTrainingTimeout h t => Sys2Proof.Machine.execLinkTrainingTimeout h t s
  | .flueDownDrainEnd h t => Sys2Proof.Machine.execFlueDownDrainEnd h t s
  | .flueRefclkLoss => Sys2Proof.Machine.execFlueRefclkLoss s
  | .flueRefclkHoldoverExpiry => Sys2Proof.Machine.execFlueRefclkHoldoverExpiry s
  | .transitCell h t c => Sys2Proof.Machine.execTransitCell h t c s
  | .write h t c => Sys2Proof.Machine.execWrite h t c s
  | .readReq h t c => Sys2Proof.Machine.execReadReq h t c s
  | .readReply h t c => Sys2Proof.Machine.execReadReply h t c s
  | .ack h t c => Sys2Proof.Machine.execAck h t c s
  | .nack h t c => Sys2Proof.Machine.execNack h t c s
  | .open h t c => Sys2Proof.Machine.execOpen h t c s
  | .openAck h t c => Sys2Proof.Machine.execOpenAck h t c s
  | .reset h t c => Sys2Proof.Machine.execReset h t c s
  | .command h t c => Sys2Proof.Machine.execCommand h t c s
  | .completion h t c => Sys2Proof.Machine.execCompletion h t c s
  | .syncArrive h t c => Sys2Proof.Machine.execSyncArrive h t c s
  | .syncRelease h t c => Sys2Proof.Machine.execSyncRelease h t c s
  | .combine h t c => Sys2Proof.Machine.execCombine h t c s
  | .timeQuery h t c => Sys2Proof.Machine.execTimeQuery h t c s
  | .timeAnswer h t c => Sys2Proof.Machine.execTimeAnswer h t c s
  | .signature h t c => Sys2Proof.Machine.execSignature h t c s
  | .telemetry h t c => Sys2Proof.Machine.execTelemetry h t c s
  | .token h t c => Sys2Proof.Machine.execToken h t c s
  | .credit h t c => Sys2Proof.Machine.execCredit h t c s
  | .writeDone h t c => Sys2Proof.Machine.execWriteDone h t c s
  | .accessFault h t c => Sys2Proof.Machine.execAccessFault h t c s
  | .dropped h t c => Sys2Proof.Machine.execDropped h t c s
  | .ackDelayExpiry h ctx => Sys2Proof.Machine.execAckDelayExpiry h ctx s
  | .resendTimeout h ctx => Sys2Proof.Machine.execResendTimeout h ctx s
  | .writeDoneTimer h k => Sys2Proof.Machine.execWriteDoneTimer h k s
  | .damperLevelFall h t => Sys2Proof.Machine.execDamperLevelFall h t s
  | .scheduleSlotOpen h e slot => Sys2Proof.Machine.execScheduleSlotOpen h e slot s
  | .timeExchangeTick => Sys2Proof.Machine.execTimeExchangeTick s
  | .timeUnlockExpiry => Sys2Proof.Machine.execTimeUnlockExpiry s
  | .signatureForwardTick => Sys2Proof.Machine.execSignatureForwardTick s
  | .endpointTokenSend h e => Sys2Proof.Machine.execEndpointTokenSend h e s
  | .putTag h e => Sys2Proof.Machine.execPutTag h e s
  | .getTag h e => Sys2Proof.Machine.execGetTag h e s
  | .contributeTag h e => Sys2Proof.Machine.execContributeTag h e s
  | .endpointCombineSum h e tag => Sys2Proof.Machine.execEndpointCombineSum h e tag s
  | .tokenArrival h snd out => Sys2Proof.Machine.execTokenArrival h snd out s
  | .tokenAdmit h v n => Sys2Proof.Machine.execTokenAdmit h v n s
  | .streamCredit h snd out => Sys2Proof.Machine.execStreamCredit h snd out s
  | .combiningContribution h snd out => Sys2Proof.Machine.execCombiningContribution h snd out s
  | .combiningSumComplete h v n tag => Sys2Proof.Machine.execCombiningSumComplete h v n tag s
  | .mma h v slot tag => Sys2Proof.Machine.execMma h v slot tag s
  | .emit h v slot tag => Sys2Proof.Machine.execEmit h v slot tag s
  | .wload h v slot tag => Sys2Proof.Machine.execWload h v slot tag s
  | .vfma h v slot tag => Sys2Proof.Machine.execVfma h v slot tag s
  | .vbin h v slot tag => Sys2Proof.Machine.execVbin h v slot tag s
  | .sfu h v slot tag => Sys2Proof.Machine.execSfu h v slot tag s
  | .reduce h v slot tag => Sys2Proof.Machine.execReduce h v slot tag s
  | .steer h v slot tag => Sys2Proof.Machine.execSteer h v slot tag s
  | .move h v slot tag => Sys2Proof.Machine.execMove h v slot tag s
  | .syncOpArrive h v slot tag => Sys2Proof.Machine.execSyncOpArrive h v slot tag s
  | .syncOpWait h v slot tag => Sys2Proof.Machine.execSyncOpWait h v slot tag s
  | .syncOpIncrement h v slot tag => Sys2Proof.Machine.execSyncOpIncrement h v slot tag s
  | .syncOpDecrement h v slot tag => Sys2Proof.Machine.execSyncOpDecrement h v slot tag s
  | .firingEnd h v cycles => Sys2Proof.Machine.execFiringEnd h v cycles s
  | .bankLoadComplete h v bank => Sys2Proof.Machine.execBankLoadComplete h v bank s
  | .hsyncBatch h obj n => Sys2Proof.Machine.execHsyncBatch h obj n s
  | .syncGrantArrival h unit slot => Sys2Proof.Machine.execSyncGrantArrival h unit slot s
  | .tagTimeout h v n tag => Sys2Proof.Machine.execTagTimeout h v n tag s
  | .syncWaitTimeout h unit slot => Sys2Proof.Machine.execSyncWaitTimeout h unit slot s
  | .progressCountTrip h => Sys2Proof.Machine.execProgressCountTrip h s
  | .spillRoundComplete h => Sys2Proof.Machine.execSpillRoundComplete h s
  | .tileReset h v => Sys2Proof.Machine.execTileReset h v s
  | .contextChange h v c => Sys2Proof.Machine.execContextChange h v c s
  | .contextChangeComplete h v => Sys2Proof.Machine.execContextChangeComplete h v s
  | .sampleTick h => Sys2Proof.Machine.execSampleTick h s
  | .stokerLoadTag h u => Sys2Proof.Machine.execStokerLoadTag h u s
  | .stokerStoreTag h u => Sys2Proof.Machine.execStokerStoreTag h u s
  | .stokerRelayBatch h u => Sys2Proof.Machine.execStokerRelayBatch h u s
  | .stokerCopyTag h u => Sys2Proof.Machine.execStokerCopyTag h u s
  | .stokerTriggerTag h u => Sys2Proof.Machine.execStokerTriggerTag h u s
  | .stokerWait h u => Sys2Proof.Machine.execStokerWait h u s
  | .stokerPost h u => Sys2Proof.Machine.execStokerPost h u s
  | .memoryRequest h port => Sys2Proof.Machine.execMemoryRequest h port s
  | .memoryReadReply h => Sys2Proof.Machine.execMemoryReadReply h s
  | .writeAck h => Sys2Proof.Machine.execWriteAck h s
  | .perBankRefresh h sub bank => Sys2Proof.Machine.execPerBankRefresh h sub bank s
  | .dqsTracking h sub => Sys2Proof.Machine.execDqsTracking h sub s
  | .interfaceRetrain h sub marginOk => Sys2Proof.Machine.execInterfaceRetrain h sub marginOk s
  | .patrolScrub h word => Sys2Proof.Machine.execPatrolScrub h word s
  | .deferredRetirement h => Sys2Proof.Machine.execDeferredRetirement h s
  | .reshapeUnitMove h => Sys2Proof.Machine.execReshapeUnitMove h s
  | .reshapeComplete h => Sys2Proof.Machine.execReshapeComplete h s
  | .slotFill h cls => Sys2Proof.Machine.execSlotFill h cls s
  | .stepDispatch h => Sys2Proof.Machine.execStepDispatch h s
  | .stepStartComplete h => Sys2Proof.Machine.execStepStartComplete h s
  | .classPreempt h => Sys2Proof.Machine.execClassPreempt h s
  | .haltComplete h => Sys2Proof.Machine.execHaltComplete h s
  | .saveComplete h => Sys2Proof.Machine.execSaveComplete h s
  | .restoreComplete h => Sys2Proof.Machine.execRestoreComplete h s
  | .stepComplete h => Sys2Proof.Machine.execStepComplete h s
  | .controlMismatch h u inRetry => Sys2Proof.Machine.execControlMismatch h u inRetry s
  | .checkFlag h site => Sys2Proof.Machine.execCheckFlag h site s
  | .replayComplete h value => Sys2Proof.Machine.execReplayComplete h value s
  | .refereeComplete h value => Sys2Proof.Machine.execRefereeComplete h value s
  | .bucketLeak h unit => Sys2Proof.Machine.execBucketLeak h unit s
  | .hearthFatal h ev permanent => Sys2Proof.Machine.execHearthFatal h ev permanent s
  | .scrubCfgVote h votesAgree => Sys2Proof.Machine.execScrubCfgVote h votesAgree s
  | .ceSummary h => Sys2Proof.Machine.execCeSummary h s
  | .hostPortFail => Sys2Proof.Machine.execHostPortFail s
  | .failover => Sys2Proof.Machine.execFailover s
  | .commandProcessorsFail => Sys2Proof.Machine.execCommandProcessorsFail s
  | .alarm source => Sys2Proof.Machine.execAlarm source s
  | .jtagInstruction die ir => Sys2Proof.Machine.execJtagInstruction die ir s
  | .debugAccessExpiry => Sys2Proof.Machine.execDebugAccessExpiry s
  | .challengeExpiry => Sys2Proof.Machine.execChallengeExpiry s
  | .fruRead offset => Sys2Proof.Machine.execFruRead offset s
  | .mctpControl msg => Sys2Proof.Machine.execMctpControl msg s
  | .setEndpointId eid => Sys2Proof.Machine.execSetEndpointId eid s
  | .pldmBase msg => Sys2Proof.Machine.execPldmBase msg s
  | .getPdrRepositoryInfo => Sys2Proof.Machine.execGetPdrRepositoryInfo s
  | .getPdr handle => Sys2Proof.Machine.execGetPdr handle s
  | .getSensorReading id => Sys2Proof.Machine.execGetSensorReading id s
  | .setNumericSensorEnable id state => Sys2Proof.Machine.execSetNumericSensorEnable id state s
  | .loadComplete h ns => Sys2Proof.Machine.execLoadComplete h ns s
  | .fwSwitchComplete ok => Sys2Proof.Machine.execFwSwitchComplete ok s
  | .restoreTestComplete h pass => Sys2Proof.Machine.execRestoreTestComplete h pass s
  | .flueRefclkReturn => Sys2Proof.Machine.execFlueRefclkReturn s
  | .powerControllerFailure => Sys2Proof.Machine.execPowerControllerFailure s
  | .identityEngineFailure => Sys2Proof.Machine.execIdentityEngineFailure s
  | .verificationEngineFailure => Sys2Proof.Machine.execVerificationEngineFailure s
  | .sidebandEndpointFailure => Sys2Proof.Machine.execSidebandEndpointFailure s
  | .chimneyFault h v => Sys2Proof.Machine.execChimneyFault h v s

end Sys2Proof.Machine
end

