-- ==== Sys2Proof/Safety.lean ====
section
/-! DEFINITION. The terms that the claims use: commands that pass their checks, the state in which an accepted command's
effect begins, what may happen to the fuses, the alarm, and the canonical form of the module's tables. -/

namespace Sys2Proof.Machine

/-- A command passes: it is the next that the mantel reads, its slots lie in a window, and no check of Table 12-5 rejects
it. -/
def Accepted (s : State) (c : CmdSpec) (p : Pkt) : Prop :=
  startable s c.code p = true ∧ slotsInWindow s p = true ∧ checks (takeSlots s p) c p (overruns s p) = none

/-- The state in which an accepted command's effect begins: its slots are taken, it is started under the number
s.nextCmd, and the children of a tree have it (R376, R403, R324). -/
def begun (s : State) (c : CmdSpec) (p : Pkt) : State :=
  let a := takeSlots s p
  forward { a with
      nextCmd := a.nextCmd + 1
      started := a.started ++ [{ id := a.nextCmd
                                 org := { src := p.src, opcode := c.code, hostTag := p.hostTag, sqHead := headOf a p.src }
                                 wait := none, workload := wl p }] }
    a.nextCmd c.code (c.fwd.getD p)

/-- A started command completes with a status, a detail and two results, and what follows at once has happened. -/
def completes (s : State) (id : Nat) (st : Status) (det r0 r1 : Nat) : Host.Outcome State Fault Refusal :=
  .next (settle (finish s id st det r0 r1))

/-- Fuses g can come from fuses f in service: a blown fuse stays blown, and what manufacture wrote stays (R442). -/
def BlownFrom (f g : Fuses) : Prop :=
  (f.kill = true → g.kill = true) ∧ (f.policySet = true → g.policySet = true) ∧ (f.policyKill = true → g.policyKill = true)
    ∧ g.helperLeft ≤ f.helperLeft ∧ f.rollbackHearth ≤ g.rollbackHearth ∧ f.rollbackModule ≤ g.rollbackModule
    ∧ g.fusedW = f.fusedW ∧ g.serial = f.serial ∧ g.stepping = f.stepping ∧ g.grade = f.grade ∧ g.ownerEn = f.ownerEn
    ∧ g.ownerHash = f.ownerHash ∧ g.rootHash = f.rootHash

/-- The alarm is in force in a module that has its input power and is not held in reset. -/
def AlarmHeld (s : State) : Prop :=
  s.mod = .alarm ∧ s.power.perst = false ∧ s.power.inputOk = true

/-- The commands that make a module cold reset (Table 15-3): PERST#, the loss of input power, a mantel over-temperature. -/
def coldResets (c : Instr) : Bool :=
  match c with
  | .perstAssert => true
  | .inputOutOfRange => true
  | .mantelOvertemp => true
  | _ => false

/-- Host memory and the table of hearths are in canonical form. -/
def Canonical (s : State) : Prop := Memory.wf s.hostMem = true ∧ smapWf ({} : Hearth) s.hearths = true

/-- The started commands that R405 counts are no more than 256. -/
def RoomHeld (s : State) : Prop := outstanding s ≤ 256

/-- A ring of 2^lg entries of so many bytes passes the check of R369. -/
def ringFits (s : State) (base : BitVec 52) (lg bytes : Nat) : Prop :=
  4 ≤ lg ∧ lg ≤ 16 ∧ base.toNat * 4096 % max (2 ^ lg * bytes) 4096 = 0 ∧
    inWindow s.regs (base.toNat * 4096) (2 ^ lg * bytes) = true

/-- Hearth h takes a new state, and what follows at once has happened. -/
def becomes (s : State) (h : Nat) (hh : Hearth) : Host.Outcome State Fault Refusal := .next (settle (putH s h hh))

/-- R74 and R76 start this slot's firing of this code for this tag now, and its groups have their size. -/
def Starts (hh : Hearth) (v slot : Nat) (tag : W16) (code : Nat) : Prop :=
  ∃ st, tileStep hh v = some st ∧ mayStart (tileAt hh v) st = true ∧ opCode (tileAt hh v) slot = code ∧
    nextFiring v (tileAt hh v) st = some (slot, tag) ∧ shortGroup v (tileAt hh v) slot tag = none

/-- The tokens of the mantel's pool and of every hearth (R475). -/
def totalTokens (s : State) : Nat := allHearths.foldl (fun a h => a + (hearthOf s h).tokens) s.power.pool

/-- The commands that act on one hearth alone, apart from what settles at once; with the hearth. -/
def hearthOnly (c : Instr) : Option Nat :=
  match c with
  | .tokenArrival h _ _ => some h
  | .tokenAdmit h _ _ => some h
  | .streamCredit h _ _ => some h
  | .combiningContribution h _ _ => some h
  | .combiningSumComplete h _ _ _ => some h
  | .mma h _ _ _ => some h
  | .emit h _ _ _ => some h
  | .wload h _ _ _ => some h
  | .vfma h _ _ _ => some h
  | .vbin h _ _ _ => some h
  | .sfu h _ _ _ => some h
  | .reduce h _ _ _ => some h
  | .steer h _ _ _ => some h
  | .move h _ _ _ => some h
  | .syncOpArrive h _ _ _ => some h
  | .syncOpWait h _ _ _ => some h
  | .syncOpIncrement h _ _ _ => some h
  | .syncOpDecrement h _ _ _ => some h
  | .firingEnd h _ _ => some h
  | .bankLoadComplete h _ _ => some h
  | .hsyncBatch h _ _ => some h
  | .syncGrantArrival h _ _ => some h
  | .tagTimeout h _ _ _ => some h
  | .syncWaitTimeout h _ _ => some h
  | .progressCountTrip h => some h
  | .spillRoundComplete h => some h
  | .tileReset h _ => some h
  | .contextChange h _ _ => some h
  | .contextChangeComplete h _ => some h
  | .stokerLoadTag h _ => some h
  | .stokerStoreTag h _ => some h
  | .stokerRelayBatch h _ => some h
  | .stokerCopyTag h _ => some h
  | .stokerTriggerTag h _ => some h
  | .stokerWait h _ => some h
  | .stokerPost h _ => some h
  | .memoryRequest h _ => some h
  | .memoryReadReply h => some h
  | .writeAck h => some h
  | .interfaceRetrain h _ _ => some h
  | .patrolScrub h _ => some h
  | .reshapeUnitMove h => some h
  | .stepDispatch h => some h
  | .stepStartComplete h => some h
  | .classPreempt h => some h
  | .haltComplete h => some h
  | .restoreComplete h => some h
  | .stepComplete h => some h
  | .checkFlag h _ => some h
  | .replayComplete h _ => some h
  | .refereeComplete h _ => some h
  | .hearthFatal h ev _ => if ev = .commandLink then none else some h
  | .scrubCfgVote h _ => some h
  | .ceSummary h => some h
  | .chimneyFault h _ => some h
  | .scheduleSlotOpen h _ _ => some h
  | .endpointTokenSend h _ => some h
  | .putTag h _ => some h
  | .getTag h _ => some h
  | .contributeTag h _ => some h
  | .endpointCombineSum h _ _ => some h
  | _ => none

end Sys2Proof.Machine
end

