-- ==== Sys2Proof/Certificates/Slice0/Obligations.lean ====
section
/-! DEFINITION. The statements for the provers. -/

open Sys2Proof Sys2Proof.Machine

/-! ### The queue, the clock, and the packets -/

/-- A step takes the command at the front of the queue and answers exec of it on the state with the queue's rest. -/
def Obligations.StepRunsTheFrontCommand : Prop :=
  ∀ (s : State) (c : Instr) (rest : List Instr),
    step { s with pending := c :: rest } = exec c { s with pending := rest }

/-- With no command waiting and nothing to slew, one nanosecond of module time passes: the clock advances by one, the time bases
of the hearths follow, a waiting command whose opcode no row has is rejected, and what follows at once happens. That the tick is
what a step does on an empty queue is the model's choice (log 1). -/
def Obligations.StepTicksWhenIdle : Prop :=
  ∀ s : State, s.pending = [] → s.time.slew = 0 → s.time.half = false →
    step s = .next (settle (rejectUnknown (tickBases { s with time := { s.time with ns := s.time.ns + 1, acc := 0 } })))

/-- No command stops the block: exec answers a next state for every command in every state, and so does step. -/
def Obligations.EveryCommandAnswersANextState : Prop :=
  (∀ (c : Instr) (s : State), ∃ t, exec c s = .next t) ∧ ∀ s : State, ∃ t, step s = .next t

/-- A command changes nothing of the queue of waiting commands, and a step takes its front off. -/
def Obligations.CommandsLeaveTheQueue : Prop :=
  (∀ (c : Instr) (s t : State), exec c s = .next t → t.pending = s.pending) ∧
    ∀ (s t : State), step s = .next t → t.pending = s.pending.drop 1

/-- The bytes of a command packet, as a ring or COMMAND cells carry them (Table 12-4), read back as the same packet:
opcode, FLAGS, SLOTS, HOST_TAG, HEARTHS, WORKLOAD and every parameter byte. -/
def Obligations.PacketBytesReadBack : Prop :=
  ∀ (code : Nat) (p : Pkt), code < 65536 → decodePacket p.src (pktBytes code p) = packetOf code p

/-- A packet that decodes from a source of the module is a well-formed command. -/
def Obligations.DecodedPacketsAreWellFormed : Prop :=
  ∀ (src : Src) (bytes : List Byte) (c : Instr), src.wf = true → decodePacket src bytes = some c → c.wf = true

/-! ### Command packets: module and hearth queries -/

/-- An accepted NOP completes with the module time as RESULT0. A PAD of 1 to 16 slots inside its ring takes its slots, and writes
nothing. An accepted IDENTIFY completes with two records. -/
def Obligations.NopPadAndIdentify : Prop :=
  ∀ (s : State) (p : Pkt),
    (Accepted s nopSpec p →
      exec (.nop p) s = .next (finish (begun s nopSpec p) s.nextCmd .done 0 (begun s nopSpec p).time.ns 0)) ∧
    (startable s 2 p = true → slotsInWindow s p = true → overruns s p = false → 1 ≤ p.slots.toNat → p.slots.toNat ≤ 16 →
      exec (.pad p) s = .next (takeSlots s p)) ∧
    (Accepted s identifySpec p → ∀ m f r, tileTotals (begun s identifySpec p) = (m, f, r) →
      exec (.identify p) s = .next (let b := begun s identifySpec p
        finish b s.nextCmd .done 0 (regIdent b) (m * 2 ^ 48 + f * 2 ^ 32 + r * 2 ^ 16 + hearthMask b readyFrozen)
          (some (b.fuses.serial.toNat, 0x000C * 2 ^ 32 + stagedVersion b,
            b.role.role * 2 ^ 19 + b2n b.flash.idValid * 2 ^ 18 + b.flash.moduleId.toNat, b.flash.bootCount))))

/-- The accepted report commands. GET_HEALTH writes the head, the blocks of the named hearths and, with PEERS, their peer
contexts from FIRST on, and clears what a read clears. READ_CENSUS writes the census entries of the named hearths. READ_SIGNATURES writes the whole records of a
hearth's log from START that fit. READ_LOAD_REPORT writes the head and the records that fit. AUDIT_LEDGERS brings the charges of
the named hearths up to date, records the unbalanced ledgers in their logs, and writes the summaries and the scopes that fit; its
results are the number of unbalanced scopes, of records written and of records left out (R232). Each completes with what the
writing of its buffer gives. CLEAR_SIGNATURES removes the records of the named hearth's log below BEFORE and completes with
their number. -/
def Obligations.ReportCommandsWriteAndClear : Prop :=
  (∀ (s : State) (p : Pkt),
    (Accepted s (getHealthSpec p) p →
      exec (.getHealth p) s = .next (let b := begun s (getHealthSpec p) p
        reportAndFinish ((named p).foldl (fun s h => updH s h clearHealthBlock) (clearHealth b)) s.nextCmd (fld p 0x10 8)
          (leBytes 8 (regHealth b) ++ leBytes 8 b.time.ns ++ leBytes 8 (regPowerCap b) ++ leBytes 8 (regAlarm b)
            ++ leBytes 8 (regCap b) ++ zeros 24 ++ (named p).flatMap (fun h => healthBlock (hearthOf b h))
            ++ (if fld p 0x1C 1 % 2 = 1 then (named p).flatMap (fun h => (List.range (fld p 0x24 2)).flatMap (fun i =>
              leBytes 16 (if present (hearthOf b h).st then regPeer (peerOf (hearthOf b h) (fld p 0x20 4 + i)) else 0)))
              else [])) .done 0 0 0)) ∧
    (Accepted s (readCensusSpec p) p →
      exec (.readCensus p) s = .next (let b := begun s (readCensusSpec p) p
        let t := (named p).foldl (fun (a : Nat × Nat) h =>
          (a.1 + (tileCounts (hearthOf b h)).1, a.2 + (tileCounts (hearthOf b h)).2)) (0, 0)
        reportAndFinish b s.nextCmd (fld p 0x10 8)
          ((named p).flatMap (fun h => (census (hearthOf b h)).flatMap (fun e => leBytes 16 e.toNat))) .done 0
          (t.1 * 2 ^ 16 + t.2) 0)) ∧
    (Accepted s (readSignaturesSpec p) p →
      exec (.readSignatures p) s = .next (let b := begun s (readSignaturesSpec p) p
        let recs := heldFrom (hearthOf b (named1 p)) (fld p 0x20 8)
        let fit := recs.take (fld p 0x18 4 / 512)
        let nxt := match recs.drop (fld p 0x18 4 / 512) with
          | r :: _ => r.seq
          | [] => (hearthOf b (named1 p)).ashNext
        reportAndFinish b s.nextCmd (fld p 0x10 8) (fit.flatMap (ashBytes (named1 p) b.fuses.serial)) .done 0
          fit.length nxt)) ∧
    (Accepted s (readLoadReportSpec p) p →
      exec (.readLoadReport p) s = .next (settle (let b := begun s (readLoadReportSpec p) p
        let r := (mget {} (hearthOf b (named1 p)).ctxs (fld p 0x10 1)).report
        let l := r.recs.take ((fld p 0x20 4 - 32) / 32)
        reportAndFinish b s.nextCmd (fld p 0x18 8) (reportHead { r with context := fld p 0x10 1 } ++ l.flatMap reportRec)
          .done 0 l.length 0)))) ∧
  (∀ (s : State) (p : Pkt), Accepted s (auditLedgersSpec p) p →
    exec (.auditLedgers p) s = .next (settle (
      let b := (named p).foldl (fun s h => onHearth s h accrue) (begun s (auditLedgersSpec p) p)
      let parts := auditParts b (fld p 0x1C 1) (named p)
      let recs := parts.map auditSummary ++ parts.flatMap (fun q =>
        (auditScopes (fld p 0x1D 1 == 1) q).map (fun t => auditRecord q (verdict q t) t))
      let fit := recs.take (fld p 0x18 4 / 48)
      reportAndFinish (parts.foldl logUnbalanced b) s.nextCmd (fld p 0x10 8) fit.flatten .done
        (parts.foldl (fun a q => a + (q.scopes.filter (fun t => verdict q t == 1)).length) 0) fit.length
        (recs.length - fit.length)))) ∧
  (∀ (s : State) (p : Pkt), Accepted s clearSignaturesSpec p →
    exec (.clearSignatures p) s = .next (let b := begun s clearSignaturesSpec p
      let l := (hearthOf b (named1 p)).ash
      finish (updH b (named1 p) (fun hh => { hh with ash := l.filter (fun x => !(x.2.seq < fld p 0x10 8)) })) s.nextCmd .done 0
        (l.filter (fun x => x.2.seq < fld p 0x10 8)).length 0))

/-! ### Command packets: firmware, images and steps -/

/-- An accepted FW_STAGE whose buffer is read and whose image verifies clears SIG_FAILS; it stages the image and completes with
DONE, with flash writable and no activation of its target; it waits while an activation of its target is in progress; an image
that does not verify completes with REJECTED_SECURITY and the detail of the first failure, which counts in SIG_FAILS where R448
says so. With the verification engine failed it completes with ABORTED_FAULT. An accepted FW_ACTIVATE, with
flash writable, makes the target's staged slot active and adds an activation to those in progress: of the named hearths in
ascending order, or of the command-processor pairs; it waits for its end. An accepted LOAD_IMAGE starts a load, with the region
it grants, in each named hearth that passes the checks of R188; in any other it ends the hearth's part with REJECTED_PARAMETER
and the detail of the first check that fails. An accepted DROP_IMAGE drops the context in every named hearth and completes with
DONE. -/
def Obligations.FirmwareAndImagesLoad : Prop :=
  (∀ (s : State) (p : Pkt),
    (Accepted s (fwStageSpec p) p →
      let b := begun s (fwStageSpec p) p
      (b.trust.verifyFailed = true → exec (.fwStage p) s = completes b s.nextCmd .abortedFault 2 0 0) ∧
      (∀ bs, b.trust.verifyFailed = false → bufRead b (fld p 0x10 8) (fld p 0x18 4) = some bs →
        let r := bufTouch b (fld p 0x10 8) (fld p 0x18 4)
        (verifyImage r bs (fld p 0x1C 1) = none →
          ((clearSig r).activation.any (fun a => a.target == fld p 0x1C 1) = false → (clearSig r).flash.writable = true →
            exec (.fwStage p) s = completes (stageImage (clearSig r) (fld p 0x1C 1) (imageOf bs)) s.nextCmd .done 0 0 0) ∧
          ((clearSig r).activation.any (fun a => a.target == fld p 0x1C 1) = true →
            exec (.fwStage p) s =
              .next (settle (setWait (clearSig r) s.nextCmd (.fwStage (fld p 0x1C 1) (imageOf bs)))))) ∧
        (∀ d, verifyImage r bs (fld p 0x1C 1) = some d →
          exec (.fwStage p) s = .next (settle (let t := finish r s.nextCmd .rejectedSecurity d 0 0
            if 2 ≤ d ∧ d ≤ 6 then countSig t else t))))) ∧
    (Accepted s (fwActivateSpec p s) p →
      let b := begun s (fwActivateSpec p s) p
      b.flash.writable = true →
      exec (.fwActivate p) s = .next (settle (setWait { activateSlot b (fld p 0x10 1) with
        activation := b.activation ++ [{ cmd := s.nextCmd, target := fld p 0x10 1
                                         left := if fld p 0x10 1 = 1 then named p else if b.standbyOk then [0, 1] else [0]
                                         switched := 0 }] } s.nextCmd .fwActivate)))) ∧
  (∀ (s : State) (p : Pkt),
    (Accepted s (loadImageSpec p s) p →
      let id := s.nextCmd
      let b := setWait (begun s (loadImageSpec p s) p) id (.load p.hearths .done 0 0 0)
      let addr := fld p 0x20 8 % 2 ^ 40
      let granted : Region :=
        { dieMask := BitVec.ofNat 10 (fld p 0x12 2), sliceFirst := fld p 0x14 1, sliceGroups := fld p 0x15 1
          hsyncFirst := fld p 0x16 2, hsyncCount := fld p 0x18 2, epFirst := fld p 0x1A 2, epCount := fld p 0x1C 2 }
      exec (.loadImage p) s = .next (settle ((named p).foldl (fun s h =>
        match fatalLoad (seenAt (hearthOf s h) addr) addr (fld p 0x28 8) with
        | some d => loadPart s id h .rejectedParameter d 0
        | none => onHearth s h (startLoad id (fld p 0x10 1) addr (fld p 0x28 8) granted)) b)) ∧
      ∀ h, named p = [h] →
        (∀ d, fatalLoad (seenAt (hearthOf b h) addr) addr (fld p 0x28 8) = some d →
          exec (.loadImage p) s = .next (settle (loadPart b id h .rejectedParameter d 0))) ∧
        (fatalLoad (seenAt (hearthOf b h) addr) addr (fld p 0x28 8) = none → exec (.loadImage p) s =
          .next (settle (onHearth b h (startLoad id (fld p 0x10 1) addr (fld p 0x28 8) granted))))) ∧
    (Accepted s (dropImageSpec p s) p →
      exec (.dropImage p) s = completes ((named p).foldl (fun s h =>
        updH s h (fun hh => refreshSt (dropCtx hh (fld p 0x10 1)))) (begun s (dropImageSpec p s) p)) s.nextCmd .done 0 0 0))

/-- An accepted LAUNCH_STEP adds one PENDING step in every named hearth, in ascending order, with the workload, context, section,
first tag, tag count and report address of the packet; its workload is registered and active, and the command waits for the
steps' end. -/
def Obligations.LaunchAddsAPendingStep : Prop :=
  ∀ (s : State) (p : Pkt), Accepted s (launchStepSpec p s) p →
    let hs := named p
    let new (b : State) (i : Nat) (hh : Hearth) : Step :=
      { id := b.order + i, waiter := s.nextCmd, report := BitVec.ofNat 64 (fld p 0x20 8), rank := i, workload := wl p
        ctx := fld p 0x10 1, sec := fld p 0x11 1, ran := fld p 0x11 1
        linked := sectionLinked hh (fld p 0x10 1) (fld p 0x11 1), first := BitVec.ofNat 16 (fld p 0x12 2)
        n := fld p 0x18 8, state := .pending, mark := b.time.ns, causeWorkload := wl p, order := b.order + i }
    exec (.launchStep p) s = .next (settle (
      let b := setWait (activate (register (begun s (launchStepSpec p s) p) (wl p)) (wl p)) s.nextCmd (.steps p.hearths [])
      let b := (List.range hs.length).foldl (fun b i =>
        updH b (hs.getD i 0) (fun hh => { hh with steps := hh.steps ++ [new b i hh] })) b
      { b with order := b.order + hs.length }))

/-- An accepted PREEMPT_STEP of ROUND 0, 1 or 2 begins to freeze the named hearths' steps of its workload, as preemptRun says
(R347, R349). An accepted RESUME_STEP gives the steps that the host froze to its own wait and begins their restoring. An
accepted ABORT_STEP ends every step of its workload in the named hearths with ABORTED_BY_HOST and completes with their number.
An accepted SAVE_STATE of a step frozen by the host writes its image to the buffer, where the windows have it, ends the
step with PREEMPTED and completes with DONE. An accepted RESTORE_STATE of a buffer that holds a saved step adds it as a step
frozen by the host, with its saved state, under the workload of the packet, and completes with DONE. -/
def Obligations.StepCommandsAct : Prop :=
  (∀ (s : State) (p : Pkt),
    (Accepted s (preemptSpec p s) p →
      let t := settle (preemptRun p s.nextCmd (begun s (preemptSpec p s) p))
      (fld p 0x10 1 ≠ 1 → fld p 0x10 1 ≠ 2 → exec (.preemptStep p) s = .next t) ∧
      (fld p 0x10 1 = 1 → exec (.preemptStepHalt p) s = .next t) ∧
      (fld p 0x10 1 = 2 → exec (.preemptStepSave p) s = .next t)) ∧
    (Accepted s (resumeStepSpec p s) p →
      exec (.resumeStep p) s = .next (settle (onHearths (setWait (begun s (resumeStepSpec p s) p) s.nextCmd
        (.steps p.hearths [])) (named p) (fun e hh => resumeOne e hh (wl p) s.nextCmd)))) ∧
    (Accepted s abortStepSpec p →
      let b := begun s abortStepSpec p
      exec (.abortStep p) s = completes (onHearths b (named p) (fun e hh => endWorkload e hh (wl p) .abortedByHost)) s.nextCmd
        .done ((named p).foldl (fun a h => a + (stepsOf (hearthOf b h) (wl p)).length) 0) 0 0)) ∧
  (∀ (s : State) (p : Pkt),
    (Accepted s (saveStateSpec p s) p → ∀ x sn,
      let b := begun s (saveStateSpec p s) p
      let h := named1 p
      let a := fld p 0x10 8
      hostFrozen (hearthOf b h) (wl p) = some x → (hearthOf b h).snap = some sn →
      (spaceOf a || inWindow b.regs (hostAddr a) saveBytes) = true →
      let img := saveImageOf (hearthOf b h) b.fresh
      let t := putImage { b with fresh := b.fresh + 1 } a img.1 img.2
      exec (.saveState p) s = completes (onHearth { t with saves := t.saves ++ [(a,
          { serial := b.fuses.serial, hearth := h, census := sn.census, ctx := x.ctx
            digest := (mget {} (hearthOf b h).ctxs x.ctx).digest, step := x, snap := sn, bytes := img.1, wild := img.2 })] } h
        (fun e hh => endStepH e (updStep hh x.id (fun y => { y with told := true })) x.id .preempted)) s.nextCmd .done 0 0 0) ∧
    (Accepted s (restoreStateSpec p s) p → ∀ i,
      let b := begun s (restoreStateSpec p s) p
      savedIn b (fld p 0x10 8) = some i →
      exec (.restoreState p) s = completes (
        let t := activate { b with order := b.order + 1 } (wl p)
        updH t (named1 p) (fun hh => refreshSt { hh with
          steps := hh.steps ++ [{ i.step with
            id := t.order - 1, waiter := t.nextCmd, workload := wl p, state := .frozen, byHost := true, told := true
            mark := t.time.ns, causeWorkload := wl p, order := t.order - 1 }]
          snap := some { i.snap with step := t.order - 1 }
          eps := i.snap.eps.foldl (fun m y => mput {} m y.1 y.2) hh.eps })) s.nextCmd .done 0 0 0))

/-! ### Command packets: data, shares, fabric and power -/

/-- An accepted COPY without REMOTE copies its segments in order and completes with DONE; with REMOTE its writes to the other
module begin, as startRemote says (R399). An accepted FILL writes its pattern, aligned to the destination's addresses, and completes
with DONE. -/
def Obligations.CopyAndFillWriteTheirBytes : Prop :=
  ∀ (s : State) (p : Pkt),
    (Accepted s (copySpec p) p →
      (nbit (fld p 0x28 4) 31 = false →
        exec (.copy p) s = completes ((copySegs p).foldl copyLocal (begun s (copySpec p) p)) s.nextCmd .done 0 0 0) ∧
      (nbit (fld p 0x28 4) 31 = true →
        exec (.copy p) s = .next (settle (startRemote (begun s (copySpec p) p) s.nextCmd (nbits (fld p 0x28 4) 17 0)
          (copySegs p))))) ∧
    (Accepted s (fillSpec p) p →
      exec (.fill p) s = completes (copyWrite (begun s (fillSpec p) p) (fld p 0x10 8)
        (fillBytes (fld p 0x20 8) (if spaceOf (fld p 0x10 8) then modAddr (fld p 0x10 8) else hostAddr (fld p 0x10 8))
          (fld p 0x18 8)) []) s.nextCmd .done 0 0 0)

/-- What a write of host memory through FILL's buffer leaves: each byte of [A, A + BYTES) reads as the byte of the pattern at its
address modulo 8, and every other byte of host memory reads as before; no hearth changes, and host memory keeps its canonical
form. -/
def Obligations.FillOfHostMemoryWritesExactlyItsBytes : Prop :=
  ∀ (s : State) (w pattern n : Nat), spaceOf w = false → Memory.wf s.hostMem = true →
    let t := copyWrite s w (fillBytes pattern (hostAddr w) n) []
    (∀ i, i < n → hostByte t (hostAddr w + i) = BitVec.ofNat 8 (pattern / 256 ^ ((hostAddr w + i) % 8))) ∧
    (∀ a, a < hostAddr w ∨ hostAddr w + n ≤ a → hostByte t a = hostByte s a) ∧
    t.hearths = s.hearths ∧ Memory.wf t.hostMem = true

/-- The accepted commands that set something. SET_CLASS_POLICY gives a workload its class and pre-emption policy. SET_SHARES with
ACTION 0 registers a workload and gives it its weight; with ACTION 1 it removes the account. SET_ROLE gives the module its role,
tree hearth, parent and child table. SET_ROUTES gives every named hearth the parts that its FLAGS select, the module id, the tables
of the buffer, the resend time and the damper, and the id to flash. These complete with DONE. FLUE_UP trains the named links and
waits for them; FLUE_DOWN drains them and waits for them. SYNC_TIME with MODE 0 sets module time, which is set from then on, and
completes; with MODE 1 its offset joins what is left to slew, and the command waits until nothing is left. -/
def Obligations.SettingsAreSet : Prop :=
  (∀ (s : State) (p : Pkt),
    (Accepted s (setClassPolicySpec p s) p →
      exec (.setClassPolicy p) s = (let b := begun s (setClassPolicySpec p s) p
        completes { b with accounts := mupd {} b.accounts (wl p) (fun a =>
          { a with latency := fld p 0x10 1 == 1, mayPreempt := fld p 0x11 1 == 1 }) } s.nextCmd .done 0 0 0)) ∧
    (Accepted s (setSharesSpec p s) p → fld p 0x10 1 ≠ 1 →
      exec (.setShares p) s = (let b := register (begun s (setSharesSpec p s) p) (wl p)
        completes { b with accounts := mupd {} b.accounts (wl p) (fun a => { a with weight := fld p 0x12 2 }) }
          s.nextCmd .done 0 0 0)) ∧
    (Accepted s (setSharesRemoveSpec p s) p → fld p 0x10 1 = 1 →
      exec (.setSharesRemove p) s = (let b := begun s (setSharesRemoveSpec p s) p
        completes { b with accounts := mput {} b.accounts (wl p) {} } s.nextCmd .done 0 0 0))) ∧
  (∀ (s : State) (p : Pkt),
    (Accepted s (setRoleSpec p s) p →
      exec (.setRole p) s = completes { begun s (setRoleSpec p s) p with role :=
        { role := fld p 0x10 1, treeHearth := fld p 0x11 1
          parent := if fld p 0x12 1 % 2 = 1 then some (fld p 0x14 4, fld p 0x18 1) else none
          children := fld p 0x1A 2, table := fld p 0x20 8 } } s.nextCmd .done 0 0 0) ∧
    (Accepted s (setRoutesSpec p s) p →
      let b := begun s (setRoutesSpec p s) p
      let id? := nbit (fld p 0x10 1) 0
      let tab? := nbit (fld p 0x10 1) 1
      let ctl? := nbit (fld p 0x10 1) 2
      let mid := fld p 0x14 4
      let ws := match bufRead b (fld p 0x18 8) 65792 with
        | some bs => (List.range 8224).map (fun i => ofLE ((bs.drop (8 * i)).take 8))
        | none => []
      let b := if tab? then bufTouch b (fld p 0x18 8) 65792 else b
      let b := (named p).foldl (fun s h => updH s h (fun hh =>
        let hh := if id? then { hh with moduleId := BitVec.ofNat 18 mid, idValid := nbit mid 31 } else hh
        let hh := if tab? then { hh with routeLocal := routeMap (ws.take 32), routeGroup := routeMap (ws.drop 32) } else hh
        if ctl? then { hh with resend := fld p 0x20 2, damperEn := fld p 0x22 1 == 1 } else hh)) b
      exec (.setRoutes p) s = completes (if id? then
        { b with flash := { b.flash with moduleId := BitVec.ofNat 18 mid, idValid := nbit mid 31 } } else b)
          s.nextCmd .done 0 0 0)) ∧
  (∀ (s : State) (p : Pkt),
    (Accepted s (flueSpec 0x72 p) p →
      exec (.flueUp p) s = .next (settle (setWait ((namedLinks p).foldl (fun s x =>
        updH s x.1 (fun hh => trainLink hh x.2)) (begun s (flueSpec 0x72 p) p)) s.nextCmd
          (.flueUp (linkMask (namedLinks p)) 0)))) ∧
    (Accepted s (flueSpec 0x73 p) p →
      exec (.flueDown p) s = .next (settle (setWait ((namedLinks p).foldl (fun s x =>
        updH s x.1 (fun hh => drainLink hh x.2)) (begun s (flueSpec 0x73 p) p)) s.nextCmd
          (.flueDown (linkMask (namedLinks p)) 0))))) ∧
  (∀ (s : State) (p : Pkt),
    (Accepted s (timeSpec s p 0) p → fld p 0x10 1 ≠ 1 →
      exec (.syncTimeSet p) s = (let b := begun s (timeSpec s p 0) p
        completes { b with time := { b.time with ns := fld p 0x18 8, isSet := true } } s.nextCmd .done 0 0 0)) ∧
    (Accepted s (timeSpec s p 1) p → fld p 0x10 1 = 1 →
      exec (.syncTimeSlew p) s = .next (settle (let b := begun s (timeSpec s p 1) p
        setWait { b with time := { b.time with slew := b.time.slew + sgn 64 (fld p 0x18 8) } } s.nextCmd .slew))))

/-- An accepted RETIRE_UNIT of a unit in service retires it as a permanent fault would, and waits until it is out; of a unit that
is out already it completes with DONE and detail 1. An accepted RESTORE_UNIT of a unit other than a hearth begins its test and
waits for its end; of a hearth, it begins the hearth's boot and waits for its end. -/
def Obligations.UnitsRetireAndRestore : Prop :=
  ∀ (s : State) (p : Pkt),
    (Accepted s (retireUnitSpec p s) p →
      let b := begun s (retireUnitSpec p s) p
      (isOut (hearthOf b (named1 p)) (unitRefOf p) = true → exec (.retireUnit p) s = completes b s.nextCmd .done 1 0 0) ∧
      (isOut (hearthOf b (named1 p)) (unitRefOf p) = false → exec (.retireUnit p) s =
        .next (settle (updH (setWait b s.nextCmd (.retire (named1 p) (unitRefOf p))) (named1 p)
          (fun hh => permanent hh (selKey (unitRefOf p)) 1 0 0 (some s.nextCmd)))))) ∧
    (Accepted s (restoreUnitSpec p s) p →
      let b := begun s (restoreUnitSpec p s) p
      exec (.restoreUnit p) s = .next (settle (updH (setWait b s.nextCmd (.restore (named1 p) (unitRefOf p))) (named1 p)
        (fun hh => if unitRefOf p = .hearth then { hh with
            st := .booting, rail := true, clkStep := 64, retiredWhole := false, everReady := false, timeBase := b.time.ns
            restoring := hh.restoring ++ [(unitRefOf p, s.nextCmd)] }
          else { hh with restoring := hh.restoring ++ [(unitRefOf p, s.nextCmd)] }))))

/-- An accepted RESET_HEARTH ends every step of the named hearths that are not too hot with ABORTED_BY_HOST and puts those
hearths into their reset state (R402), in which they boot; the command waits for them. An accepted module warm reset ends every
step and every other started command with ABORTED_BY_HOST, resets every hearth and counts a boot (R469), as warmReset says: from
there the module is in BOOT and reads no ring; workloads, role, activations and the cells of commands are gone; no challenge and
no debug access is live; and the command waits for the module's boot. -/
def Obligations.ResetCommandsAct : Prop :=
  (∀ (s : State) (p : Pkt), Accepted s (resetHearthSpec p) p →
    exec (.resetHearth p) s = .next (settle (
      let b := begun s (resetHearthSpec p) p
      let hs := (named p).filter (fun h => !tooHot (hearthOf b h))
      let b := setWait b s.nextCmd (.reset p.hearths .done)
      hs.foldl (fun s h =>
        updH { s with
          fresh := s.fresh + 1
          trust := { s.trust with measHearth := mput 0 s.trust.measHearth h 0 } } h (resetHearth s.fresh))
        (onHearths b hs (fun e hh => endAll e hh .abortedByHost))))) ∧
  (∀ gen hh, (resetHearth gen hh).st = .booting ∧ (resetHearth gen hh).rail = true ∧ (resetHearth gen hh).clkStep = 64 ∧
    (resetHearth gen hh).snap = none ∧ (resetHearth gen hh).load = none) ∧
  (∀ (s : State) (p : Pkt), Accepted s (moduleWarmResetSpec p) p →
    exec (.moduleWarmReset p) s = .next (settle (warmReset s.nextCmd (begun s (moduleWarmResetSpec p) p)))) ∧
  (∀ (s : State) (id : Nat), let t := warmReset id s
    t.mod = .boot ∧ t.ringsOn = false ∧ t.romEngine = false ∧ t.accounts = [] ∧ t.role = {} ∧ t.activation = [] ∧
      t.cmdCells = [] ∧ t.linkCells = [] ∧ t.trust.debug = [] ∧ t.trust.challenge = none ∧ t.power.warm = some id)

/-- Accepted SET_POWER_CAP writes the cap in force, and completes. SAMPLE_CONTROL starts sampling in the named hearths with every
histogram clear, stops it, and writes the histograms asked for to its buffer. CALIBRATION_CONTROL reads the stored state and the
escalation record, writes the selected values to every named hearth, or gives them their reset values. Each completes with
DONE, the read of histograms with what the writing of its buffer gives. -/
def Obligations.PowerSamplingAndCalibrationCommandsAct : Prop :=
  (∀ (s : State) (p : Pkt),
    (Accepted s (setPowerCapSpec p) p →
      exec (.setPowerCap p) s = completes (takeCap (begun s (setPowerCapSpec p) p) (fld p 0x10 2)) s.nextCmd .done 0 0 0) ∧
    (Accepted s (sampleSpec p 0) p → fld p 0x10 1 ≠ 1 → fld p 0x10 1 ≠ 2 →
      exec (.sampleStart p) s = completes ((named p).foldl (fun s h =>
        updH s h (fun hh => { hh with sampling := some (fld p 0x11 1), hist := [] })) (begun s (sampleSpec p 0) p))
          s.nextCmd .done 0 0 0) ∧
    (Accepted s (sampleSpec p 1) p → fld p 0x10 1 = 1 →
      exec (.sampleStop p) s = completes ((named p).foldl (fun s h => updH s h (fun hh => { hh with sampling := none }))
        (begun s (sampleSpec p 1) p)) s.nextCmd .done 0 0 0) ∧
    (Accepted s (sampleSpec p 2) p → fld p 0x10 1 = 2 →
      exec (.sampleRead p) s = .next (settle (let b := begun s (sampleSpec p 2) p
        reportAndFinish b s.nextCmd (fld p 0x20 8) ((List.range (fld p 0x18 4)).flatMap (fun i =>
          histBytes (hearthOf b (named1 p)) (fld p 0x14 4 + i))) .done 0 0 0)))) ∧
  (∀ s w, (takeCap s w).regs.capW = w) ∧
  (∀ (s : State) (p : Pkt),
    (Accepted s (calSpec p 0) p → fld p 0x10 1 ≠ 1 → fld p 0x10 1 ≠ 2 →
      exec (.calibrationRead p) s = (let b := begun s (calSpec p 0) p
        let hh := hearthOf b (named1 p)
        completes b s.nextCmd .done 0 (calOf hh (fld p 0x11 1) (fld p 0x12 1)).state.toNat
          (escRec hh (fld p 0x11 1) (fld p 0x13 1)).toNat)) ∧
    (Accepted s (calibrationWriteSpec p s) p → fld p 0x10 1 = 1 →
      exec (.calibrationWrite p) s = completes ((named p).foldl (fun s h => updH s h (fun hh =>
        setCal hh (fld p 0x11 1) (fld p 0x12 1) (fld p 0x13 1) (fld p 0x14 1) (BitVec.ofNat 64 (fld p 0x18 8))
          (BitVec.ofNat 64 (fld p 0x20 8)) (fld p 0x28 8))) (begun s (calibrationWriteSpec p s) p)) s.nextCmd .done 0 0 0) ∧
    (Accepted s (calSpec p 2) p → fld p 0x10 1 = 2 →
      exec (.calibrationReset p) s = completes ((named p).foldl (fun s h => updH s h (fun hh =>
        setCal hh (fld p 0x11 1) (fld p 0x12 1) (fld p 0x13 1) (fld p 0x14 1) 0x0060000000000000 0x000000007F800000 0))
          (begun s (calSpec p 2) p)) s.nextCmd .done 0 0 0))

/-- An accepted ATTEST is signed at once where the identity engine runs, has failed, or the device is killed, and waits for the engine
otherwise. Accepted SET_ALARM_POLICY, ZEROIZE and DEBUG_UNLOCK with PHASE 1 whose block is read: under an authorisation
that holds they consume the live challenge, clear SIG_FAILS, act and complete with DONE; under one that fails they complete with
REJECTED_SECURITY and the detail of the first failure, which counts in SIG_FAILS where the detail is 2 to 6. DEBUG_UNLOCK with PHASE 0
makes a new challenge live and answers it. -/
def Obligations.TrustCommandsAct : Prop :=
  ∀ (s : State) (p : Pkt),
    let refuses (b : State) (d : Nat) : Host.Outcome State Fault Refusal :=
      .next (settle (let t := finish b s.nextCmd .rejectedSecurity d 0 0
        if 2 ≤ d ∧ d ≤ 6 then countSig t else t))
    (Accepted s (attestSpec p) p →
      let b := begun s (attestSpec p) p
      let nonce := BitVec.ofNat 256 (fld p 0x10 32)
      (b.trust.engineOn = true ∨ b.trust.engineFailed = true ∨ b.fuses.kill = true →
        exec (.attest p) s = .next (settle (attestNow b s.nextCmd (fld p 0x30 8) nonce))) ∧
      (b.trust.engineOn = false → b.trust.engineFailed = false → b.fuses.kill = false →
        exec (.attest p) s = .next (settle (setWait b s.nextCmd (.attest (BitVec.ofNat 64 (fld p 0x30 8)) nonce))))) ∧
    (Accepted s (setAlarmPolicySpec p s) p → ∀ bs,
      let b := begun s (setAlarmPolicySpec p s) p
      let r := bufTouch b (fld p 0x18 8) 5500
      bufRead b (fld p 0x18 8) 5500 = some bs →
      (∀ d, authFails r bs 0x00A1 (some (fld p 0x10 1)) false = some d → exec (.setAlarmPolicy p) s = refuses r d) ∧
      (authFails r bs 0x00A1 (some (fld p 0x10 1)) false = none →
        exec (.setAlarmPolicy p) s = (let b := clearSig { r with trust := { r.trust with challenge := none } }
        completes { b with fuses := { b.fuses with
          policySet := true, policyKill := b.fuses.policyKill || fld p 0x10 1 == 1 } } s.nextCmd .done 0 0 0))) ∧
    (Accepted s (zeroizeSpec p) p → ∀ bs,
      let b := begun s (zeroizeSpec p) p
      let r := bufTouch b (fld p 0x18 8) 5500
      bufRead b (fld p 0x18 8) 5500 = some bs →
      (∀ d, authFails r bs 0x00A3 (some 0) false = some d → exec (.zeroize p) s = refuses r d) ∧
      (authFails r bs 0x00A3 (some 0) false = none →
        exec (.zeroize p) s = (let b := clearSig { r with trust := { r.trust with challenge := none } }
        completes { b with fuses := { b.fuses with kill := true, helperLeft := 0 } } s.nextCmd .done 0 0 0))) ∧
    (Accepted s (debugSpec p true) p → fld p 0x10 1 = 1 → ∀ bs,
      let b := begun s (debugSpec p true) p
      let r := bufTouch b (fld p 0x18 8) 5500
      bufRead b (fld p 0x18 8) 5500 = some bs →
      (∀ d, authFails r bs 0x00A2 none true = some d → exec (.debugUnlockResponse p) s = refuses r d) ∧
      (authFails r bs 0x00A2 none true = none →
        exec (.debugUnlockResponse p) s = (let b := clearSig { r with trust := { r.trust with challenge := none } }
        completes { b with trust := { b.trust with debug := b.trust.debug ++
          [(BitVec.ofNat 10 (cutNum bs 6 2), b.time.ns + cutNum bs 0x20 4 * 1000000000)] } } s.nextCmd .done 0 0 0))) ∧
    (Accepted s (debugSpec p false) p → fld p 0x10 1 ≠ 1 →
      exec (.debugUnlockChallenge p) s = (let b := begun s (debugSpec p false) p
        let c := Config.challenge b.fresh
        completes { b with fresh := b.fresh + 1, trust := { b.trust with challenge := some c } } s.nextCmd .done 0
          (c.toNat % 2 ^ 64) (c.toNat / 2 ^ 64)))

/-! ### Commands that are turned away -/

/-- In ALARM a command that Table 12-9 does not allow there is answered ALARM_LOCKED with the sources as detail: its slots are
taken, and nothing of it is executed (R387, Table 12-5). A command that a check of Table 12-5 rejects executes nothing: its
slots are taken and its record is written, whatever the command would have done, and no command is started. -/
def Obligations.RejectedCommandsExecuteNothing : Prop :=
  (∀ (s : State) (p : Pkt) (c : CmdSpec) (run : Nat → State → State),
    s.mod = .alarm → c.alarm = false → startable s c.code p = true → slotsInWindow s p = true →
    submit s p c run = post (takeSlots s p)
      { src := p.src, opcode := c.code, hostTag := p.hostTag, sqHead := headOf (takeSlots s p) p.src } .alarmLocked
      s.trust.sources.toNat 0 0 none) ∧
  (∀ (s : State) (p : Pkt) (c : CmdSpec) (run : Nat → State → State) (st : Status) (det : Nat),
    startable s c.code p = true → slotsInWindow s p = true →
    checks (takeSlots s p) c p (overruns s p) = some (st, det) →
    submit s p c run = post (takeSlots s p)
      { src := p.src, opcode := c.code, hostTag := p.hostTag, sqHead := headOf (takeSlots s p) p.src } st det 0 0 none ∧
    (post (takeSlots s p)
      { src := p.src, opcode := c.code, hostTag := p.hostTag, sqHead := headOf (takeSlots s p) p.src } st det 0 0 none).started
      = s.started)

/-! ### The host port -/

/-- SQ_DOORBELL of an enabled ring makes its slots up to TAIL unread; a TAIL that is not below 2^LOG2_SLOTS stops the ring with
ERROR and ERR_CAUSE 3. Clearing ENABLE changes the ring's own register alone, so that commands already read run on; no command
of a ring that is disabled or stopped is read (R370). -/
def Obligations.DoorbellsMoveTailAndRingsStop : Prop :=
  ∀ (s : State) (n : Nat) (v : W64), n < 8 →
    (barOk s = true → (sqOf s n).enable = true →
      (v.toNat % 65536 < 2 ^ (sqOf s n).log2 →
        exec (.sqDoorbell n v) s = .next (putSq s n { sqOf s n with tail := v.toNat % 65536 })) ∧
      (2 ^ (sqOf s n).log2 ≤ v.toNat % 65536 →
        exec (.sqDoorbell n v) s = .next (putSq s n { sqOf s n with error := true, cause := 3 })) ∧
      exec (.sqDisable n v) s = .next (putSq s n { sqOf s n with enable := false, priority := v.toNat / 2 ^ 59 % 8 })) ∧
    (∀ q, { putSq s n q with regs := s.regs } = s) ∧
    ((sqOf s n).enable = false ∨ (sqOf s n).error = true →
      ∀ (p : Pkt) (code : Nat), p.src = .ring n → startable s code p = false)

/-- CQ_HEAD_WRITE moves HEAD where it marks as consumed only records that the device has written; a write that breaks a
condition leaves HEAD unchanged and stops the ring with ERR_CAUSE 3, with ENABLE still set. A stopped ring takes no record: the
records are dropped and counted in CQ_DROPPED, and nothing else changes. Clearing ENABLE and setting it again clears the
condition, with head and tail 0 (R371). -/
def Obligations.CompletionHeadMovesOrStopsTheRing : Prop :=
  ∀ (s : State) (n : Nat) (v : W64), n < 8 →
    let q := cqOf s n
    let h' := v.toNat % 65536
    let size := 2 ^ q.log2
    (barOk s = true →
      (h' < size ∧ (h' + size - q.head) % size ≤ (q.tail + size - q.head) % size →
        exec (.cqHeadWrite n v) s = .next (putCq s n { q with head := h' })) ∧
      (¬(h' < size ∧ (h' + size - q.head) % size ≤ (q.tail + size - q.head) % size) →
        exec (.cqHeadWrite n v) s = .next (putCq s n { q with error := true, cause := 3 })) ∧
      (q.enable = true → exec (.cqDisable n v) s = .next (putCq s n { q with enable := false })) ∧
      (q.enable = false → ringFits s q.base (v.toNat % 32) 32 → exec (.cqEnable n v) s = .next (putCq s n { q with
        enable := true, error := false, cause := 0, log2 := v.toNat % 32, head := 0, tail := 0, phase := true }))) ∧
    (q.error = true → ∀ l, writeCompletion s n l =
      { s with regs := { s.regs with cqDropped := sat 16 (s.regs.cqDropped + l.length) } })

/-- A write that sets ENABLE checks the ring: one that fails stays disabled, with ERROR set and ERR_CAUSE 2 where LOG2_SLOTS is
not 4 to 16, and 1 where a size and an alignment that pass meet no window; one that passes is enabled with ERROR clear and head
and tail 0. While ENABLE is 1, writes to BASE and LOG2_SLOTS are ignored. The completions of submission ring n go to completion
ring n; records that fall due while it is disabled, or that do not fit below the records not yet consumed, are dropped and
counted, and nothing else changes (R369). -/
def Obligations.RingsEnableUnderTheirCheck : Prop :=
  ∀ (s : State) (n : Nat) (v : W64), n < 8 →
    (barOk s = true →
      let lg := v.toNat % 32
      let pr := v.toNat / 2 ^ 59 % 8
      let sq := sqOf s n
      let cq := cqOf s n
      (sq.enable = false → ringFits s sq.base lg 64 → exec (.sqEnable n v) s = .next (putSq s n { sq with
        enable := true, error := false, cause := 0, priority := pr, log2 := lg, head := 0, tail := 0 })) ∧
      (sq.enable = false → ¬ringFits s sq.base lg 64 → exec (.sqEnable n v) s = .next (putSq s n { sq with
        priority := pr, log2 := lg, error := true, cause := ringCheck s.regs sq.base lg 64 })) ∧
      (sq.enable = true → exec (.sqEnable n v) s = .next (putSq s n { sq with priority := pr }) ∧
        exec (.sqDisable n v) s = .next (putSq s n { sq with enable := false, priority := pr }) ∧
        exec (.registerWrite (0x3000 + 0x40 * n) 8 v) s = .next s) ∧
      (cq.enable = false → ringFits s cq.base lg 32 → exec (.cqEnable n v) s = .next (putCq s n { cq with
        enable := true, error := false, cause := 0, log2 := lg, head := 0, tail := 0, phase := true })) ∧
      (cq.enable = false → ¬ringFits s cq.base lg 32 → exec (.cqEnable n v) s = .next (putCq s n { cq with
        log2 := lg, error := true, cause := ringCheck s.regs cq.base lg 32 })) ∧
      (cq.enable = true → exec (.cqEnable n v) s = .next s ∧
        exec (.cqDisable n v) s = .next (putCq s n { cq with enable := false }) ∧
        exec (.registerWrite (0x3020 + 0x40 * n) 8 v) s = .next s)) ∧
    (∀ (base : BitVec 52) (lg bytes : Nat),
      (lg < 4 ∨ 16 < lg → ringCheck s.regs base lg bytes = 2) ∧
      (4 ≤ lg → lg ≤ 16 → base.toNat * 4096 % max (2 ^ lg * bytes) 4096 = 0 →
        inWindow s.regs (base.toNat * 4096) (2 ^ lg * bytes) = false → ringCheck s.regs base lg bytes = 1)) ∧
    (∀ o st det r0 r1 two, o.src = .ring n → post s o st det r0 r1 two = writeCompletion s n (record1 o st det r0 r1 ::
      match two with | some (a, b, c, d) => [record2 a b c d] | none => [])) ∧
    (∀ l, (cqOf s n).enable = false ∨ 2 ^ (cqOf s n).log2 - 1 <
        ((cqOf s n).tail + 2 ^ (cqOf s n).log2 - (cqOf s n).head) % 2 ^ (cqOf s n).log2 + l.length →
      writeCompletion s n l = { s with regs := { s.regs with cqDropped := sat 16 (s.regs.cqDropped + l.length) } })

/-- A write of JD_POWER_CAP outside 1,500 to 4,800 leaves CAP_W unchanged and sets CAP_REJECT; within it CAP_W takes the
value, and CAP_REJECT clears where the write gives it a 1 (R363). While the power controller has not failed nothing else
changes. -/
def Obligations.PowerCapWriteChecksItsRange : Prop :=
  ∀ (s : State) (v : W64), barOk s = true →
    (1500 ≤ v.toNat / 2 ^ 48 → v.toNat / 2 ^ 48 ≤ 4800 →
      exec (.powerCapWrite v) s = .next (takeCap { s with regs := { s.regs with
        capReject := s.regs.capReject && !nbit v.toNat 0 } } (v.toNat / 2 ^ 48))) ∧
    (∀ b w, (takeCap b w).regs = { b.regs with capW := w } ∧
      (b.power.controllerFailed = false → takeCap b w = { b with regs := { b.regs with capW := w } })) ∧
    (v.toNat / 2 ^ 48 < 1500 ∨ 4800 < v.toNat / 2 ^ 48 →
      exec (.powerCapWrite v) s = .next { s with regs := { s.regs with capReject := true } })

/-- With BAR 0 answering: a bias word takes the value written; a read of JD_HEALTH answers its value and clears SIG_NEW and
CQ_DROPPED; in CXL mode a decoder commits where its ways and range are legal and shows Error Not Committed otherwise; a write of 8
aligned bytes to a JD_ register acts on it as regWrite says, and one of 4 bytes to a doorbell as a doorbell. None of these changes
anything else. -/
def Obligations.RegistersReadAndWrite : Prop :=
  ∀ (s : State), barOk s = true →
    (∀ n v, n < 36 → exec (.biasWrite n v) s = .next { s with regs := { s.regs with bias := mput 0 s.regs.bias n v } }) ∧
    exec .healthRead s = .next { clearHealth s with rsp := .reg (BitVec.ofNat 64 (regHealth s)) } ∧
    (∀ d hpa size skip ways, d < 2 → s.regs.cxl = true →
      let ok := ways = 1 ∧ size % 0x10000000 = 0 ∧ decoderDpa s d skip + size ≤ 0x24000000000
      exec (.hdmDecoderCommit d hpa size skip ways) s = .next { s with regs := { s.regs with
        decoders := mput {} s.regs.decoders d
          { hpa := hpa, size := size, skip := skip, committed := decide ok, error := decide (¬ok), iw := waysCode ways } } }) ∧
    (∀ off v, off % 8 = 0 → 0x2000 ≤ off → exec (.registerWrite off 8 v) s = .next (regWrite off v s)) ∧
    (∀ n v, n < 8 → exec (.registerWrite (0x3000 + 0x40 * n + 0x10) 4 v) s = .next (doorbell n (v &&& 0xFFFFFFFF) s))

/-! ### CXL.mem and memory -/

/-- With CXL up: a read of a line that memory serves answers what outsideRead reads there, marked poisoned where it is bad; of a hole
it answers a line of zeros marked poisoned and counts the read (R268). A write writes the runs of masked bytes of its line into
the hearth that serves it; at a hole it is discarded and counted (R268). A host-bias access brings the host's line into
memory (R367). -/
def Obligations.CxlReadsAndWritesLines : Prop :=
  (∀ (s : State) (dpa : Nat), cxlUp s = true →
    (∀ h a, cxlLocal s (dpa / 64 * 64) = some (h, a) →
      let r := outsideRead (envOf s h) (hearthOf s h) a 64
      exec (.cxlMemRead dpa) s = .next (settle { putH s h r.1 with rsp := .line (BitVec.ofNat 512 (ofLE r.2.1)) r.2.2 })) ∧
    (cxlLocal s (dpa / 64 * 64) = none →
      exec (.cxlMemRead dpa) s = .next (settle { updH s (dpa / 64 * 64 / 0x4000000000) (fun hh =>
        { hh with holeReads := sat 64 (hh.holeReads + 1) }) with rsp := .line 0 true }))) ∧
  (∀ (s : State), cxlUp s = true →
    (∀ dpa data mask h a, cxlLocal s (dpa / 64 * 64) = some (h, a) →
      exec (.cxlMemWrite dpa data mask) s = .next (settle (updH s h (fun hh =>
        (maskRuns (leBytes 64 data.toNat) mask.toNat).foldl (fun hh r => outsideWrite hh (a + r.1) r.2) hh)))) ∧
    (∀ dpa data mask, cxlLocal s (dpa / 64 * 64) = none →
      exec (.cxlMemWrite dpa data mask) s = .next (settle (updH s (dpa / 64 * 64 / 0x4000000000) (fun hh =>
        { hh with holeWrites := sat 64 (hh.holeWrites + 1) })))) ∧
    (∀ h a line, h < 9 → cxlServed (hearthOf s h) = true → hostBias s h (a / 64 * 64) = true →
      (a / 64 * 64 < topOf (hearthOf s h) ∨ (sliceOf (hearthOf s h) (a / 64 * 64)).isSome = true) →
      exec (.hostBiasAccess h a line) s =
        .next (settle (updH s h (fun hh => outsideWrite hh (a / 64 * 64) (leBytes 64 line.toNat))))))

/-- A write of bytes into a hearth that holds no error pattern: each byte written reads back, and every other byte of its memory
reads as before. The memory keeps its canonical form, and nothing else of the hearth changes but its ranges of free values. -/
def Obligations.HearthWritesReadBackAndFrameTheRest : Prop :=
  ∀ (hh : Hearth) (a : Nat) (bs : List Byte), Memory.wf hh.mem = true → hh.errs = [] →
    (∀ i, i < bs.length → hByte (hWrite hh a bs) (a + i) = bs.getD i 0) ∧
    (∀ b, b < a ∨ a + bs.length ≤ b → hByte (hWrite hh a bs) b = hByte hh b) ∧
    Memory.wf (hWrite hh a bs).mem = true ∧ (hWrite hh a bs).errs = [] ∧
    { hWrite hh a bs with mem := hh.mem, wild := hh.wild } = hh

/-- The 72/64 code (R411, R412): a word with no error reads clean, with one wrong data bit or one wrong check bit it reads
corrected at that bit, with any two wrong bits it reads uncorrectable, but for the eight pairs of data bits 8k + 7 and 8((k +
5) mod 8), which read poisoned, and the poison pattern reads poisoned. The syndrome is linear: that of two error patterns
together is the sum of theirs, so what is stored does not matter. -/
def Obligations.CodeCorrectsSingleAndDetectsDoubleErrors : Prop :=
  (errSyndrome (0, 0) = 0 ∧ syndromeMeaning 0 = .clean ∧
    (∀ j, j < 64 → syndromeMeaning (errSyndrome (BitVec.ofNat 64 (2 ^ j), 0)) = .data j) ∧
    (∀ j, j < 8 → syndromeMeaning (errSyndrome (0, BitVec.ofNat 8 (2 ^ j))) = .check) ∧
    (∀ i j, i < j → j < 64 → syndromeMeaning (errSyndrome (BitVec.ofNat 64 (2 ^ i + 2 ^ j), 0)) =
      if (i % 8 = 7 ∧ j = 8 * ((i / 8 + 5) % 8)) ∨ (j % 8 = 7 ∧ i = 8 * ((j / 8 + 5) % 8)) then .poisoned
      else .uncorrectable) ∧
    (∀ i j, i < 64 → j < 8 → syndromeMeaning (errSyndrome (BitVec.ofNat 64 (2 ^ i), BitVec.ofNat 8 (2 ^ j))) = .uncorrectable) ∧
    (∀ i j, i < j → j < 8 → syndromeMeaning (errSyndrome (0, BitVec.ofNat 8 (2 ^ i + 2 ^ j))) = .uncorrectable) ∧
    syndromeMeaning (errSyndrome poisonErr) = .poisoned) ∧
  (∀ a b : W64 × Byte, errSyndrome (a.1 ^^^ b.1, a.2 ^^^ b.2) = errSyndrome a ^^^ errSyndrome b)

/-! ### Events at the port, resets and power -/

/-- A hot reset, a link down and the loss of the PCIe reference reset the port's registers and nothing else (Table 11-18, R472):
the cap stays; the link is down, and rings, windows and bias take their reset values. D3hot, with the link up, and D0 change the
port's power state alone. Training of a port whose link is down, with the mantel on, PERST# released and the port not failed,
brings the link up in the mode, width and speed it found. -/
def Obligations.PortEventsChangeThePortOnly : Prop :=
  ∀ s : State,
    exec .hotReset s = .next { s with regs := portReset s.regs } ∧
    exec .pcieRefclkLoss s = .next { s with regs := portReset s.regs } ∧
    (s.regs.linkUp = true → exec .d3hotEntry s = .next { s with regs := { s.regs with d3hot := true } }) ∧
    exec .d0Return s = .next { s with regs := { s.regs with d3hot := false } } ∧
    (∀ cxl width speed, (width = 4 ∨ width = 8 ∨ width = 16) → 1 ≤ speed → speed ≤ 3 → s.power.mantelOn = true →
      s.power.perst = false → s.regs.linkUp = false → s.hostPortFailed = false →
      exec (.cxlLinkTraining cxl width speed) s = .next { s with regs := { s.regs with
        linkWidth := width, linkSpeed := speed, cxl := cxl, linkUp := true } }) ∧
    (portReset s.regs).capW = s.regs.capW ∧ (portReset s.regs).linkUp = false ∧ (portReset s.regs).sq = [] ∧
    (portReset s.regs).cq = [] ∧ (portReset s.regs).winBase = [] ∧ (portReset s.regs).bias = []

/-- The module cold resets (Table 15-3): PERST#, the loss of input power, a mantel over-temperature, and the return of input
power. Each leaves the module in BOOT with every hearth ABSENT, its registers at their reset values and no command started;
fuses, flash, host memory and the queue stay as they were; each sets its own rails and pin. -/
def Obligations.ColdResetsKeepFusesAndFlash : Prop :=
  ∀ s : State,
    let c := coldReset s
    exec .perstAssert s = .next { c with power := { c.power with perst := true } } ∧
    exec .inputOutOfRange s =
      .next { c with power := { c.power with inputOk := false, mantelOn := false, latchedOff := false } } ∧
    exec .mantelOvertemp s = .next { c with power := { c.power with mantelOn := false, latchedOff := true } } ∧
    (s.power.inputOk = false →
      exec .powerUp s = .next { c with power := { c.power with inputOk := true, mantelOn := true, latchedOff := false } }) ∧
    c.mod = .boot ∧ c.fuses = s.fuses ∧ c.flash = s.flash ∧ c.hostMem = s.hostMem ∧ c.pending = s.pending ∧
    c.started = [] ∧ c.regs = {} ∧ c.power = { s.power with booted := false, warm := none, pool := 0, budget := 0 } ∧
    ∀ h, (hearthOf c h).st = .absent

/-- The boot of the module: PERST# released, or not asserted 200 ms after power good, starts it and counts the boot (R446, R467).
A booting module with an image that verifies starts the first of them: it is in SERVICE and reads its rings, and a higher
SECVER of the active slot is fused (R447); where none verifies, the boot ROM's ring engine answers (R446). -/
def Obligations.ModuleBootReachesService : Prop :=
  ∀ s : State,
    (s.power.mantelOn = true → s.power.perst = true → exec .perstRelease s = .next (startBoot s)) ∧
    (s.power.mantelOn = true → s.power.booted = false → s.mod ≠ .alarm → exec .perstWaitExpiry s = .next (startBoot s)) ∧
    ((startBoot s).mod = .boot ∧ (startBoot s).power.booted = true ∧ (startBoot s).power.perst = false ∧
      (s.flash.writable = true → (startBoot s).flash.bootCount = (s.flash.bootCount + 1) % 2 ^ 32)) ∧
    (s.mod = .boot → s.power.booted = true → s.ringsOn = false → s.romEngine = false → s.pairsFailed = false →
      ∀ i x, moduleImage s = some (i, x) → exec .moduleFirmwareStart s = .next (settle (markRetired { s with
        mod := .service, ringsOn := true, standbyOk := true, sidebandOn := !s.sidebandFailed
        fuses := { s.fuses with rollbackModule :=
          if i = s.flash.modActive then max s.fuses.rollbackModule x.secver else s.fuses.rollbackModule }
        trust := { s.trust with measModule := x.hash, fwVersion := x.version }
        regs := { s.regs with cfgOk := true } }))) ∧
    (s.mod = .boot → s.power.booted = true → s.ringsOn = false → moduleImage s = none →
      exec .bootRomRingEngine s = .next { s with romEngine := true, regs := { s.regs with cfgOk := true } })

/-- A hearth's rails come on once no lower hearth waits for its own, and it boots (R466). A boot that succeeds, with a hearth image
that verifies, makes it READY under that image as bootReady says, fuses a higher SECVER of the active slot (R446, R447), and
returns a hearth under RESTORE_UNIT to service, which completes with DONE; a boot that fails makes it FAULTED, or leaves it retired
under RESTORE_UNIT, which completes with ABORTED_FAULT and detail 6 (R391, R430). -/
def Obligations.HearthsPowerOnAndBoot : Prop :=
  ∀ (s : State) (h : Nat),
    (s.mod = .service ∨ s.mod = .operational → s.ringsOn = true → (hearthOf s h).st = .absent → lowerWaits s h = false →
      exec (.hearthPowerOn h) s = .next (updH s h (fun hh =>
        { hh with st := .booting, fromPower := true, rail := true, clkStep := 64, timeBase := s.time.ns }))) ∧
    ((hearthOf s h).st = .booting →
      let b := updH s h (fun hh =>
        { hh with fromPower := false, restoring := hh.restoring.filter (fun x => x.1 != .hearth) })
      let waiting := (hearthOf s h).restoring.find? (fun x => x.1 == .hearth)
      (∀ i fw, hearthImage s = some (i, fw) →
        let r := bootReady { b with fuses := { b.fuses with
          rollbackHearth := if i = s.flash.hearthActive then max s.fuses.rollbackHearth fw.secver
            else s.fuses.rollbackHearth } } h fw
        (waiting = none → exec (.hearthBootComplete h true) s = .next (settle r)) ∧
        (∀ u id, waiting = some (u, id) →
          exec (.hearthBootComplete h true) s = completes (restored r h .hearth) id .done 0 0 0)) ∧
      let f := updH s h (fun hh => { hh with
        firstBoot := true, fromPower := false, restoring := hh.restoring.filter (fun x => x.1 != .hearth) })
      (waiting = none → exec (.hearthBootComplete h false) s =
        .next (settle (updH f h (fun hh => { hh with st := .faulted, firstBoot := true })))) ∧
      (∀ u id, waiting = some (u, id) → exec (.hearthBootComplete h false) s =
        completes (updH (returnTokens f h) h (fun hh => { railsOff hh with firstBoot := true })) id .abortedFault 6 0 0))

/-- Mantel units start and fail (R35, Table 1-12). The identity engine of a module that has booted starts with NEXT at END, and
reserves a block of leaves where flash takes the write (R453). The failures of the identity engine, the verification engine, the
power controller and the sideband endpoint are kept, and recorded in the log of every hearth present. The host port's failure, the
failover to the standby pair and the failure of the command processors are kept and recorded (R36, R415). A source raises the
alarm in a module that is on and not held in reset, as raiseAlarm says (R461). JTAG answers its first four instructions, and any
other where debug access is open for the die; elsewhere it raises the alarm (R458). The one debug access that is open ends, and so
does the challenge (R457, R458). -/
def Obligations.MantelUnitsStartAndFail : Prop :=
  (∀ s : State,
    (s.trust.engineOn = false → s.trust.engineFailed = false → s.fuses.kill = false → s.mod ≠ .alarm →
      s.power.booted = true → s.ringsOn = true ∨ s.romEngine = true →
      ∀ ok, exec (.identityEngineStart ok) s = .next (settle (
        let t := { s with trust := { s.trust with engineOn := true, next := s.flash.leafEnd, leafEnd := s.flash.leafEnd } }
        serveAttests (if ok = true ∧ s.flash.writable = true then { t with
          flash := { s.flash with leafEnd := s.flash.leafEnd + 1024 }
          trust := { t.trust with leafEnd := s.flash.leafEnd + 1024 } } else t)))) ∧
    (s.trust.engineFailed = false → exec .identityEngineFailure s = .next (settle (serveAttests
      (mantelFail { s with trust := { s.trust with engineFailed := true, engineOn := false } } 1)))) ∧
    (s.trust.verifyFailed = false → exec .verificationEngineFailure s =
      .next (settle (mantelFail { s with trust := { s.trust with verifyFailed := true } } 2))) ∧
    (s.power.controllerFailed = false → s.power.mantelOn = true → exec .powerControllerFailure s = .next (mantelFail { s with
      power := { s.power with controllerFailed := true }
      sensors := [3, 4, 5].foldl (fun m i => mupd {} m i (fun x => { x with state := 4 })) s.sensors } 0)) ∧
    (s.sidebandFailed = false → exec .sidebandEndpointFailure s = .next (mantelFail { s with sidebandFailed := true } 3))) ∧
  (∀ s : State,
    (s.hostPortFailed = false → exec .hostPortFail s = .next (settle (logAll { s with hostPortFailed := true } 0x0063
      (pathOf 13 0 0 0 0 0) 0 (linkDetail s.regs)))) ∧
    (s.standbyOk = true → s.pairsFailed = false → exec .failover s = .next (settle (
      let t := logAll { s with pairBucket := [] } 0x0064 (pathOf 10 0 0 0 0 0) 0 (detailOf [(0, 1, 0)])
      { t with standbyOk := false, regs := { t.regs with failover := true } }))) ∧
    (s.pairsFailed = false → exec .commandProcessorsFail s = .next (settle (
      logAll { s with pairsFailed := true, standbyOk := false } 0x0064 (pathOf 10 0 0 0 1 0) 0 (detailOf [(0, 1, 1)])))) ∧
    (∀ src, s.power.mantelOn = true → s.power.perst = false → exec (.alarm src) s = .next (settle (raiseAlarm s src))) ∧
    (∀ die ir, s.power.mantelOn = true →
      (ir < 4 ∨ (debugScope s.trust).getLsbD (scopeBit die) = true →
        exec (.jtagInstruction die ir) s = .next { s with rsp := .jtag true }) ∧
      (4 ≤ ir → (debugScope s.trust).getLsbD (scopeBit die) = false →
        exec (.jtagInstruction die ir) s = .next (settle { raiseAlarm s .debug with rsp := .jtag false }))) ∧
    (∀ x, s.trust.debug = [x] → exec .debugAccessExpiry s = .next { s with trust := { s.trust with debug := [] } }) ∧
    exec .challengeExpiry s = .next { s with trust := { s.trust with challenge := none } })

/-- Tokens (R474, R475): with the power controller working and the module out of BOOT, a share completes, and changes nothing of the
module but the hearths, the pool and the budget, and nothing of a hearth but its tokens, its grant and its demand. The budget
becomes that of the cap at once where it rises, and never falls below it. What the hearths and the pool hold together
changes as the budget does: a share neither makes tokens nor loses them. -/
def Obligations.TokenSharesFollowTheBudget : Prop :=
  (∀ (s : State) (demand : List Nat), s.power.controllerFailed = false → s.mod ≠ .boot →
    ∃ t, exec (.tokenShare demand) s = .next t ∧ { t with hearths := s.hearths, power := s.power } = s ∧
      { t.power with pool := s.power.pool, budget := s.power.budget } = s.power ∧
      (smapWf ({} : Hearth) s.hearths = true → ∀ h, { hearthOf t h with
        tokens := (hearthOf s h).tokens, grant := (hearthOf s h).grant, demand := (hearthOf s h).demand } = hearthOf s h) ∧
      (s.power.budget ≤ tokenBudget s → t.power.budget = tokenBudget s) ∧ tokenBudget s ≤ t.power.budget) ∧
  (∀ (s t : State) (demand : List Nat), smapWf ({} : Hearth) s.hearths = true → exec (.tokenShare demand) s = .next t →
    totalTokens t + s.power.budget = totalTokens s + t.power.budget)

/-- A hearth with its rails on. Its clock runs at the smaller of its token step, 16 while a short cap holds it there, and its
thermal limit (R473, R479); the limit falls by one at or above 95 °C, rises by one below 93 °C, within 16 to 64, and stays
between (R478). A draw above the cap in force by more than 5 %, with the power controller working, puts every powered hearth to
step 16 (R477). A thermal shutdown stops a hearth that runs or boots as a fatal event, turns its rails off, and leaves the
contents of its memory undefined (R479). A hearth sends its charges to the mantel (R341). In a module that is on and not held in
reset, readings enter the records of their sensors, and the draw is that of the input sensor (R480). -/
def Obligations.ClocksHeatAndSensorsAct : Prop :=
  (∀ (s : State) (h : Nat), (hearthOf s h).rail = true →
    (∀ step, 16 ≤ step → step ≤ 64 → exec (.clockStepChange h step) s = .next (onHearth s h (fun e hh =>
      { accrue e { hh with tokenStep := heldStep s step } with clkStep := min (heldStep s step) hh.thermStep }))) ∧
    (∀ x : Int, exec (.thermalCheck h x) s = .next (onHearth s h (fun e hh =>
      let lim := if 760 ≤ x then max 16 (hh.thermStep - 1) else if x < 744 then min 64 (hh.thermStep + 1) else hh.thermStep
      { accrue e { hh with thermStep := lim, hottest := x, cooled := decide (x < 760) } with
        clkStep := min hh.tokenStep lim }))) ∧
    (∀ w, min s.regs.capW s.fuses.fusedW * 105 < w * 100 → s.power.controllerFailed = false →
      exec (.powerOvershoot w) s = .next (onHearths { s with regs := { s.regs with drawW := sat 16 w } }
        (allHearths.filter (fun h => (hearthOf s h).rail))
        (fun e hh => { accrue e { hh with tokenStep := 16 } with clkStep := 16 }))) ∧
    (readyFrozen (hearthOf s h).st = true ∨ (hearthOf s h).st = .booting →
      exec (.thermalShutdown h) s = .next (settle (onHearth { s with fresh := s.fresh + 1 } h (fun e hh =>
        { hUndef (fatal e hh 4 false) 0 0xF008000000 s.fresh with rail := false, cooled := false, everReady := false }))))) ∧
  (∀ (s : State),
    (s.power.controllerFailed = false → ∀ step, heldStep s step = step) ∧
    (∀ h, exec (.chargeReport h) s = .next (reportCharges s h)) ∧
    (∀ rs, s.power.mantelOn = true → s.power.perst = false → exec (.sensorUpdate rs) s = .next { s with
      sensors := sensorsAfter s rs, sensorTime := s.time.ns
      regs := { s.regs with drawW := sat 16 (match rs.find? (fun r => r.idx == 2) with
        | some r => (r.value / 1000).toNat
        | none => s.regs.drawW) } }))

/-! ### Flue links -/

/-- A channel whose turn it is (R279). With no transit cell waiting, the injection queue's next cell takes the turn. A transit cell
that its port forwards and its link takes goes when the injection queue has none to go or a transit cell did not go last; else
the injection queue's next cell takes the turn. A link word with CREDITS that the buffer can have freed comes in at a port that
is UP: the credits join those of its channel (in a state whose
tables are in canonical form), and LANES is seen; an off-package port then sends its own next word, and on an
on-package link the word is the next of the far port, which has sent it (R276, R277; log 135). -/
def Obligations.CellsLeaveAndCreditsReturn : Prop :=
  (∀ (s : State) (h t c : Nat) (hh hh' : Hearth), hearthOf s h = hh → t < 14 → c < 4 → chanTurn h hh t c = true →
    (hh' = if c % 2 = 0 then putPort hh t { fport hh t with altBulk := c == 0 } else hh) →
    let free := injNext h hh t c = none ∨ mget false (fport hh t).altTransit c = false
    (∀ x, mget [] (fport hh t).transit c = [] → injNext h hh t c = some x →
      exec (.cellInject h t c) s = .next (settle (putH s h (injTurn (envOf s h) hh' t c x)))) ∧
    (∀ q rest, mget [] (fport hh t).transit c = q :: rest → flueForwards hh = true → linkTakes hh t c = true → free →
      exec (.cellInject h t c) s = .next (settle (putH s h (place (envOf s h) (freeSlot (putPort hh' t { fport hh' t with
        transit := mput [] (fport hh' t).transit c rest, altTransit := mput false (fport hh' t).altTransit c true })
          q.port c) t c q)))) ∧
    (∀ q rest x, mget [] (fport hh t).transit c = q :: rest →
      ¬(flueForwards hh = true ∧ linkTakes hh t c = true ∧ free) → injNext h hh t c = some x →
      exec (.cellInject h t c) s = .next (settle (putH s h (injTurn (envOf s h) hh' t c x))))) ∧
  (∀ (s : State) (h t : Nat) (w : BitVec 20), t < 14 → linkUp (hearthOf s h) t = true →
    let c := w.toNat / 2 ^ 18
    let n := w.toNat / 2 ^ 10 % 2 ^ 8
    let f := farHearth h t
    let u := linkTile f h
    let takes (b : State) : Host.Outcome State Fault Refusal :=
      .next (settle (updH b h (fun hh => seeLanes (addCredits hh t c n) t w.toNat)))
    w.toNat % 16 ≠ 14 → mget 0 (fport (hearthOf s h) t).txCredits c + n ≤ rxSlots t c →
      (t < 6 → exec (.linkCreditReturn h t w) s = takes (sendWord s h t)) ∧
      (6 ≤ t → w = nextWord s f u → exec (.linkCreditReturn h t w) s = takes (sendWord s f u))) ∧
  (∀ hh t c n, smapWf ({} : FPort) hh.ports = true → smapWf 0 (fport hh t).txCredits = true →
    mget 0 (fport (addCredits hh t c n) t).txCredits c = mget 0 (fport hh t).txCredits c + n)

/-- Lanes of an off-package port. An equalisation request that reaches a port that is UP or trains moves one tap of one lane by one
step where its limits allow (R280). A lane in service of a port that is UP goes into training, with an event of its class
in its bucket; a port left with no lane is retired (R281). A lane in training returns, unless it or its port is out, or has a
permanent fault. A change of lanes that both ends agree on takes effect with a resynchronisation. -/
def Obligations.LanesTrainAndReturn : Prop :=
  ∀ (s : State) (h t : Nat) (hh : Hearth), hearthOf s h = hh → t < 6 →
    (linkUp hh t = true ∨ (fport hh t).st = .training → ∀ w : BitVec 20,
      let lane := w.toNat / 16 % 4
      let tap := w.toNat / 4 % 4
      tap ≠ 3 → w.toNat % 4 = 1 ∨ w.toNat % 4 = 2 →
      exec (.eqRequest h t w) s = .next (settle (updH (sendWord s h t) h (fun hh =>
        let hs := seeLanes hh t w.toNat
        let v := mget 0 (fport hs t).taps (4 * lane + tap) + (if w.toNat % 4 = 1 then 1 else -1)
        if (Config.tapLimit h t lane tap).1 ≤ v ∧ v ≤ (Config.tapLimit h t lane tap).2 then
          putPort hs t { fport hs t with taps := mput 0 (fport hs t).taps (4 * lane + tap) v } else hs)))) ∧
    (linkUp hh t = true → ∀ lane cause margin, lane < 4 → nbit (fport hh t).lanes.toNat lane = true →
      let key := bucketKey 6 (4 * t + lane)
      exec (.laneEvent h t lane cause margin) s = .next (settle (putH s h (laneless (eventRec (envOf s h)
        (putPort hh t { fport hh t with
          lanes := (fport hh t).lanes &&& BitVec.ofNat 4 (15 - 2 ^ lane)
          training := (fport hh t).training ||| BitVec.ofNat 4 (2 ^ lane) }) key
        { cls := 0x0032, path := BitVec.ofNat 64 (keyPath key), detail := detailOf [(0, 8, cause), (8, 8, margin)] }).1 t)))) ∧
    (∀ lane, lane < 4 → nbit (fport hh t).training.toNat lane = true →
      let p := { fport hh t with training := (fport hh t).training &&& BitVec.ofNat 4 (15 - 2 ^ lane) }
      (exec (.laneRetrainComplete h t lane true) s = .next (settle (putH s h
        (if hh.lanesOut.contains (4 * t + lane) ∨ hh.portsOut.contains t then putPort hh t p
         else putPort hh t { p with lanes := p.lanes ||| BitVec.ofNat 4 (2 ^ lane) })))) ∧
      exec (.laneRetrainComplete h t lane false) s = .next (settle (putH s h
        (permanent (putPort hh t p) (bucketKey 6 (4 * t + lane)) 0 0x0032 (hh.ashNext - 1))))) ∧
    (linkUp hh t = true → exec (.laneChange h t (fport hh t).lanes) s = .next (settle (putH s h
      (startResync (putPort hh t { fport hh t with lanesFar := (fport hh t).lanes }) t 0))))

/-- Links that are UP, and their resynchronisation (R278): a damaged codeword of an off-package link counts its cells and starts
one; on an on-package link the first cells on it are lost, and counted. The request of a resynchronisation gives the other end
four reports to send, and a report gives its channel its credits; the fourth brings the link UP. A link in training comes UP on
its working lanes with full credits, an on-package one with its far end, or returns to DOWN after 200 ms; a link that drains goes
DOWN at the end of the drain (R282). The damper falls a level (R314). The loss of the flue reference is held over, the end of the
holdover takes every link that is UP or trains down, and its return is noted (R472). -/
def Obligations.LinksTrainAndResynchronise : Prop :=
  (∀ (s : State) (h t : Nat), t < 14 →
    let f := farHearth h t
    let u := linkTile f h
    (linkUp (hearthOf s h) t = true →
      (∀ cells, cells ≤ 15 → t < 6 → exec (.codewordUncorrectable h t cells) s =
        .next (settle (updH s h (fun hh => startResync hh t cells)))) ∧
      (∀ cells, cells ≤ 15 → 6 ≤ t →
        let n := min cells ((hearthOf s f).sent.filter (fun x => x.port == u)).length
        exec (.codewordUncorrectable h t cells) s =
          .next (settle (updH (updH s f (fun hh => loseCells hh u n)) h (fun hh => startResync hh t n)))) ∧
      (t < 6 → exec (.resyncRequest h t) s = .next (settle (updH (sendWord s h t) h (fun hh =>
        putPort hh t { fport hh t with reports := [0, 1, 2, 3] })))) ∧
      (6 ≤ t → (farPort s h t).st = .resync → (farPort s h t).asked = false → (farPort s h t).reports = [] →
        exec (.resyncRequest h t) s = .next (settle (updH (sendWord s f u) h (fun hh =>
          putPort hh t { fport hh t with reports := [0, 1, 2, 3] }))))) ∧
    (∀ w : BitVec 20, (fport (hearthOf s h) t).st = .resync → w.toNat % 16 = 14 →
      let c := w.toNat / 2 ^ 18
      let free := w.toNat / 2 ^ 6 % 2 ^ 12
      let takes (b : State) : Host.Outcome State Fault Refusal := .next (settle (updH b h (fun hh => takeReport hh t c free)))
      free ≤ rxSlots t c →
        (t < 6 → exec (.resyncReport h t w) s = takes (sendWord s h t)) ∧
        (6 ≤ t → w = nextWord s f u → exec (.resyncReport h t w) s = takes (sendWord s f u)))) ∧
  (∀ hh t c free, smapWf ({} : FPort) hh.ports = true → smapWf 0 (fport hh t).txCredits = true →
    let p := fport (takeReport hh t c free) t
    let seen := if (fport hh t).report.contains c then (fport hh t).report else (fport hh t).report ++ [c]
    mget 0 p.txCredits c = free ∧ (seen.length = 4 → p.st = .up ∧ p.report = []) ∧
      (seen.length ≠ 4 → p.st = .resync ∧ p.report = seen)) ∧
  (∀ (s : State) (h t : Nat) (hh : Hearth), hearthOf s h = hh → t < 14 →
    let f := farHearth h t
    let u := linkTile f h
    (∀ lanes far, (fport hh t).st = .training → portIn hh t = true → s.power.flueRef ≠ 2 →
      let up (b : State) (ls : BitVec 4) (lf : BitVec 4) : Host.Outcome State Fault Refusal :=
        .next (settle (updH b h (fun hh => putPort (anew hh t) t { fport (anew hh t) t with
          st := .up, lanes := ls, lanesFar := lf, training := 0 })))
      (t < 6 → lanes ≠ 0 → lanes.toNat &&& lanesIn hh t = lanes.toNat →
        exec (.linkTrainingComplete h t lanes far) s = up s lanes far) ∧
      (6 ≤ t → (farPort s h t).st = .training → exec (.linkTrainingComplete h t lanes far) s = up s 15 15) ∧
      (6 ≤ t → (farPort s h t).st = .up → exec (.linkTrainingComplete h t lanes far) s =
        up (updH s f (fun hh => putPort (anew hh u) u { fport (anew hh u) u with st := .up })) 15 15)) ∧
    ((fport hh t).st = .training →
      exec (.linkTrainingTimeout h t) s = .next (settle (putH s h (putPort hh t { fport hh t with st := .down })))) ∧
    ((fport hh t).draining = true → exec (.flueDownDrainEnd h t) s = .next (settle (linkDown s h t))) ∧
    (0 < (fport hh t).damper → injCount (fport hh t) < damperLeave (fport hh t).damper →
      exec (.damperLevelFall h t) s = .next (settle (putH s h
        (putPort hh t { fport hh t with damper := (fport hh t).damper - 1 }))))) ∧
  (∀ s : State,
    (s.power.mantelOn = true → s.power.flueRef = 0 →
      exec .flueRefclkLoss s = .next { s with power := { s.power with flueRef := 1 } }) ∧
    (s.power.flueRef = 1 → exec .flueRefclkHoldoverExpiry s = .next (settle (
      allHearths.foldl (fun s h => ((List.range 14).filter (linkAlive (hearthOf s h))).foldl (fun s t => linkDown s h t) s)
        { s with power := { s.power with flueRef := 2 } }))) ∧
    exec .flueRefclkReturn s = .next { s with power := { s.power with flueRef := 0 } })

/-! ### Cells -/

/-- A cell for another hearth, at a hearth that forwards, goes into the transit queue of the port that routing gives, or is dropped
and counted where no such port is UP (R284, R318). A sequenced cell that its context takes in order is delivered (R296,
R301): a WRITE and a READ_REQ to the memory service, a COMMAND and a COMPLETION to the mantel, a piece of a SIGNATURE or a
TELEMETRY record to the one it belongs to, NOTICES to what they are for, and every other cell to its endpoint. -/
def Obligations.CellsArriveAndAreDelivered : Prop :=
  (∀ (s b : State) (h t : Nat) (c : Cell), takeOff s h t c = some b → addressedHere h (hearthOf b h) (hdrOf c) = false →
    flueForwards (hearthOf b h) = true →
    let ch := chanOf (hdrOf c)
    let own := !comesForeign s h t ch
    (transitPort h (hearthOf b h) (hdrOf c) own = none → exec (.transitCell h t c) s = .next (settle (discard b h))) ∧
    (∀ u, transitPort h (hearthOf b h) (hdrOf c) own = some u →
      exec (.transitCell h t c) s = .next (settle (updH b h (fun hh =>
        let hh := putPort hh t { fport hh t with owed := mupd 0 (fport hh t).owed ch (· - 1) }
        putPort hh u { fport hh u with transit := mupd [] (fport hh u).transit ch (· ++
          [{ cell := c, dstModule := (hdrOf c).dstModule, dstHearth := (hdrOf c).dstHearth, transit := true, port := some t
             since := s.time.ns, own := own }]) }))))) ∧
  (∀ (s b : State) (h t i m d row : Nat) (c : Cell) (hh : Hearth), arrive row s h t c = some (b, true) →
    cellCtx (hearthOf b h) t c = (i, m, d) → acceptSeq (envOf b h) (hearthOf b h) i m d c = (hh, [c]) →
    let r := putH b h hh
    let toEndpoint := Host.Outcome.next (settle (onHearth r h (fun e hh => epCell e hh c)))
    let notice := Host.Outcome.next (settle (noticeCell r h c))
    (row = 0 → exec (.write h t c) s = .next (settle (updH r h (fun hh => writeService h t hh c)))) ∧
    (row = 1 → exec (.readReq h t c) s = .next (settle (onHearth r h (fun e hh => readService e t hh c)))) ∧
    (row = 2 → exec (.readReply h t c) s = toEndpoint) ∧
    (row = 4 → exec (.command h t c) s = .next (settle (commandCell r h t c))) ∧
    (row = 5 → exec (.completion h t c) s = .next (settle (completionCell r h c))) ∧
    (row = 6 → exec (.syncArrive h t c) s = toEndpoint) ∧
    (row = 7 → exec (.syncRelease h t c) s = toEndpoint) ∧
    (row = 8 → exec (.combine h t c) s = toEndpoint) ∧
    (row = 10 → exec (.signature h t c) s = .next (settle (signatureCell r h i c))) ∧
    (row = 11 → exec (.telemetry h t c) s = .next (settle (telemetryCell r h i c))) ∧
    (row = 12 → exec (.token h t c) s = toEndpoint) ∧
    (row = 48 → exec (.credit h t c) s = notice) ∧
    (row = 49 → exec (.writeDone h t c) s = notice) ∧
    (row = 50 → exec (.accessFault h t c) s = notice) ∧
    (row = 51 → exec (.dropped h t c) s = notice))

/-- In an open context the cell with the expected number is taken when none is held: EXPECT passes it and it is one more that no
ACK covers. Up to 32 cells ahead of it, while the reorder store has room, are held and marked in RXMAP, with a NACK, and none
of them is delivered (R296). -/
def Obligations.SequencedCellsAreTakenInOrder : Prop :=
  ∀ (e : Env) (hh : Hearth) (i m d : Nat) (c : Cell) (p : PeerCtx), peerOf hh i = p → ctxFree p m d = true → p.st = .open →
    (hdrOf c).epoch = p.rxEpoch →
    (BitVec.ofNat 16 (hdrOf c).seq = p.expect → p.rxmap = 0 → p.sinceAck < 63 →
      acceptSeq e hh i m d c = (putPeer { hh with reorder := hh.reorder.filter (fun x =>
          !(x.1 == i && (x.2.1 - p.expect).toNat ≤ 0)) } i { p with expect := p.expect + 1, rxmap := 0, sinceAck := p.sinceAck + 1 },
        [c])) ∧
    (∀ k, 1 ≤ k → k ≤ 32 → BitVec.ofNat 16 (hdrOf c).seq = p.expect + BitVec.ofNat 16 k → nbit p.rxmap.toNat (k - 1) = false →
      hh.reorder.length < 4096 →
      acceptSeq e hh i m d c = (nackNow e (putPeer { hh with reorder := hh.reorder ++ [(i, BitVec.ofNat 16 (hdrOf c).seq, c)] } i
        { p with rxmap := p.rxmap ||| BitVec.ofNat 32 (2 ^ (k - 1)), held := p.held + 1 }) i, []))

/-- ACK and NACK act on an open context that serves their sender: the cells they acknowledge are freed and, for a NACK, the missing
ones sent again (R298). OPEN takes a free context, which takes the other end's epoch and number and answers OPEN_ACK; OPEN_ACK
does the same for a context that is opening; RESET loses a context that is open or opening (R294, R295). The timers of contexts:
deliveries since the last ACK are acknowledged (R297); unacknowledged cells, or the OPEN of a context that is opening, are sent
again with RETRY one higher, and at RETRY 8 the context is lost (R298, R299); performed writes that no notice covers get one
(R309). -/
def Obligations.ContextRecordsAndTimersAct : Prop :=
  (∀ (s b : State) (h t i m d row : Nat) (c : Cell), arrive row s h t c = some (b, true) → ackCtx t c = (i, m, d) →
    let p := peerOf (hearthOf b h) i
    (row = 16 → p.st = .open → serves p m d = true →
      exec (.ack h t c) s = .next (settle (updH b h (fun hh => takeAck hh i (ackSeq c) (ackMap c))))) ∧
    (row = 17 → p.st = .open → serves p m d = true →
      exec (.nack h t c) s = .next (settle (updH b h (fun hh => resendSeqs h (takeAck hh i (ackSeq c) (ackMap c)) i
        (resendSet (ackSeq c) p.send (ackMap c)))))) ∧
    (row = 18 → ctxFree p m d = true →
      exec (.open h t c) s = .next (settle (updH b h (fun hh =>
        let hh := takeOpen hh i m d (ackEpoch c) (ackSeq c)
        sendAck h hh i 3 (epochOf hh) (peerOf hh i).send.toNat 0)))) ∧
    (row = 19 → p.st = .opening → serves p m d = true →
      exec (.openAck h t c) s = .next (settle (updH b h (fun hh => takeOpen hh i m d (ackEpoch c) (ackSeq c))))) ∧
    (row = 20 → p.st = .open ∨ p.st = .opening → serves p m d = true →
      exec (.reset h t c) s = .next (settle (losePeer b h i)))) ∧
  (∀ (s : State) (h i : Nat) (hh : Hearth), hearthOf s h = hh → flueOn hh = true →
    ((peerOf hh i).sinceAck ≠ 0 → exec (.ackDelayExpiry h i) s = .next (settle (putH s h (ackNow h hh i)))) ∧
    ((peerOf hh i).st = .open ∧ (peerOf hh i).ack ≠ (peerOf hh i).send ∨ (peerOf hh i).st = .opening →
      8 ≤ (peerOf hh i).retry → exec (.resendTimeout h i) s = .next (settle (losePeer s h i))) ∧
    ((peerOf hh i).st = .open → (peerOf hh i).ack ≠ (peerOf hh i).send → (peerOf hh i).retry < 8 →
      exec (.resendTimeout h i) s = .next (settle (putH s h
        (resendSeqs h (putPeer hh i { peerOf hh i with retry := (peerOf hh i).retry + 1 }) i
          (resendSet (peerOf hh i).ack (peerOf hh i).send (peerOf hh i).lastMap))))) ∧
    ((peerOf hh i).st = .opening → (peerOf hh i).retry < 8 →
      exec (.resendTimeout h i) s = .next (settle (putH s h (sendAck h
        (putPeer hh i { peerOf hh i with retry := (peerOf hh i).retry + 1 }) i 2 (peerOf hh i).txEpoch
          (peerOf hh i).send.toNat 0)))) ∧
    (∀ k m d ep n, hh.performed[k]? = some (m, d, ep, n) →
      exec (.writeDoneTimer h k) s = .next (settle (putH s h (sendNotice h
        { hh with performed := hh.performed.eraseIdx k } (writerDest m d) ep 1 0 0 0 n 0)))))

/-- Module time in the tree (R327, R330): the tree hearth answers a query with the times it took; an answer from the parent gives
the offset that applyOffset applies, and time is locked from then on; with a parent and no exchange for 100 ms it is unlocked. A
tick of a module with a parent, whose tree hearth is in service, sends a query to the parent; another forwards one second's
records of every hearth, and the module's telemetry (log 139). -/
def Obligations.TimeExchangesKeepTime : Prop :=
  ∀ (s : State),
    (∀ b h t c, arrive 32 s h t c = some (b, true) → h = b.role.treeHearth →
      exec (.timeQuery h t c) s = .next (settle (updH b h (fun hh =>
        sendTime h hh (replyDest t (hdrOf c)) 1 (b2n b.time.isSet) (pay c 0 8) (time16 b) (pay c 24 4))))) ∧
    (∀ b h t c, arrive 33 s h t c = some (b, true) → h = b.role.treeHearth →
      b.role.parent = some ((hdrOf c).srcModule, (hdrOf c).srcHearth) →
      exec (.timeAnswer h t c) s = .next (settle (
        let x := offset2 (pay c 0 8) (pay c 8 8) (pay c 16 8) (time16 b) (pay c 24 4) (pay c 28 4)
        let t := applyOffset b.time (!anyStepActive b) x
        { b with
          time := { t with isSet := t.isSet || nbit (hdrOf c).spare 0, lastExchange := t.ns }
          regs := { b.regs with timeUnlocked := false } }))) ∧
    (∀ m d, s.role.parent = some (m, d) →
      (flueOn (hearthOf s s.role.treeHearth) = true →
        exec .timeExchangeTick s = .next (settle (putH s s.role.treeHearth
          (sendTime s.role.treeHearth (hearthOf s s.role.treeHearth) (.peer m d) 0 0 0 0 0)))) ∧
      (s.time.lastExchange + 100000000 ≤ s.time.ns → exec .timeUnlockExpiry s = .next (settle { s with
        time := { s.time with slew := 0, half := false }, regs := { s.regs with timeUnlocked := true } })) ∧
      exec .signatureForwardTick s =
        .next (settle (sendTelemetry (allHearths.foldl (fun s h => forwardSecond s m d h) s) m d)))

/-! ### Streams and endpoints -/

/-- A token that arrives is taken by the tile, thread or endpoint that its stream reads into (R203, R212). An input that runs
admits what R84 to R90 allow, and a long group is then checked. Credits of the output's own epoch come back to it, others are
lost (R208, R210). A contribution to a combining input is dropped for a reason of Table 7-4 (R212); ends the step when it is no
whole group of one token, or its sender's second for the tag; else, once the window admits its tag and no flag of the input is
open, it is taken: the sixteen words of PAYLOAD 0 stand in its sender's line for its tag, and an EMIT that the checker passed is
resolved (R49, R84, R218). The sum of a combining input, once every sender's contribution of a tag is there and no flag holds
the tag, is one LAST token with the tree sum of R219. -/
def Obligations.StreamsCarryTokensAndCredits : Prop :=
  (∀ (s : State) (h : Nat) (hh : Hearth), hearthOf s h = hh →
    (∀ snd out i f, headFlight hh snd out = some (i, f) → combining hh f = false →
      (∀ v, f.rcv.kind.toNat = 1 → tileOfId f.rcv.id.toNat = some v →
        exec (.tokenArrival h snd out) s = becomes s h (arriveTile (envOf s h) hh i v f)) ∧
      (f.rcv.kind.toNat = 2 →
        exec (.tokenArrival h snd out) s = becomes s h (arriveThread (envOf s h) hh i f.rcv.id.toNat f)) ∧
      (f.rcv.kind.toNat = 4 →
        exec (.tokenArrival h snd out) s = becomes s h (arriveEp (envOf s h) hh i (f.rcv.id.toNat % 512) f))) ∧
    (∀ v n, nbit (inReg (tileAt hh v) n).toNat 63 = true → (inLive (tileAt hh v) n).closed = false →
      (tileAt hh v).state = .running →
      exec (.tokenAdmit h v n) s = becomes s h (checkLong (envOf s h) (drainInput hh v n 264) v n)) ∧
    (∀ snd out i c, hh.creditFlights.findIdx? (fun c => c.snd == snd && c.out == out) = some i →
      hh.creditFlights[i]? = some c →
      let rest := { hh with creditFlights := hh.creditFlights.eraseIdx i }
      let o := sndLive rest snd out
      (c.epoch = o.epoch →
        exec (.streamCredit h snd out) s = becomes s h (putSnd rest snd out { o with credits := o.credits + c.count })) ∧
      (c.epoch ≠ o.epoch → exec (.streamCredit h snd out) s = becomes s h rest)) ∧
    (∀ v n tag l, (inLive (tileAt hh v) n).closed = false → inType (tileAt hh v) n = 2 →
      (inLive (tileAt hh v) n).sums.any (fun k => k.tag == BitVec.ofNat 16 tag) = false →
      flaggedAt (tileAt hh v) n (BitVec.ofNat 16 tag) = false →
      allContrib (inLive (tileAt hh v) n) (inSenders (tileAt hh v) n) (BitVec.ofNat 16 tag) = some l →
      exec (.combiningSumComplete h v n tag) s = becomes s h (putTile hh v (putIn (tileAt hh v) n
        { inLive (tileAt hh v) n with sums := (inLive (tileAt hh v) n).sums ++
          [{ tag := BitVec.ofNat 16 tag, stream := (l.head?.map (·.stream)).getD 0, epoch := (inLive (tileAt hh v) n).epoch
             last := true, nar := (combineSum l).any isNan32, data := packElems (combineSum l) }] })))) ∧
  (∀ (s : State) (h v i : Nat) (hh : Hearth) (snd : UnitRef) (out : Nat) (f : Flight), hearthOf s h = hh →
    headFlight hh snd out = some (i, f) → combining hh f = true → tileOfId f.rcv.id.toNat = some v →
    let r := tileReason hh v f
    let x := inLive (tileAt hh v) f.inp
    let k := f.tok
    let idx := (senderIdx hh (tileAt hh v).active v f.inp snd out).getD 0
    let faulty (seen sender : Nat) := becomes s h (groupFault (envOf s h) (landFlight hh i) 3 (tileRef v) k.tag 0xFF f.inp 1 seen sender)
    (r ≠ 0 → exec (.combiningContribution h snd out) s =
      becomes s h (resolveFrom (dropAtTile (envOf s h) (landFlight hh i) v f r) f.snd f.out k.tag)) ∧
    (r = 0 → k.last = false ∨ k.seq ≠ 0 →
      exec (.combiningContribution h snd out) s = faulty (k.seq.toNat + 1 + b2n !k.last) 0) ∧
    (r = 0 → k.last = true → k.seq = 0 → x.contrib.any (fun c => c.1 == k.tag && c.2.1 == idx) = true →
      exec (.combiningContribution h snd out) s = faulty 2 idx) ∧
    (r = 0 → k.last = true → k.seq = 0 → x.contrib.any (fun c => c.1 == k.tag && c.2.1 == idx) = false →
      x.flags = [] → admits (inWindowOf (tileAt hh v) f.inp) x.opened k.tag = true →
      exec (.combiningContribution h snd out) s = becomes s h (takeContrib (landFlight hh i) v f idx))) ∧
  (∀ (hh : Hearth) (v idx : Nat) (f : Flight), f.tok.payload = 0 →
    let t := tileAt hh v
    let k := f.tok
    let line := inBuffer t f.inp + idx * inWindowOf t f.inp + k.tag.toNat % inWindowOf t f.inp
    let taken (flags : List Flag) := putTile hh v { putIn t f.inp (seeSpent { inLive t f.inp with
        opened := if (inLive t f.inp).opened.contains k.tag then (inLive t f.inp).opened else (inLive t f.inp).opened ++ [k.tag]
        contrib := (inLive t f.inp).contrib ++ [(k.tag, idx, k)]
        flags := flags } idx) with
      store := (List.range 16).foldl (fun m j => mput 0 m (lineAt line + j) ((elems32 k.data).getD j 0)) t.store }
    (checksFrom hh v f = false → takeContrib hh v f idx = taken []) ∧
    (checksFrom hh v f = true → arrivalFlags hh v f idx = [] →
      takeContrib hh v f idx = resolveFrom (observeTok (taken []) t.active k) f.snd f.out k.tag) ∧
    (checksFrom hh v f = true → arrivalFlags hh v f idx ≠ [] →
      takeContrib hh v f idx = taken (arrivalFlags hh v f idx)))

/-- An endpoint's next stage. A SEND spends one credit and sends a token as two TOKEN cells (R287, R304). A PUT goes on with its
writes; without any it takes its tag's group, ends the step when the group has another size, and converts a whole one into write
cells (R306). A GET issues its tag's requests, gathers what comes back, and then converts it into the tag's tokens (R307). A
CONTRIBUTE narrows one token and sends it; a token that is no whole group ends the step (R310). A COMBINE with every
contribution of a tag credits every sender; its root delivers the tree sum, another narrows it and sends it on as its own
contribution, and a bad word of a line ends the step (R219, R270, R310). A schedule's slot that has opened, and that neither a
later slot nor itself followed, gives the CELLS of its entry (R315). -/
def Obligations.EndpointsSendTheirTags : Prop :=
  (∀ (s : State) (h e : Nat) (hh : Hearth) (st : Step) (home : Nat) (d : EpD), hearthOf s h = hh →
    issuingEp hh e = some (st, home, d) →
    let x := epAt hh e
    let whole := groupSize d.lay.rows d.lay.elems
    let m (pos : Nat) := slotIdx d.lay pos
    (∀ k rest, d.kind = 1 → x.buf = k :: rest → x.peerCredits ≠ 0 →
      exec (.endpointTokenSend h e) s = becomes s h (
        let hx := updEp hh e (fun x => { x with buf := rest, peerCredits := x.peerCredits - 1 })
        let hx := sendEp h hx st.ctx e d 12 d.peerEp 8 0 ((leBytes 64 k.data.toNat).take 32) (some (tcw0 k))
        sendEp h hx st.ctx e d 12 d.peerEp 8 0 ((leBytes 64 k.data.toNat).drop 32) (some (tcw1 k x.peerEpoch.toNat)))) ∧
    (d.kind = 3 → x.writes ≠ [] → exec (.putTag h e) s = becomes s h (issuePut h hh st.ctx e d)) ∧
    (∀ k part, d.kind = 3 → x.writes = [] → (takeEpPart x).part = k :: part →
      let n := part.length + 1
      let last := (k :: part).any (·.last)
      let hx := updEp hh e (fun _ => takeEpPart x)
      let pos := posNear hx st k.tag
      (whole < n ∨ (whole = n ∧ last = false) ∨ (n < whole ∧ last = true) →
        exec (.putTag h e) s = becomes s h (epGroupFault (envOf s h) hx 2 home e k.tag whole n 0)) ∧
      (n < whole → last = false → exec (.putTag h e) s = becomes s h hx) ∧
      (n = whole → last = true → exec (.putTag h e) s = becomes s h (
        let out := convRows (epEmberOpen (countStrange hx st.ctx (k :: part)) st e d d.wireT) st.ctx flue d.tokT d.lay.fmt d.wireT
          d.nar (epEmber d) (m pos * d.lay.rows * d.lay.elems) d.lay.elems (groupRows (k :: part) d.lay.rows d.lay.elems)
        issuePut h (updEp out.1 e (fun x => { x with
          part := []
          writes := (List.range out.2.length).flatMap (fun r =>
            let y := out.2.getD r {}
            let bs := packRun d.lay.fmt y.codes ++ y.scales.map (BitVec.ofNat 8)
            putPieces (bs.length + 1) (rowAddr d.lay (m pos) r) bs)
          wpos := pos })) st.ctx e d))) ∧
    (d.kind = 4 → x.toSend = [] →
      (x.fetching = false → mayIssue hh st x.next = true →
        exec (.getTag h e) s = becomes s h (issueGet h (updEp hh e (fun x => { x with
          want := (List.range d.lay.rows).flatMap (fun r =>
            (rowRanges d.lay (m x.next) r).flatMap (fun a => getRequests a.1 a.2))
          fetching := true, readData := [] })) st.ctx e d)) ∧
      (x.fetching = true → x.want ≠ [] ∨ x.reads ≠ [] →
        exec (.getTag h e) s = becomes s h (issueGet h hh st.ctx e d)) ∧
      (x.fetching = true → x.want = [] → x.reads = [] →
        exec (.getTag h e) s = becomes s h (
          let rows := (List.range d.lay.rows).map (fun r =>
            (unpackRun d.lay.fmt d.lay.elems (getBytes x (rowAddr d.lay (m x.next) r) (rowElemBytes d.lay)),
             if rowScaleBytes d.lay = 0 then []
             else (getBytes x (scaleAddr d.lay (m x.next) r) (rowScaleBytes d.lay)).map (·.toNat)))
          let out := convRows (epEmberOpen hh st e d d.tokT) st.ctx d.lay.fmt d.wireT d.tokFmt d.tokT d.nar (epEmber d)
            (m x.next * d.lay.rows * d.lay.elems) d.lay.elems rows
          updEp out.1 e (fun y => { y with
            fetching := false, readData := [], next := y.next + 1
            toSend := loadTokens (tagAt st y.next) d.nar d.tokFmt out.2 })))) ∧
    (∀ k rest, d.kind = 5 → x.buf = k :: rest → x.peerCredits ≠ 0 →
      (k.last = false → exec (.contributeTag h e) s =
        becomes s h (epGroupFault (envOf s h) hh 3 home e k.tag 1 1 d.index)) ∧
      (k.last = true → exec (.contributeTag h e) s = becomes s h (
        let out := convRows (epEmberOpen (updEp (countStrange hh st.ctx [k]) e (fun x => { x with buf := rest })) st e d d.wireT)
          st.ctx flue d.tokT d.lay.fmt d.wireT d.nar (epEmber d) (m (posNear hh st k.tag) * 16) 16
          [((contribElems k).map (·.toNat), [])]
        sendContrib h out.1 st.ctx e d k.tag (contribBytes d.lay.fmt (out.2.getD 0 {}))))) ∧
    (∀ tag, d.kind = 6 →
      let w := BitVec.ofNat 16 tag
      let all := List.range (d.senders + 1)
      let sum := (List.range 16).map (fun j => tree32 ((all.map (fun i =>
        (pieces 4 (hBytes hh (combineAddr d i w) 64)).map (fun b => BitVec.ofNat 32 (ofLE b)))).map (fun l => l.getD j 0)))
      let credited := all.foldl (fun hh i => grantSender h hh e i 1)
        (updEp hh e (fun x => { x with contrib := x.contrib.filter (fun c => c.1 != w) }))
      all.all (fun i => x.contrib.any (fun c => c.1 == w && c.2.1 == i)) = true → d.root = true ∨ x.peerCredits ≠ 0 →
      (∀ b bs, all.flatMap (fun i => badWords hh (combineAddr d i w) 64) = b :: bs →
        exec (.endpointCombineSum h e tag) s =
          becomes s h (readFaults (envOf s h) hh (some st) w (refPath (epRef home e)) (b :: bs))) ∧
      (all.flatMap (fun i => badWords hh (combineAddr d i w) 64) = [] →
        (d.root = true → exec (.endpointCombineSum h e tag) s = becomes s h (updEp credited e (fun y => { y with
          toSend := y.toSend ++ [{ tag := w, stream := BitVec.ofNat 5 d.nar.stream, epoch := x.epoch, last := true
                                   nar := sum.any isNan32, data := packElems sum }] }))) ∧
        (d.root = false → exec (.endpointCombineSum h e tag) s = becomes s h (
          let hx := epEmberOpen credited st e d d.wireT
          let pos := posNear hx st w
          let out := convRows hx st.ctx flue d.tokT d.lay.fmt d.wireT d.nar (epEmber d) (m pos * 16) 16 [(sum.map (·.toNat), [])]
          epDone (sendContrib h out.1 st.ctx e d w (contribBytes d.lay.fmt (out.2.getD 0 {}))) e pos))))) ∧
  (∀ (s : State) (h e slot : Nat) (hh : Hearth) (st : Step) (home : Nat) (d : EpD) (y : Nat × EpCfg) (b : BitVec 896) (t : Nat),
    hearthOf s h = hh → liveEp hh e = some (st, home, d) → (mget {} hh.ctxs st.ctx).eps.find? (fun x => x.1 == e) = some y →
    y.2.sched = some b → slotTime b st.launchTime hh.timeBase slot = some t →
    (∀ k u, k < 12 → slotTime b st.launchTime hh.timeBase k = some u → u ≤ t) →
    (∀ u, (epAt hh e).schedAt = some u → u < t) →
      exec (.scheduleSlotOpen h e slot) s = becomes s h (updEp hh e (fun x => { x with
        schedLeft := some (bodyNum b (0x14 + 8 * slot) 2), schedAt := some t }))) ∧
  (∀ (b : BitVec 896) (launch now slot : Nat), 0 < bodyNum b 0 4 →
    let period := bodyNum b 0 4
    let t0 := ceilDiv launch period * period + bodyNum b (0x10 + 8 * slot) 4
    slot < bodyNum b 4 1 → 0 < bodyNum b (0x14 + 8 * slot) 2 → t0 ≤ now →
    slotTime b launch now slot = some (t0 + (now - t0) / period * period))

/-! ### Firings, sync and progress -/

/-- A slot that R74 and R76 choose begins its firing, and what the firing will deliver is what its operation computes: MMA its
accumulators, NaN count and the bank it releases; EMIT its rows to its outputs and, with CLEAR, zeroes in them; WLOAD a load;
VFMA, VBIN, SFU and REDUCE their rows; STEER the selected group; MOVE a group into the local store or lines of it to its outputs;
SYNC its action. With a group of the wrong size VFMA, VBIN, SFU, REDUCE and MOVE end the step instead (R82). What of a group the firing sends, and for which
cycles it lasts, the operations give (R51, R53, R58, R79, R91). -/
def Obligations.FiringsBegin : Prop :=
  ∀ (s : State) (h v slot tag : Nat) (hh : Hearth), hearthOf s h = hh →
    let t := tileAt hh v
    let g := BitVec.ofNat 16 tag
    let begins (f : Firing) := becomes s h (beginFiring hh v slot g f)
    let stream := (slotStream v t slot g).toNat
    let nans (l : List Tok) := l.foldl (fun n k => if k.payload = 0 then n + nansOf (elems32 k.data) else n) 0
    (Starts hh v slot g 0x01 → exec (.mma h v slot tag) s = begins {
      slot := slot, tag := g, op := 0x01
      acc := (mmaOut v t slot g).acc
      counts := [(stream, (mmaOut v t slot g).nans, 0)]
      releaseBank := if nbit (param t slot 1 1) 4 then some (slotBank t slot) else none
      len := param t slot 2 2 * ceilDiv (param t slot 6 2 * unitElems (param t slot 0 1)) (laneElems (param t slot 0 1)) + 12 }) ∧
    (Starts hh v slot g 0x02 →
      let toks := emitGroup t slot g (((g.toNat * 32 + slot) * 480 + v) * 16 + h)
      exec (.emit h v slot tag) s = begins {
        slot := slot, tag := g, op := 0x02
        outs := (opOuts t slot).map (fun o => (o, toks))
        acc := if nbit (param t slot 5 1) 0 then (List.range (param t slot 2 2)).flatMap (fun r =>
          (List.range 64).map (fun c => (accKey (param t slot 0 2 + r) c, (0 : W32)))) else []
        len := toks.length * (if 32 < hh.clkStep then 2 else 1) + 4 }) ∧
    (Starts hh v slot g 0x03 → exec (.wload h v slot tag) s = begins { slot := slot, tag := g, op := 0x03, len := 2 }) ∧
    (Starts hh v slot g 0x10 → exec (.vfma h v slot tag) s =
      begins (vectorFiring v t slot g 0x10 (ceilDiv (opCount t slot) 4 + 6) (vfmaOut v t slot g))) ∧
    (Starts hh v slot g 0x11 → exec (.vbin h v slot tag) s =
      begins (vectorFiring v t slot g 0x11 (ceilDiv (opCount t slot) 4 + 4) (vbinOut v t slot g))) ∧
    (Starts hh v slot g 0x12 → exec (.sfu h v slot tag) s =
      begins (vectorFiring v t slot g 0x12 (opCount t slot + 8) (sfuOut v t slot g))) ∧
    (Starts hh v slot g 0x13 → exec (.reduce h v slot tag) s =
      begins (vectorFiring v t slot g 0x13 (ceilDiv (opCount t slot) 4 + 8 + if param t slot 1 1 = 1 then 4 else 0)
        (reduceOut v t slot g))) ∧
    (Starts hh v slot g 0x14 → exec (.steer h v slot tag) s = begins {
      slot := slot, tag := g, op := 0x14
      outs := (opOuts t slot).map (fun n => (n, steerGroup v t slot g))
      counts := [(stream, nans (steerGroup v t slot g), 0)]
      len := (steerGroup v t slot g).length + 2 }) ∧
    (Starts hh v slot g 0x15 →
      let l := param t slot 4 2 % 2048
      let grp := groupAt v t (param t slot 2 2 % 16) g
      (param t slot 0 1 = 1 → exec (.move h v slot tag) s =
        begins (vectorFiring v t slot g 0x15 (ceilDiv (opCount t slot) 4 + 2)
          { rows := (List.range (opCount t slot)).map (fun i => ((lineValues t (l + i)).map canon, false)) })) ∧
      (param t slot 0 1 ≠ 1 → exec (.move h v slot tag) s = begins {
        slot := slot, tag := g, op := 0x15
        store := (List.range grp.length).flatMap (fun i => match grp[i]? with
          | some k => (List.range 16).map (fun j => (lineAt (l + i) + j, (moveWords k).getD j 0))
          | none => [])
        counts := [(stream, nans grp, 0)]
        len := ceilDiv (opCount t slot) 4 + 2 })) ∧
    (Starts hh v slot g 0x20 →
      let f : Firing := { slot := slot, tag := g, op := 0x20, len := 2 }
      (param t slot 0 1 = 0 → exec (.syncOpArrive h v slot tag) s = begins f) ∧
      (param t slot 0 1 = 1 → missing v t slot g ≠ some .sync → exec (.syncOpWait h v slot tag) s = begins f) ∧
      (param t slot 0 1 = 2 → exec (.syncOpIncrement h v slot tag) s = begins f) ∧
      (param t slot 0 1 = 3 → exec (.syncOpDecrement h v slot tag) s = begins f)) ∧
    (∀ st n count seen, tileStep hh v = some st → mayStart t st = true → nextFiring v t st = some (slot, g) →
      shortGroup v t slot g = some (n, count, seen) →
      let ends := becomes s h (groupFault (envOf s h) hh 1 (tileRef v) g slot n count seen 0)
      (opCode t slot = 0x10 → exec (.vfma h v slot tag) s = ends) ∧
      (opCode t slot = 0x11 → exec (.vbin h v slot tag) s = ends) ∧
      (opCode t slot = 0x12 → exec (.sfu h v slot tag) s = ends) ∧
      (opCode t slot = 0x13 → exec (.reduce h v slot tag) s = ends) ∧
      (opCode t slot = 0x15 → exec (.move h v slot tag) s = ends))

/-- The end of a firing delivers it when nothing it made is flagged; where its checker flags a value, the firing keeps everything
until the flags are resolved (R77, R417). The last line of a bank's load makes the bank READY with the bytes of memory, after
ECC has corrected what it can (R47); a bad word or an absent address ends the step that the tile runs (R234, R270), and with no
such step only counts. -/
def Obligations.FiringsEndAndBanksFill : Prop :=
  ∀ (s : State) (h v : Nat) (hh : Hearth), hearthOf s h = hh →
    (∀ cycles f st, (tileAt hh v).cur = some f → runStep hh = some st →
      (tileAt hh v).state = .running ∨ (tileAt hh v).state = .frozen → syncState st = true → f.len ≤ cycles → cycles ≤ 1024 →
      (f.resolved = false → firingFlags hh v f = [] →
        exec (.firingEnd h v cycles) s = becomes s h (deliver (envOf s h) hh v cycles f)) ∧
      (f.resolved = false → firingFlags hh v f ≠ [] →
        exec (.firingEnd h v cycles) s = becomes s h (updTile hh v (fun t => { t with
          flags := firingFlags hh v f, cur := some { f with resolved := true } }))) ∧
      (f.resolved = true → (tileAt hh v).flags = [] →
        exec (.firingEnd h v cycles) s = becomes s h (deliver (envOf s h) hh v cycles f)) ∧
      (f.resolved = true → (tileAt hh v).flags ≠ [] → exec (.firingEnd h v cycles) s = becomes s h hh)) ∧
    (∀ bank, bank < 2 → (bankOfTile (tileAt hh v) bank).st = .loading → tileEnabled hh v = true →
      (tileAt hh v).cur.any (fun f => f.op == 0x03 && slotBank (tileAt hh v) f.slot == bank) = false →
      let b := bankOfTile (tileAt hh v) bank
      let n := 64 * b.want
      let e := envOf s h
      let live := (runStep hh).any (fun st => tileInSec hh st.ctx st.ran v && syncState st)
      let got := correctRange e hh b.src n
      let filled := updTile got v (fun t => setBank t bank (fun b =>
        { b with st := .ready, lines := b.want, data := memPuts [] 0 (hBytes got b.src n) }))
      let bad := badWords filled b.src n
      (extentAny hh b.src n = true →
        (live = true → exec (.bankLoadComplete h v bank) s =
          becomes s h (readFaults e filled (runStep filled) b.tag (tilePath v) bad)) ∧
        (live = false → exec (.bankLoadComplete h v bank) s = becomes s h (countBad e filled (tilePath v) bad))) ∧
      (extentAny hh b.src n = false →
        (live = true → exec (.bankLoadComplete h v bank) s = becomes s h (addressFault e hh b.tag (tilePath v) b.src)) ∧
        (live = false → exec (.bankLoadComplete h v bank) s = becomes s h hh)))

/-- Hearth sync: a batch takes the next operations of an object's queue (R226); a grant that arrives lets the thread or the slot
that waits go; a wait that the tile cannot yet meet is registered. A tag or a wait open beyond its time ends the step with
TIMEOUT_SYNC, and the record names the missing senders of a combining input, or the object, its value and limit (R87, R220,
R227). A count that trips with no cycle or chain counts a remote wait; with one it starts a spill round; after 8 rounds, or
without room for the round, the step ends with DEADLOCK and the pairs (R97 to R102). A spill round moves as many of the chosen
tokens as the area has room for, takes them out of the match stores, and the step goes on. -/
def Obligations.SyncAndProgressAct : Prop :=
  ∀ (s : State) (h : Nat) (hh : Hearth) (st : Step), hearthOf s h = hh → runStep hh = some st →
    let e := envOf s h
    (∀ obj n, syncState st = true → (hsyncAt hh obj).inbox.take n ≠ [] →
      exec (.hsyncBatch h obj n) s = becomes s h (hsyncBatch e
        (updHsync hh obj (fun o => { o with inbox := o.inbox.drop n })) st obj ((hsyncAt hh obj).inbox.take n))) ∧
    (∀ unit slot i x, hh.grants.findIdx? (fun g => g.1 == unit && g.2.1 == slot) = some i → hh.grants[i]? = some x →
      let hx := { hh with grants := hh.grants.eraseIdx i }
      (unit.kind.toNat = 2 → exec (.syncGrantArrival h unit slot) s = becomes s h (updThread hx unit.id.toNat (fun t =>
        { t with waited := true, waiting := false }))) ∧
      (∀ v, unit.kind.toNat = 1 → tileOfId unit.id.toNat = some v →
        exec (.syncGrantArrival h unit slot) s = becomes s h (updTile hx v (fun t => { t with
          waitSlots := t.waitSlots.map (fun y =>
            if y.1 = slot ∧ y.2.1 = BitVec.ofNat 16 x.2.2 then (y.1, y.2.1, true) else y) })))) ∧
    (∀ v slot tag, tileStep hh v = some st → opCode (tileAt hh v) slot = 0x20 → param (tileAt hh v) slot 0 1 = 1 →
      missing v (tileAt hh v) slot (BitVec.ofNat 16 tag) = some .sync → (tileAt hh v).state = .running → st.state = .running →
      (candTags (tileAt hh v) st slot).contains (BitVec.ofNat 16 tag) = true →
      (tileAt hh v).waitSlots.any (fun x => x.1 == slot && x.2.1 == BitVec.ofNat 16 tag) = false →
      exec (.syncOpWait h v slot tag) s = becomes s h (beginWait hh v slot (BitVec.ofNat 16 tag))) ∧
    (∀ v n tag, st.state = .running → tileInSec hh st.ctx st.ran v = true → (inLive (tileAt hh v) n).closed = false →
      (inLive (tileAt hh v) n).opened.contains (BitVec.ofNat 16 tag) = true →
      let w := BitVec.ofNat 16 tag
      let miss := (List.range (inSenders (tileAt hh v) n)).filter (fun i =>
        !(inLive (tileAt hh v) n).contrib.any (fun c => c.1 == w && c.2.1 == i))
      let late (cause : Nat) (more : List (Nat × Nat × Nat)) :=
        becomes s h (unitFault e hh 0x0051 (tileRef v) w .timeoutSync (faultDetail cause (tileRef v) w 0xFF n more))
      (inType (tileAt hh v) n = 2 → exec (.tagTimeout h v n tag) s =
        late 6 [(0x1E, 2, sat 16 miss.length), (0x20, 8, maskOf (miss.filter (· < 64)))]) ∧
      (inType (tileAt hh v) n ≠ 2 → exec (.tagTimeout h v n tag) s = late 5 [])) ∧
    (∀ unit slot, st.state = .running → unitInSec hh st.ctx st.ran unit = true →
      let far (obj slot : Nat) (tag : W16) := becomes s h (waitTimeout e hh unit slot tag (0x100 + obj)
        (hsyncAt hh obj).value (wb (hsyncReg hh st.ctx obj) 47 32) (hsyncAt hh obj).gen)
      (∀ d, unit.kind.toNat = 2 → (threadAt hh unit.id.toNat).waiting = true → threadDesc hh st.ctx unit.id.toNat = some d →
        exec (.syncWaitTimeout h unit slot) s = far d.waitObj 0xFF (threadAt hh unit.id.toNat).curTag) ∧
      (∀ v k tag, unit.kind.toNat = 1 → tileOfId unit.id.toNat = some v →
        (tileAt hh v).waitSlots.find? (fun x => x.1 == slot && !x.2.2) = some (k, tag, false) →
        let n := syncObj (tileAt hh v) slot
        (0x100 ≤ n → exec (.syncWaitTimeout h unit slot) s = far (n - 0x100) slot tag) ∧
        (n < 0x100 → waitOk (tileAt hh v) slot tag = false → exec (.syncWaitTimeout h unit slot) s =
          becomes s h (waitTimeout e hh unit slot tag n (mget {} (tileAt hh v).syncs n).value
            (wb (syncReg (tileAt hh v) n) 47 32) (mget {} (tileAt hh v).syncs n).gen)))) ∧
    (st.state = .running → hh.spilling = false → hh.arb = none → tokensHeld hh st = true →
      (secTiles hh st.ctx st.ran).any (fun v => (tileAt hh v).cur.isSome) = false →
      let ends (w : List (UnitRef × WaitEdge) × WalkEnd) := becomes s h (deadlock e hh st (pairsOf hh hh.timeBase w))
      let n := 128 * (spillSet hh st).length
      (stuck hh st = none → st.streak < 8 → exec (.progressCountTrip h) s = becomes s h
        (updStep hh st.id (fun x => { x with remoteWaits := sat 32 (x.remoteWaits + 1) }))) ∧
      (stuck hh st = none → 8 ≤ st.streak → exec (.progressCountTrip h) s = ends ((walks hh st).headD ([], .remote))) ∧
      (∀ w, stuck hh st = some w → st.streak < 8 → n ≤ hh.spillFree → exec (.progressCountTrip h) s =
        becomes s h { hh with spilling := true, spillFree := hh.spillFree - n, spillBusy := n }) ∧
      (∀ w, stuck hh st = some w → 8 ≤ st.streak ∨ hh.spillFree < n → exec (.progressCountTrip h) s = ends w)) ∧
    (hh.spilling = true → syncState st = true →
      let room := hh.spillFree + hh.spillBusy
      let l := (spillSet hh st).take (room / 128)
      let out := l.foldl (fun hh x =>
        if x.2.1 < 16 then hh
        else updTile hh x.1 (fun t => { t with matches_ := takeMatch t.matches_ (x.2.1 - 16) x.2.2 })) hh
      exec (.spillRoundComplete h) s = becomes s h (updStep
        { out with spill := out.spill ++ l, spilling := false, spillFree := room - 128 * l.length, spillBusy := 0 } st.id
        (fun x => { x with
          spillRounds := sat 32 (x.spillRounds + 1), streak := x.streak + 1
          spillPeak := sat 32 (max x.spillPeak (128 * (out.spill ++ l).length)) })))

/-- A tile's own reset leaves it without firing, flags, accumulators, sync objects and banks, with its inputs closed (R43); a write
of ACTIVE is taken up in IDLE or CONFIGURED for a valid context when no change is under way, and the change is then done, or
given up where the tile may no longer change (Table 2-12); sampling counts every queue in its bin (R105). -/
def Obligations.TilesResetChangeAndSample : Prop :=
  ∀ (s : State) (h v : Nat) (hh : Hearth), hearthOf s h = hh →
    (tileEnabled hh v = true → present hh.st = true →
      exec (.tileReset h v) s = becomes s h (updTile (closeTile false true (dropWords hh v) v) v (fun t => { t with
        cur := none, flags := [], acc := [], syncs := [], bank0 := {}, bank1 := {}
        state := if nbit t.valid.toNat t.active then .configured else .idle }))) ∧
    (∀ c, present hh.st = true → tileEnabled hh v = true → (tileAt hh v).state = .idle ∨ (tileAt hh v).state = .configured →
      nbit (tileAt hh v).valid.toNat c = true → (tileAt hh v).switching = none →
      exec (.contextChange h v c) s = becomes s h (updTile hh v (fun t => { t with switching := some c }))) ∧
    (∀ c, (tileAt hh v).switching = some c →
      let may := tileEnabled hh v = true ∧ ((tileAt hh v).state = .idle ∨ (tileAt hh v).state = .configured) ∧
        nbit (tileAt hh v).valid.toNat c = true
      (may → exec (.contextChangeComplete h v) s = becomes s h (changeContext hh v c)) ∧
      (¬ may → exec (.contextChangeComplete h v) s = becomes s h (updTile hh v (fun t => { t with switching := none })))) ∧
    (∀ k, hh.sampling = some k → readyFaulted hh.st = true →
      let ks := (sampleBins hh).map (fun x => 16 * x.1 + x.2)
      exec (.sampleTick h) s = .next (putH s h { hh with hist := bumpKeys ks hh.hist (ks.length + hh.hist.length) }))

/-! ### Stoker threads and the memory system -/

/-- A thread's next stage (R254 to R258). A LOAD, RELAY or TRIGGER sends what it has for its credits. A LOAD or COPY whose tag may
start asks for its reads, goes on asking, and when all have come makes its tokens, or its rows to write; a tag that reads nothing
goes on at once. A RELAY first takes into its ring what has come, and then delivers in the same way the tags that its batch and
the issue window let go. A checked tag of a STORE or COPY goes on to its writes; a whole STORE group is converted and written; a
group of the wrong size, or one whose destination does not exist, ends the step. A TRIGGER makes one token per tag. A thread's
wait on WAIT_OBJ is one operation in the object's queue, and so is a post to POST_OBJ, due after every POST_EVERY tags and after
the last: at a barrier an arrive of 1, at a counter an increment of POST_AMOUNT (R259). -/
def Obligations.ThreadsMoveTheirTags : Prop :=
  ∀ (s : State) (h u : Nat) (hh : Hearth) (st : Step) (d : Stk), hearthOf s h = hh → liveThread hh u = some (st, d) →
    let t := threadAt hh u
    let e := envOf s h
    let may := st.state = .running ∧ (startsNext hh st d t).isSome = true ∧ waitedFor d t = true
    let asked := startFetch e hh st u d
    (d.mode = 0 →
      (t.toSend ≠ [] → exec (.stokerLoadTag h u) s = becomes s h (sendThread hh u)) ∧
      (∀ x got, t.toSend = [] → t.fetch = some x → fetched t = some got →
        exec (.stokerLoadTag h u) s = becomes s h (loadGroup e hh st u d got)) ∧
      (∀ x, t.toSend = [] → t.fetch = some x → fetched t = none →
        exec (.stokerLoadTag h u) s = becomes s h (issueReads hh u)) ∧
      (t.toSend = [] → t.fetch = none → may →
        (fetched (threadAt asked u) = none → exec (.stokerLoadTag h u) s = becomes s h asked) ∧
        (∀ got y, fetched (threadAt asked u) = some got → runStep asked = some y →
          exec (.stokerLoadTag h u) s = becomes s h (loadGroup e asked y u d got)))) ∧
    (d.mode = 1 →
      (∀ x, t.held = some x → exec (.stokerStoreTag h u) s = becomes s h (goOn hh st.ctx u d)) ∧
      (t.held = none → t.buf ≠ [] → t.part ≠ [] ∨ waitedFor d t = true →
        let t' := takePart t
        let hx := updThread hh u (fun _ => t')
        let want := groupSize d.mem.rows d.mem.elems
        let n := t'.part.length
        let last := t'.part.any (·.last)
        let bad := badRange hx ((List.range d.mem.rows).flatMap (rowRanges d.mem (slotIdx d.mem (posNear hx st t'.curTag))))
        (n = want → last = true → bad = none →
          exec (.stokerStoreTag h u) s = becomes s h (storeGroup hx st u d t'.part)) ∧
        (∀ a, n = want → last = true → bad = some a →
          exec (.stokerStoreTag h u) s = becomes s h (addressFault e hx t'.curTag (refPath (threadRef u)) a)) ∧
        (want < n ∨ (want = n ∧ last = false) ∨ (n < want ∧ last = true) →
          exec (.stokerStoreTag h u) s = becomes s h (threadGroupFault e hx u t'.curTag want n)) ∧
        (n < want → last = false → exec (.stokerStoreTag h u) s = becomes s h hx))) ∧
    (d.mode = 2 →
      let taken := relayIn e hh u d
      (liveThread taken u = none → exec (.stokerRelayBatch h u) s = becomes s h taken) ∧
      (∀ y k, liveThread taken u = some (y, k) →
        let t := threadAt taken u
        let next := issueReads (updThread taken u (fun t => { t with
          fetch := some (unitsOf taken (readRanges k t t.next), []) })) u
        (t.toSend ≠ [] → exec (.stokerRelayBatch h u) s = becomes s h (sendThread taken u)) ∧
        (∀ x got, t.toSend = [] → t.fetch = some x → fetched t = some got →
          exec (.stokerRelayBatch h u) s = becomes s h (relayGroup e taken y u k got)) ∧
        (∀ x, t.toSend = [] → t.fetch = some x → fetched t = none →
          exec (.stokerRelayBatch h u) s = becomes s h (issueReads taken u)) ∧
        (t.toSend = [] → t.fetch = none → mayIssue taken y t.next = true → batchReady k y t t.next = true → t.held = none →
          t.unacked.any (fun x => x.1 == t.next) = false →
          (fetched (threadAt next u) = none → exec (.stokerRelayBatch h u) s = becomes s h next) ∧
          (∀ got, fetched (threadAt next u) = some got →
            exec (.stokerRelayBatch h u) s = becomes s h (relayGroup e next y u k got))))) ∧
    (d.mode = 3 →
      (∀ x, t.held = some x → exec (.stokerCopyTag h u) s = becomes s h (goOn hh st.ctx u d)) ∧
      (∀ x got, t.held = none → t.fetch = some x → fetched t = some got →
        exec (.stokerCopyTag h u) s = becomes s h (copyGroup e hh st u d got)) ∧
      (∀ x, t.held = none → t.fetch = some x → fetched t = none →
        exec (.stokerCopyTag h u) s = becomes s h (issueReads hh u)) ∧
      (t.held = none → t.fetch = none → may →
        (fetched (threadAt asked u) = none → exec (.stokerCopyTag h u) s = becomes s h asked) ∧
        (∀ got y, fetched (threadAt asked u) = some got → runStep asked = some y →
          exec (.stokerCopyTag h u) s = becomes s h (copyGroup e asked y u d got)))) ∧
    (d.mode = 4 →
      (t.toSend ≠ [] → exec (.stokerTriggerTag h u) s = becomes s h (sendThread hh u)) ∧
      (t.toSend = [] → may → exec (.stokerTriggerTag h u) s = becomes s h (sendThread (updThread hh u (fun x => { x with
        curTag := tagAt st t.next, waited := false, toSend := [triggerTok d (tagAt st t.next)] })) u))) ∧
    (∀ tag, st.state = .running → d.waitObj ≠ 0xFFFF → t.waited = false → t.waiting = false → startsNext hh st d t = some tag →
      exec (.stokerWait h u) s = becomes s h (updHsync (updThread hh u (fun t => { t with waiting := true, curTag := tag }))
        d.waitObj (fun o => { o with
          inbox := o.inbox ++ [{ unit := threadRef u, slot := 0xFF, tag := tag, action := 1, amount := 1 }] }))) ∧
    (postDue d st t = true →
      let hx := updThread hh u (fun t => { t with posted := min st.n (t.posted + max 1 d.postEvery) })
      let posts (action amount : Nat) := becomes s h (updHsync hx d.postObj (fun o => { o with
        inbox := o.inbox ++ [{ unit := threadRef u, slot := 0xFF, tag := t.curTag, action := action, amount := amount }] }))
      (hsyncMode hx st.ctx d.postObj = 1 → exec (.stokerPost h u) s = posts 0 1) ∧
      (hsyncMode hx st.ctx d.postObj ≠ 1 → exec (.stokerPost h u) s = posts 2 d.postAmount))

/-- A memory port tile serves the oldest request for its sub-channels: a write is performed and acknowledged, a read answers
with its unit, corrected, and with its bad words (R241, R413). Read data and acknowledgements arrive in order, and an
acknowledgement for a step that has ended is dropped (R260, R205). A refresh is counted, and tracking changes nothing (R243,
R244). A retraining that is due notes the device's temperature, and a low margin is one corrected event of the sub-channel
(R244). A patrol scrub moves its pass on, and corrects or poisons each word of its unit or line (R245). A reshape moves the next
unit, upwards for a sub-channel that returns and downwards for one that leaves, and ends with the new map; retirements and units
that waited for it, or for the running step, follow then (R239, R247, R248, R431). -/
def Obligations.MemoryServesAndReshapes : Prop :=
  (∀ (s : State) (h : Nat) (hh : Hearth), hearthOf s h = hh →
    let e := envOf s h
    (∀ port i r, hh.reqs.findIdx? (fun r => subOf hh r.unitAddr / 2 == port) = some i → hh.reqs[i]? = some r →
      let rest := { hh with reqs := hh.reqs.eraseIdx i }
      (r.write = none →
        let hx := correctRange e rest r.unitAddr 256
        exec (.memoryRequest h port) s = becomes s h { hx with replies := hx.replies ++
          [{ who := r.who, aux := r.aux, unitAddr := r.unitAddr, data := unitData hx r.unitAddr
             bad := badWords hx r.unitAddr 256 }] }) ∧
      (∀ a b l, r.write = some ((a, b) :: l) →
        let hx := hWrite rest a (b :: l.map (·.2))
        exec (.memoryRequest h port) s = becomes s h { hx with acks := hx.acks ++ [(r.who, r.aux)] })) ∧
    (∀ r rest, hh.replies = r :: rest →
      exec (.memoryReadReply h) s = becomes s h (takeReply e { hh with replies := rest } r)) ∧
    (∀ who i rest, hh.acks = (who, i) :: rest →
      let hx := { hh with acks := rest }
      (ownerOf hx who = none → exec (.writeAck h) s = becomes s h hx) ∧
      (∀ st, ownerOf hx who = some st → exec (.writeAck h) s = becomes s h (tagWritten (updThread hx who.id.toNat (fun t =>
        { t with outstanding := t.outstanding - 1, unacked := subUnacked t.unacked i })) who.id.toNat i))) ∧
    (∀ sub, memOn hh = true → sub < 48 →
      (∀ bank, bank < 16 → exec (.perBankRefresh h sub bank) s = .next (putH s h { hh with refreshed := hh.refreshed + 1 })) ∧
      exec (.dqsTracking h sub) s = .next s ∧
      (hh.subsOut.contains sub = false → trainingDue s h sub = true →
        let hx := { hh with lastTrain := mput 0 hh.lastTrain sub (deviceTemp s h sub) }
        let key := bucketKey 4 sub
        exec (.interfaceRetrain h sub true) s = becomes s h hx ∧
        exec (.interfaceRetrain h sub false) s = becomes s h (eventRec e hx key
          { cls := 0x0002, path := BitVec.ofNat 64 (keyPath key), detail := addrDetail 0 0 }).1)) ∧
    (∀ word, memOn hh = true → scrubbed hh (8 * word) = true →
      let n := scrubSize (8 * word)
      let hx := { hh with scrubPos := scrubPassed hh (8 * word) }
      (hh.errs = [] → exec (.patrolScrub h word) s = becomes s h hx) ∧
      (hh.errs ≠ [] → exec (.patrolScrub h word) s =
        becomes s h ((wordsOf (8 * word / n * n) n).foldl (scrubWord e) hx))) ∧
    (∀ r, hh.reshape = some r →
      (r.leaving = true → 4096 ≤ r.next → exec (.reshapeUnitMove h) s = becomes s h
        { moveUnit e hh r.next with reshape := some { r with next := r.next - 1 } }) ∧
      (r.leaving = false → r.next < (subsIn hh).length * 2 ^ 24 → exec (.reshapeUnitMove h) s = becomes s h
        { moveUnit e hh r.next with reshape := some { r with next := r.next + 1 } }) ∧
      exec (.reshapeComplete h) s = .next (settle (memoryGoesOn
        (onHearth { s with fresh := s.fresh + 1 } h (fun e hh => endReshape e s.fresh hh r)) h))) ∧
    (runStep hh = none → exec (.deferredRetirement h) s = .next (settle (memoryGoesOn s h))))

/-! ### Steps, faults and late completions -/

/-- Scheduling (Table 10-5): an empty slot takes the next workload's first pending step, HELD with what its account says, and
notes whether it freezes the running step (R336, R339); the slot of the latency-critical class starts first, then what the mantel
froze returns, then the best-effort slot (R335); a step that has started is RUNNING; a latency-critical step that noted it
freezes a running one where R336 still allows; a halted step saves, or in a tree waits for its round (R342, R349); a step whose
work is over ends with DONE (R69). SAVE_COMPLETE: the step is FROZEN with the snapshot of its state and nothing in the spill area,
and its account counts the freeze (R343, R344). RESTORE_COMPLETE ends the step with ABORTED_FAULT where a tile of its section is
gone; else it is RUNNING with what was saved, which is then no longer kept, and its save buffers are delivered (R347, R348). -/
def Obligations.StepsAreScheduledFrozenAndReturned : Prop :=
  (∀ (s : State) (h : Nat) (hh : Hearth), hearthOf s h = hh →
    let e := envOf s h
    (∀ cls w x, cls ≤ 1 → s.pairsFailed = false → (cls = 1 → hh.slotLat = none) → (cls = 0 → hh.slotBest = none) →
      nextWorkload s h (cls == 1) = some w → nextPending hh w = some x →
      let a := mget {} s.accounts w
      let hx := moveStep e hh x.id (fun y => { y with
        state := .held, latency := a.latency, mayPreempt := a.mayPreempt
        preempting := preempts hh { x with latency := a.latency, mayPreempt := a.mayPreempt } })
      (cls = 1 → exec (.slotFill h cls) s = becomes s h { hx with slotLat := some x.id }) ∧
      (cls = 0 → exec (.slotFill h cls) s = becomes s h { hx with slotBest := some x.id })) ∧
    (runStep hh = none →
      (∀ id, hh.slotLat = some id → exec (.stepDispatch h) s = becomes s h (startHeld e hh id)) ∧
      (∀ f, hh.slotLat = none → frozenStep hh = some f → f.byHost = false →
        exec (.stepDispatch h) s = becomes s h (beginRestore e hh f.id)) ∧
      (∀ id, hh.slotLat = none → (∀ f, frozenStep hh = some f → f.byHost = true) → hh.slotBest = some id →
        exec (.stepDispatch h) s = becomes s h (startHeld e hh id))) ∧
    (∀ x, runStep hh = some x →
      (x.state = .starting → (secTiles hh x.ctx x.ran).any (fun v => (tileAt hh v).state == .resetting) = false →
        exec (.stepStartComplete h) s = becomes s h
          (moveStep e (launchActions h hh x) x.id (fun y => { y with state := .running }))) ∧
      (∀ id l, hh.slotLat = some id → hh.steps.find? (fun y => y.id == id) = some l → l.preempting = true →
        preempts hh l = true →
        exec (.classPreempt h) s = becomes s h (beginHalt e hh x false l.workload)) ∧
      (x.state = .halting → x.treeHold = false → halted hh x = true →
        (haltRound s h x.id = false →
          exec (.haltComplete h) s = becomes s h (moveStep e hh x.id (fun y => { y with state := .saving }))) ∧
        (haltRound s h x.id = true →
          exec (.haltComplete h) s = becomes s h (updStep hh x.id (fun y => { y with treeHold := true })))) ∧
      (syncState x = true → stepFinished hh x = true →
        exec (.stepComplete h) s = becomes s h (endStepH e hh x.id .done)) ∧
      (x.state = .saving →
        let b := { s with
          fresh := s.fresh + 1
          accounts := mupd {} s.accounts x.workload (fun a => if a.known then { a with freezes := sat 32 (a.freezes + 1) } else a) }
        exec (.saveComplete h) s = becomes b h (refreshSt (moveStep (envOf b h) (saveStep s.fresh hh x) x.id
          (fun y => { y with state := .frozen, freezes := y.freezes + 1 })))) ∧
      (∀ sn, x.state = .restoring → hh.snap = some sn →
        (lostTile hh x = true → exec (.restoreComplete h) s = becomes s h (endStepH e hh x.id .abortedFault)) ∧
        (lostTile hh x = false → exec (.restoreComplete h) s = becomes s h
          (deliverSaved e (moveStep e (restoreSaved hh x sn) x.id (fun y => { y with state := .running }))))))) ∧
  (∀ (gen : Nat) (hh : Hearth) (x : Step), (saveStep gen hh x).snap = some (snapOf hh x) ∧
    (saveStep gen hh x).spill = []) ∧
  (∀ (hh : Hearth) (x : Step) (sn : Snapshot), (restoreSaved hh x sn).snap = none ∧ (restoreSaved hh x sn).spill = sn.spill)

/-- Faults: a flag goes to arbitration; its replay that gives the same value, and the referee that agrees or not, decide it (R421,
Table 13-8); another replay goes through replayDone. A bucket loses its oldest event, the command processors' included (R423). A
fatal event stops its hearth, and the loss of a command link is noted in every hearth's log besides (R392, R432); a chimney fault
retires its tile (R19). A configuration vote that agrees leaves the value, one that outvotes a copy repairs it with a record, and
one without a majority restores the default with an event of the hearth (R433, R434). The hour's corrected errors make one record
for each unit (R437). A mismatch of duplicated control is handled in its hearth; one of the command processors is recorded in
every hearth and fails the pair when it comes in the retry or for the third time (R414, R423). -/
def Obligations.FaultEventsAct : Prop :=
  ∀ (s : State) (h : Nat) (hh : Hearth), hearthOf s h = hh →
    let e := envOf s h
    (∀ st, runStep hh = some st →
      (∀ site, exec (.checkFlag h site) s = becomes s h (checkFlag e hh site)) ∧
      (∀ a, hh.arb = some a → a.referee = false →
        exec (.replayComplete h a.flag.orig) s = becomes s h { hh with arb := some { a with referee := true } }) ∧
      (∀ v, exec (.replayComplete h v) s = becomes s h (replayDone e hh v)) ∧
      (∀ a v, hh.arb = some a → a.referee = true →
        let base := a.flag.replay.getD a.flag.orig
        (v ≠ base → exec (.refereeComplete h v) s =
          becomes s h (permanentOutcome e hh a.flag (checkRec hh a.flag 0x0022 base v true))) ∧
        (v = base → a.flag.bound = 3 → exec (.refereeComplete h v) s =
          becomes s h (endRun e (logRec e hh (checkRec hh a.flag 0x0023 base v true)) .abortedFault)) ∧
        (v = base → a.flag.bound ≠ 3 → exec (.refereeComplete h v) s =
          becomes s h (closeArb (logRec e hh (checkRec hh a.flag 0x0020 base v true)) a.flag true)))) ∧
    (∀ unit,
      (unit / 1024 = 10 → exec (.bucketLeak h unit) s = .next { s with pairBucket := s.pairBucket.drop 1 }) ∧
      (unit / 1024 ≠ 10 → exec (.bucketLeak h unit) s = .next (putH s h { hh with
        buckets := mput [] hh.buckets unit ((mget [] hh.buckets unit).drop 1) }))) ∧
    (∀ ev perm,
      (ev ≠ .commandLink → exec (.hearthFatal h ev perm) s = becomes s h (fatalEvent e ev perm hh)) ∧
      (present hh.st = true → exec (.hearthFatal h .commandLink perm) s = .next (settle (mantelFailAt
        (putH s h (fatalEvent e .commandLink perm hh))
        (allHearths.filter (fun k => k != h && present (hearthOf s k).st)) (4 + h))))) ∧
    (∀ v, present hh.st = true → tileEnabled hh v = true → exec (.chimneyFault h v) s = becomes s h
      (permanent (updTile hh v (fun t => { t with fault := t.fault ||| 0x200 })) (bucketKey 2 v) 0 0 0)) ∧
    (readyFrozen hh.st = true →
      (∀ x, scrubVote hh.scrubA hh.scrubB hh.scrubC = some (x, none) → exec (.scrubCfgVote h true) s = becomes s h hh) ∧
      (∀ x i, scrubVote hh.scrubA hh.scrubB hh.scrubC = some (x, some i) →
        exec (.scrubCfgVote h true) s = becomes s h (logOf e { hh with scrubA := x, scrubB := x, scrubC := x } 0x0040
          (pathOf 9 0 0 0 0 0) 0 (detailOf [(0, 1, i)]))) ∧
      (∀ agree, agree = false ∨ scrubVote hh.scrubA hh.scrubB hh.scrubC = none →
        let c := scrubDefault hh
        exec (.scrubCfgVote h agree) s = becomes s h (eventRec e { hh with scrubA := c, scrubB := c, scrubC := c, scrubPos := [] }
          (bucketKey 0 0) { cls := 0x0041, path := BitVec.ofNat 64 (pathOf 9 0 0 0 0 0)
                            detail := detailOf [(0, 8, hh.scrubA.toNat), (8, 8, hh.scrubB.toNat), (16, 8, hh.scrubC.toNat)] }).1)) ∧
    (present hh.st = true → exec (.ceSummary h) s = becomes s h (
      let hx := (hh.cnt.filter (fun x => 0 < x.2.ceHour)).foldl (fun hh x =>
        logOf e hh 0x0001 (statusPath x.1) 0 (detailOf [(0, 8, x.2.ceHour)])) hh
      { hx with cnt := mmap {} (fun _ c => { c with ceHour := 0 }) hx.cnt })) ∧
    (∀ u r, u ≠ .cmdPair → exec (.controlMismatch h u r) s = becomes s h (ctrlHearth e hh u r)) ∧
    (s.pairsFailed = false → s.power.booted = true →
      let b := s.pairBucket ++ [s.time.ns]
      let m := { s with pairBucket := b }
      let noted (cls level window : Nat) := onHearths m (allHearths.filter (fun h => present (hearthOf m h).st))
        (fun e hh => logRec e hh { cls := cls, path := BitVec.ofNat 64 (pathOf 10 0 0 0 (if s.standbyOk then 0 else 1) 0)
                                   detail := detailOf [(0, 1, 5)], level := level, window := window })
      exec (.controlMismatch h .cmdPair true) s = .next (settle (failPair (noted 0x0011 0 0))) ∧
      (3 ≤ b.length → exec (.controlMismatch h .cmdPair false) s = .next (settle (failPair (noted 0x0010 b.length 10080)))) ∧
      (b.length < 3 → exec (.controlMismatch h .cmdPair false) s = .next (settle (noted 0x0010 b.length 10080))))

/-- What ends later: a load that reaches its last steps ends its hearth's part with DONE, or DONE_WITH_REPORT where it made
records (R190, R192). A firmware switch puts its target, the module or a hearth, on the staged image, and the next target's turn
comes; a hearth whose switch fails is lost (R432, R449). A unit that passes its test waits to return, and returns once no step
runs and no reshape is under way; one that fails, or whose place is gone, completes with ABORTED_FAULT (R239, R247, R431). -/
def Obligations.LateWorkCompletes : Prop :=
  ∀ (s : State) (h : Nat) (hh : Hearth), hearthOf s h = hh →
    (∀ l ns hx n, hh.load = some l → endLoad l ns hh = (hx, n) → exec (.loadComplete h ns) s =
      .next (settle (loadPart (putH s h hx) l.cmd h (if n = 0 then .done else .doneWithReport) 0 n))) ∧
    (∀ a more rest, s.activation = a :: more → a.left = h :: rest →
      let img := activeImage s a.target
      (∀ ok, a.target = 0 → exec (.fwSwitchComplete ok) s = .next (settle (nextTarget
        { s with trust := { s.trust with measModule := img.hash, fwVersion := img.version } } a rest a.switched))) ∧
      (a.target ≠ 0 → flueOn hh = true →
        let t := putH s h { hh with fw := img.version }
        exec (.fwSwitchComplete true) s = .next (settle (nextTarget
          { t with trust := { t.trust with measHearth := mput 0 t.trust.measHearth h img.hash } } a rest
          (a.switched ||| BitVec.ofNat 16 (2 ^ h)))) ∧
        exec (.fwSwitchComplete false) s = becomes s h (fatal (envOf s h) hh 1 false))) ∧
    (∀ u id rest, hh.restoring = (u, id) :: rest → u ≠ .hearth →
      let t := putH s h { hh with restoring := rest }
      let good := readyFaulted hh.st = true ∧ wholeOut hh u = true ∧ containerOut hh u = false
      (good → exec (.restoreTestComplete h true) s = .next (settle (returnUnits
        (updH t h (fun hh => { hh with returning := hh.returning ++ [(u, id)] })) h))) ∧
      (∀ pass, pass = false ∨ ¬ good → exec (.restoreTestComplete h pass) s = completes t id .abortedFault (testCode u) 0 0))

/-! ### The mantel and the sideband -/

/-- The sideband, while it works, answers a FRU read with the byte, a sensor's record with its unit and thresholds, and a reading
with VALUE and STATE; another message gets the standard's answer; only the endpoint ID changes, and without the endpoint there is
no answer (R483, R484, R496). -/
def Obligations.SidebandAnswersOnly : Prop :=
  ∀ s : State,
    (∀ off, fruOk s = true → off < 2048 → exec (.fruRead off) s = .next { s with rsp := .fru (fruAt s.fuses off) }) ∧
    (mctpOk s = true →
      (∀ eid, exec (.setEndpointId eid) s = .next { s with eid := eid, rsp := standardAnswer { s with eid := eid } [eid] }) ∧
      exec .getPdrRepositoryInfo s = .next { s with rsp := .pdrInfo sensorIds.length } ∧
      (∀ n id k, sensorIds[n - 1]? = some id → sensorIndex id = some k →
        exec (.getPdr n) s = .next { s with rsp := .pdr id (sensorUnit k) (sensorLimits k) }) ∧
      (∀ id k, sensorIndex id = some k → exec (.getSensorReading id) s =
        .next { s with rsp := .sensor (mget {} s.sensors k).value (sensorState s k) })) ∧
    (∀ m, exec (.mctpControl m) s = .next { s with rsp := standardAnswer s m } ∧
      exec (.pldmBase m) s = .next { s with rsp := standardAnswer s m }) ∧
    (∀ i t, exec (.setNumericSensorEnable i t) s = .next { s with rsp := standardAnswer s (leBytes 2 i ++ leBytes 1 t) }) ∧
    (mctpOk s = false → ∀ m, standardAnswer s m = .noAnswer)

/-! ### The whole machine -/

/-- A command that acts on one hearth gives that hearth a new state and touches no other hearth, no register of the host port, no
fuse, no flash and no host memory, before what settles at once (the frame of the streams, the firings, the threads, the
memory system, the endpoints and the steps). -/
def Obligations.HearthCommandsTouchOneHearth : Prop :=
  (∀ (c : Instr) (h : Nat) (s : State), hearthOnly c = some h → ∃ hh, exec c s = becomes s h hh) ∧
    ∀ (s : State) (h : Nat) (hh : Hearth), smapWf ({} : Hearth) s.hearths = true →
      { putH s h hh with hearths := s.hearths } = s ∧ (h < 9 → hearthOf (putH s h hh) h = hh) ∧
        ∀ g, g ≠ h → hearthOf (putH s h hh) g = hearthOf s g

/-- Rounding (R132) and narrowing (Table 4-7): the exact value of a Flue32 word rounds to the word, and a NaN to the canonical
NaN; the exact value of a code of Spark2, Glow4 and Coal8 converts to the code, unclipped. -/
def Obligations.RoundingKeepsExactValues : Prop :=
  (∀ x : W32, (isNan32 x = false → round32 (f32 x) = x) ∧ (isNan32 x = true → round32 (f32 x) = nan32)) ∧
    ∀ c x, c ≤ 3 → x < 2 ^ (fmtOf c).bits → ∃ n, convElem c (decodeVal c x) = (x, false, n)

/-- Fuses (R442): no step unblows a fuse or changes what manufacture wrote: from every state, the fuses after a step can come from
the fuses before it. -/
def Obligations.FusesNeverUnblow : Prop :=
  ∀ s t : State, step s = .next t → BlownFrom s.fuses t.fuses

/-- The alarm (R461, R463): each source of Table 14-10 raises it and sets its own bit of SOURCES beside those that are set,
whatever came before, a module cold reset included; with POLICY_SET at 0 it blows no fuse. A module in ALARM stays there at every
step but a cold reset. -/
def Obligations.AlarmRisesAndHoldsUntilAColdReset : Prop :=
  (∀ (s : State) (src : AlarmSource), s.power.mantelOn = true → s.power.perst = false →
    ∃ t, exec (.alarm src) s = .next t ∧ t.mod = .alarm ∧
      t.trust.sources = s.trust.sources ||| BitVec.ofNat 5 (2 ^ alarmBit src) ∧
      (s.fuses.policySet = false → t.fuses = s.fuses)) ∧
  ∀ s t : State, AlarmHeld s → (∀ c rest, s.pending = c :: rest → coldResets c = false) → step s = .next t → AlarmHeld t

/-- Host memory and the table of hearths keep their canonical form at every step. -/
def Obligations.CanonicalFormIsKept : Prop :=
  ∀ s t : State, Canonical s → step s = .next t → Canonical t

/-- The mantel holds at most 256 started commands other than LAUNCH_STEP that have not completed, at every step; while it
holds 256, a ring whose next command is not a LAUNCH_STEP is not read, and that command changes nothing (R405). -/
def Obligations.StartedCommandsHaveRoom : Prop :=
  (∀ s t : State, RoomHeld s → step s = .next t → RoomHeld t) ∧
  ∀ (s : State) (p : Pkt) (n code : Nat), outstanding s = 256 → p.src = .ring n → code ≠ 0x40 →
    startable s code p = false ∧ ∀ (c : CmdSpec) run, c.code = code → submit s p c run = s

/-- The state after reset has the canonical form and holds no command. -/
def Obligations.ResetIsCanonicalAndEmpty : Prop :=
  Canonical State.reset ∧ RoomHeld State.reset ∧ State.reset.pending = []
end

