-- ==== Sys2Proof/Laws/Tables.lean ====
section
/-! SUPPORT. The laws of the sparse tables: what a read answers after a write, and that every operation keeps the canonical
form. -/

namespace Sys2Proof.Machine

variable {α : Type} [DecidableEq α]

/-- A canonical table from lo on answers the default below lo. -/
theorem mget_below (d : α) (m : SMap α) (lo k : Nat) (h : smapWfFrom d lo m = true) (hk : k < lo) : mget d m k = d := by
  induction m generalizing lo with
  | nil => rfl
  | cons x t ih =>
    obtain ⟨a, v⟩ := x
    simp only [smapWfFrom, Bool.and_eq_true, decide_eq_true_eq] at h
    have ha : k < a := by omega
    simp only [mget]
    split
    · omega
    · first | exact ih (a + 1) h.2 (by omega) | (split <;> first | rfl | exact ih (a + 1) h.2 (by omega))

/-- The canonical form from a bound is that from any smaller bound. -/
theorem smapWfFrom_mono (d : α) (m : SMap α) (lo lo' : Nat) (h : smapWfFrom d lo m = true) (hl : lo' ≤ lo) :
    smapWfFrom d lo' m = true := by
  cases m with
  | nil => rfl
  | cons x t =>
    obtain ⟨a, v⟩ := x
    simp only [smapWfFrom, Bool.and_eq_true, decide_eq_true_eq] at h ⊢
    exact ⟨⟨by omega, h.1.2⟩, h.2⟩

/-- A write at or above the bound keeps the canonical form from the bound. -/
theorem mput_wfFrom (d : α) (m : SMap α) (lo k : Nat) (v : α) (h : smapWfFrom d lo m = true) (hk : lo ≤ k) :
    smapWfFrom d lo (mput d m k v) = true := by
  induction m generalizing lo with
  | nil =>
    simp only [mput]; split
    · rfl
    · simp [smapWfFrom, *]
  | cons x t ih =>
    obtain ⟨a, w⟩ := x
    have h0 := h
    simp only [smapWfFrom, Bool.and_eq_true, decide_eq_true_eq] at h
    simp only [mput]
    split
    · split
      · exact h0
      · have : smapWfFrom d (k + 1) ((a, w) :: t) = true := by
          simp only [smapWfFrom, Bool.and_eq_true, decide_eq_true_eq]; exact ⟨⟨by omega, h.1.2⟩, h.2⟩
        simp_all [smapWfFrom]
    · split
      · subst a
        split
        · exact smapWfFrom_mono d t (k + 1) lo h.2 (by omega)
        · simp_all [smapWfFrom]
      · simp only [smapWfFrom, Bool.and_eq_true, decide_eq_true_eq]
        exact ⟨h.1, ih (a + 1) h.2 (by omega)⟩

/-- A write keeps a table canonical. -/
theorem mput_wf (d : α) (m : SMap α) (k : Nat) (v : α) (h : smapWf d m = true) : smapWf d (mput d m k v) = true :=
  mput_wfFrom d m 0 k v h (Nat.zero_le k)

/-- A change at a key keeps a table canonical. -/
theorem mupd_wf (d : α) (m : SMap α) (k : Nat) (f : α → α) (h : smapWf d m = true) : smapWf d (mupd d m k f) = true :=
  mput_wf d m k _ h

/-- What a canonical table answers after a write: the written value at the key, what it was elsewhere. -/
theorem mget_mput_from (d : α) (m : SMap α) (lo k j : Nat) (v : α) (h : smapWfFrom d lo m = true) (hk : lo ≤ k) :
    mget d (mput d m k v) j = if j = k then v else mget d m j := by
  induction m generalizing lo with
  | nil =>
    simp only [mput]
    by_cases hv : v = d <;> by_cases hj : j = k <;> simp [hv, hj, mget] <;> try (intro q; exact absurd q.symm hj)
  | cons x t ih =>
    obtain ⟨a, w⟩ := x
    have h0 := h
    simp only [smapWfFrom, Bool.and_eq_true, decide_eq_true_eq] at h
    simp only [mput]
    split
    · rename_i hka
      by_cases hj : j = k
      · subst j
        have hb : mget d ((a, w) :: t) k = d :=
          mget_below d _ (k + 1) k (by simp only [smapWfFrom, Bool.and_eq_true, decide_eq_true_eq]; exact ⟨⟨by omega, h.1.2⟩, h.2⟩) (by omega)
        split
        · rw [hb]; simp [*]
        · simp [mget]
      · split
        · simp
        · simp [mget, Ne.symm hj]
    · split
      · subst a
        by_cases hj : j = k
        · subst j
          split
          · rw [mget_below d t (k + 1) k h.2 (by omega)]; simp [*]
          · simp [mget]
        · split <;> simp [mget, Ne.symm hj]
      · rename_i hne _
        by_cases hja : a = j
        · subst a; simp [mget]; intro q; omega
        · simp only [mget, hja, if_false]; exact ih (a + 1) h.2 (by omega)

/-- What a canonical table answers after a write. -/
theorem mget_mput (d : α) (m : SMap α) (k j : Nat) (v : α) (h : smapWf d m = true) :
    mget d (mput d m k v) j = if j = k then v else mget d m j :=
  mget_mput_from d m 0 k j v h (Nat.zero_le k)

/-- What a canonical table answers after a change at a key. -/
theorem mget_mupd (d : α) (m : SMap α) (k j : Nat) (f : α → α) (h : smapWf d m = true) :
    mget d (mupd d m k f) j = if j = k then f (mget d m k) else mget d m j :=
  mget_mput d m k j _ h

/-- A change of every listed value keeps a table canonical. -/
theorem mmap_wfFrom (d : α) (f : Nat → α → α) (m : SMap α) (lo : Nat) (h : smapWfFrom d lo m = true) :
    smapWfFrom d lo (mmap d f m) = true := by
  induction m generalizing lo with
  | nil => rfl
  | cons x t ih =>
    obtain ⟨a, v⟩ := x
    simp only [smapWfFrom, Bool.and_eq_true, decide_eq_true_eq] at h
    simp only [mmap]
    split
    · exact smapWfFrom_mono d _ (a + 1) lo (ih (a + 1) h.2) (by omega)
    · simp only [smapWfFrom, Bool.and_eq_true, decide_eq_true_eq]
      exact ⟨⟨h.1.1, by simpa using ‹_›⟩, ih (a + 1) h.2⟩

/-! ### Memories -/

/-- A byte written keeps a memory canonical. -/
theorem memPut_wf (m : Mem) (a : Nat) (b : Byte) (h : Memory.wf m = true) : Memory.wf (memPut m a b) = true :=
  mput_wf 0 m a b h

/-- Bytes written keep a memory canonical. -/
theorem memPuts_wf (m : Mem) (a : Nat) (bs : List Byte) (h : Memory.wf m = true) : Memory.wf (memPuts m a bs) = true := by
  induction bs generalizing m a with
  | nil => exact h
  | cons b t ih => exact ih _ _ (memPut_wf m a b h)

/-- What a canonical memory answers after bytes are written: the byte written, or what was there. -/
theorem mget_memPuts (m : Mem) (a : Nat) (bs : List Byte) (j : Nat) (h : Memory.wf m = true) :
    mget (0 : Byte) (memPuts m a bs) j = if a ≤ j ∧ j < a + bs.length then bs.getD (j - a) 0 else mget (0 : Byte) m j := by
  induction bs generalizing m a with
  | nil => simp only [memPuts, List.length_nil]; rw [if_neg (by omega)]
  | cons b t ih =>
    simp only [memPuts]
    rw [ih _ _ (memPut_wf m a b h), memPut, mget_mput _ _ _ _ _ h]
    simp only [List.length_cons]
    by_cases h1 : a + 1 ≤ j ∧ j < a + 1 + t.length
    · rw [if_pos h1, if_pos (by omega)]
      obtain ⟨n, hn⟩ : ∃ n, j - a = n + 1 := ⟨j - a - 1, by omega⟩
      have hn' : j - (a + 1) = n := by omega
      simp [hn, hn']
    · rw [if_neg h1]
      by_cases h2 : j = a
      · subst j; simp
      · rw [if_neg h2, if_neg (by omega)]

/-- Bytes written to a hearth keep its memory canonical. -/
theorem hWrite_wf (hh : Hearth) (a : Nat) (bs : List Byte) (h : Memory.wf hh.mem = true) :
    Memory.wf (hWrite hh a bs).mem = true := by
  unfold hWrite; split
  · exact h
  · exact memPuts_wf _ _ _ h

/-- Poison leaves a hearth's bytes. -/
@[simp] theorem hPoison_mem (hh : Hearth) (a n : Nat) : (hPoison hh a n).mem = hh.mem := rfl

/-- Poison of a word leaves a hearth's bytes. -/
@[simp] theorem hPoisonWord_mem (hh : Hearth) (w : Nat) : (hPoisonWord hh w).mem = hh.mem := rfl

/-- Undefined contents leave a hearth's list of bytes. -/
@[simp] theorem hUndef_mem (hh : Hearth) (lo hi g : Nat) : (hUndef hh lo hi g).mem = hh.mem := rfl

/-- The undefined ranges of a joined list: the first list's come first. -/
theorem wildAt_append (u w : List (Nat × Nat × Nat)) (a : Nat) :
    wildAt (u ++ w) a = match wildAt u a with | some g => some g | none => wildAt w a := by
  induction u with
  | nil => rfl
  | cons x t ih =>
    obtain ⟨lo, hi, g⟩ := x
    simp only [List.cons_append, wildAt]
    split
    · rfl
    · exact ih

/-- The pieces that stay of one undefined range. -/
theorem wildAt_pieces (l r g lo hi a : Nat) (h : ¬(hi ≤ l ∨ r ≤ lo)) :
    wildAt ((if l < lo then [(l, lo, g)] else []) ++ (if hi < r then [(hi, r, g)] else [])) a =
      if (l ≤ a ∧ a < r) ∧ ¬(lo ≤ a ∧ a < hi) then some g else none := by
  by_cases h2 : l < lo <;> by_cases h3 : hi < r <;>
    simp only [h2, h3, if_true, if_false, List.nil_append, List.append_nil, List.cons_append, wildAt] <;>
    (repeat' split) <;> first | rfl | (exfalso; omega)

/-- Bytes written to a range are no longer undefined, and no other address changes in that. -/
theorem wildAt_unwild (w : List (Nat × Nat × Nat)) (lo hi a : Nat) :
    wildAt (unwild w lo hi) a = if lo ≤ a ∧ a < hi then none else wildAt w a := by
  induction w with
  | nil => simp [unwild, wildAt]
  | cons x t ih =>
    obtain ⟨l, r, g⟩ := x
    have hc : unwild ((l, r, g) :: t) lo hi = (if hi ≤ l ∨ r ≤ lo then [(l, r, g)] else
        (if l < lo then [(l, lo, g)] else []) ++ (if hi < r then [(hi, r, g)] else [])) ++ unwild t lo hi := rfl
    rw [hc, wildAt_append, ih]
    by_cases h1 : hi ≤ l ∨ r ≤ lo
    · rw [if_pos h1]
      by_cases h2 : l ≤ a ∧ a < r
      · have : ¬(lo ≤ a ∧ a < hi) := by omega
        simp [h2, this, wildAt]
      · simp [h2, wildAt]
    · rw [if_neg h1, wildAt_pieces l r g lo hi a h1]
      by_cases h2 : l ≤ a ∧ a < r <;> by_cases h3 : lo ≤ a ∧ a < hi <;> simp [h2, h3, wildAt]

end Sys2Proof.Machine
end

