-- ==== Sys2Proof/Laws/Frames.lean ====
section
/-! SUPPORT. What the shared operations leave alone: one relation, `Follows`, that every one of them keeps. An operation on
the module that ends in `settle` needs no unfolding below it for the queue, the fuses, the alarm, the pins, the room for
commands and the canonical form. -/

namespace Sys2Proof.Machine

/-- State t comes from s with the queue, the fuses, the alarm and the pins as they were, no command more outstanding, and the
canonical forms kept. -/
structure Follows (s t : State) : Prop where
  pending : t.pending = s.pending
  fuses : t.fuses = s.fuses
  sources : t.trust.sources = s.trust.sources
  alarm : t.mod = .alarm ↔ s.mod = .alarm
  perst : t.power.perst = s.power.perst
  inputOk : t.power.inputOk = s.power.inputOk
  booted : t.power.booted = s.power.booted
  mantelOn : t.power.mantelOn = s.power.mantelOn
  room : outstanding t ≤ outstanding s
  mem : Memory.wf s.hostMem = true → Memory.wf t.hostMem = true
  hearths : smapWf ({} : Hearth) s.hearths = true → smapWf ({} : Hearth) t.hearths = true

namespace Follows

theorem refl (s : State) : Follows s s :=
  ⟨rfl, rfl, rfl, Iff.rfl, rfl, rfl, rfl, rfl, Nat.le_refl _, fun h => h, fun h => h⟩

theorem trans {s t u : State} (a : Follows s t) (b : Follows t u) : Follows s u :=
  ⟨b.pending.trans a.pending, b.fuses.trans a.fuses, b.sources.trans a.sources, b.alarm.trans a.alarm, b.perst.trans a.perst,
   b.inputOk.trans a.inputOk, b.booted.trans a.booted, b.mantelOn.trans a.mantelOn, Nat.le_trans b.room a.room,
   fun h => b.mem (a.mem h), fun h => b.hearths (a.hearths h)⟩

/-- A change of other fields alone. -/
theorem same {s t : State} (h1 : t.pending = s.pending) (h2 : t.fuses = s.fuses) (h3 : t.trust.sources = s.trust.sources)
    (h4 : t.mod = s.mod) (h5 : t.power.perst = s.power.perst) (h6 : t.power.inputOk = s.power.inputOk)
    (h7 : t.power.booted = s.power.booted) (h8 : t.power.mantelOn = s.power.mantelOn) (h9 : t.started = s.started)
    (h10 : t.hostMem = s.hostMem) (h11 : t.hearths = s.hearths) : Follows s t :=
  ⟨h1, h2, h3, by rw [h4], h5, h6, h7, h8, Nat.le_of_eq (by unfold outstanding; rw [h9]), fun h => by rw [h10]; exact h,
   fun h => by rw [h11]; exact h⟩

/-- A fold of operations that each follow. -/
theorem foldl {α : Type} (l : List α) (f : State → α → State) (s : State) (h : ∀ s x, Follows s (f s x)) :
    Follows s (l.foldl f s) := by
  induction l generalizing s with
  | nil => exact refl s
  | cons x t ih => exact (h s x).trans (ih _)

end Follows

open Follows

/-! ### Hearths -/

theorem putH_follows (s : State) (h : Nat) (hh : Hearth) : Follows s (putH s h hh) := by
  unfold putH; split
  · exact ⟨rfl, rfl, rfl, Iff.rfl, rfl, rfl, rfl, rfl, Nat.le_refl _, fun h => h, mput_wf _ _ _ _⟩
  · exact refl s

theorem updH_follows (s : State) (h : Nat) (f : Hearth → Hearth) : Follows s (updH s h f) := putH_follows s h _

theorem onHearth_follows (s : State) (h : Nat) (f : Env → Hearth → Hearth) : Follows s (onHearth s h f) :=
  putH_follows s h _

theorem onHearths_follows (s : State) (hs : List Nat) (f : Env → Hearth → Hearth) : Follows s (onHearths s hs f) :=
  foldl _ _ _ (fun s h => onHearth_follows s h f)

/-! ### Host memory and completion records -/

theorem hostWrite_follows (s : State) (a : Nat) (bs : List Byte) : Follows s (hostWrite s a bs) := by
  unfold hostWrite; split
  · exact refl s
  · exact ⟨rfl, rfl, rfl, Iff.rfl, rfl, rfl, rfl, rfl, Nat.le_refl _, memPuts_wf _ _ _, fun h => h⟩

theorem logAll_follows (s : State) (cls path syn : Nat) (det : BitVec 2048) : Follows s (logAll s cls path syn det) :=
  onHearths_follows _ _ _

theorem dropRecords_follows (s : State) (n : Nat) : Follows s (dropRecords s n) :=
  same rfl rfl rfl rfl rfl rfl rfl rfl rfl rfl rfl

theorem blocked_follows (s : State) (b : Option Nat) (addr : Nat) : Follows s (blocked s b addr) := by
  have h : Follows s { s with regs := { s.regs with dmaBlocked := true } } :=
    same rfl rfl rfl rfl rfl rfl rfl rfl rfl rfl rfl
  unfold blocked
  cases b with
  | some k => exact h.trans (onHearth_follows _ _ _)
  | none => exact h.trans (logAll_follows _ _ _ _ _)

theorem putRecord_follows (s : State) (n : Nat) (r : List Byte) (more : Bool) : Follows s (putRecord s n r more) :=
  (hostWrite_follows s _ _).trans (same rfl rfl rfl rfl rfl rfl rfl rfl rfl rfl rfl)

theorem writeCompletion_follows (s : State) (n : Nat) (recs : List (List Byte)) : Follows s (writeCompletion s n recs) := by
  unfold writeCompletion
  dsimp only
  generalize (if _ < recs.length then _ else 0 : Nat) = pads
  split
  · exact dropRecords_follows _ _
  · split
    · exact dropRecords_follows _ _
    · split
      · exact (blocked_follows _ _ _).trans (dropRecords_follows _ _)
      · exact (foldl _ _ _ (fun s _ => putRecord_follows s _ _ _)).trans (foldl _ _ _ (fun s _ => putRecord_follows s _ _ _))

theorem post_follows (s : State) (o : Origin) (st : Status) (det r0 r1 : Nat) (two : Option (Nat × Nat × Nat × Nat)) :
    Follows s (post s o st det r0 r1 two) := by
  unfold post
  dsimp only
  split
  · exact writeCompletion_follows _ _ _
  · split
    · exact refl s
    · exact updH_follows _ _ _
  · exact updH_follows _ _ _

/-! ### Started commands -/

theorem dropStarted_follows (s : State) (id : Nat) : Follows s (dropStarted s id) := by
  refine ⟨rfl, rfl, rfl, Iff.rfl, rfl, rfl, rfl, rfl, ?_, fun h => h, fun h => h⟩
  simp only [outstanding, dropStarted, List.filter_filter]
  rw [show (s.started.filter fun a => a.org.opcode != 64 && a.id != id)
    = (s.started.filter fun a => a.org.opcode != 64).filter fun a => a.id != id by
      rw [List.filter_filter]; congr 1; funext a; exact Bool.and_comm _ _]
  exact List.length_filter_le _ _

/-- A change of started commands that keeps where each came from. -/
theorem updStarted_follows (s : State) (id : Nat) (f : Started → Started) (h : ∀ x, (f x).org = x.org) :
    Follows s (updStarted s id f) := by
  refine ⟨rfl, rfl, rfl, Iff.rfl, rfl, rfl, rfl, rfl, Nat.le_of_eq ?_, fun h => h, fun h => h⟩
  simp only [outstanding, updStarted, List.filter_map, List.length_map]
  congr 2
  funext x
  simp only [Function.comp]
  split <;> simp [h]

theorem setWait_follows (s : State) (id : Nat) (w : Wait) : Follows s (setWait s id w) :=
  updStarted_follows s id _ (fun _ => rfl)

theorem tryPost_follows (s : State) (id : Nat) (two : Option (Nat × Nat × Nat × Nat)) : Follows s (tryPost s id two) := by
  unfold tryPost
  split
  · exact refl s
  · split
    · exact refl s
    · split
      · exact refl s
      · exact (dropStarted_follows s id).trans (post_follows _ _ _ _ _ _ _)

/-- A command that completes: only its own completion, its entry among the started commands and its records change. -/
theorem finish_follows (s : State) (id : Nat) (st : Status) (det r0 r1 : Nat) (two : Option (Nat × Nat × Nat × Nat)) :
    Follows s (finish s id st det r0 r1 two) := by
  unfold finish
  refine Follows.trans ?_ (tryPost_follows _ _ _)
  exact updStarted_follows s id _ (fun _ => rfl)

theorem bufWrite_follows (s : State) (w : Nat) (bs : List Byte) : Follows s (bufWrite s w bs).1 := by
  unfold bufWrite
  split
  · rcases localAddr (modAddr w) with ⟨h, a⟩
    dsimp only
    exact updH_follows _ _ _
  · split
    · exact refl s
    · split
      · exact hostWrite_follows _ _ _
      · exact blocked_follows s none _

theorem reportAndFinish_follows (s : State) (id w : Nat) (bs : List Byte) (st : Status) (det r0 r1 : Nat) :
    Follows s (reportAndFinish s id w bs st det r0 r1) := by
  unfold reportAndFinish
  dsimp only
  split
  · exact (bufWrite_follows s w bs).trans (finish_follows _ _ _ _ _ _ _)
  · exact (bufWrite_follows s w bs).trans (finish_follows _ _ _ _ _ _ _)

/-! ### The tree -/

theorem sendCommand_follows (s : State) (i : Nat) (bytes : List Byte) : Follows s (sendCommand s i bytes) := by
  unfold sendCommand
  rcases childEntry s i with ⟨b, m, d⟩
  exact updH_follows _ _ _

theorem sendAll_follows (s : State) (l : List Nat) (b : List Byte) : Follows s (l.foldl (fun s i => sendCommand s i b) s) :=
  foldl _ _ _ (fun s i => sendCommand_follows s i b)

theorem forward_follows (s : State) (id code : Nat) (p : Pkt) : Follows s (forward s id code p) := by
  unfold forward
  split
  · exact refl s
  · refine Follows.trans (sendAll_follows s (enabledChildren s) ((pktBytes code p).take (64 * slotsTaken p.slots.toNat))) ?_
    exact updStarted_follows _ _ _ (fun _ => rfl)

theorem abortTree_follows (s : State) (w : Nat) : Follows s (abortTree s w) :=
  (sendAll_follows s _ _).trans (onHearths_follows _ _ _)

/-! ### Steps, loads and links that end -/

theorem reportCharges_follows (s : State) (h : Nat) : Follows s (reportCharges s h) := by
  unfold reportCharges
  refine Follows.trans ?_ (updH_follows _ _ _)
  exact (onHearth_follows s h accrue).trans (same rfl rfl rfl rfl rfl rfl rfl rfl rfl rfl rfl)

theorem writeReport_follows (s : State) (h : Nat) (x : Step) (frozen : Bool) : Follows s (writeReport s h x frozen).1 := by
  unfold writeReport
  generalize stepReport h x frozen = bs
  extract_lets _ t w
  have a : Follows s t := updH_follows _ _ _
  split
  · exact a.trans (bufWrite_follows _ _ _)
  · split
    · exact a
    · split
      · exact a.trans (hostWrite_follows _ _ _)
      · exact a.trans (blocked_follows t (some h) _)

theorem finishSteps_follows (s : State) (id : Nat) (l : List (Nat × Status × Bool × Nat)) :
    Follows s (finishSteps s id l) := by
  unfold finishSteps
  split
  · exact refl s
  · exact finish_follows _ _ _ _ _ _ _

theorem stepResult_follows (s : State) (w h : Nat) (st : Status) (v : Bool) (n : Nat) : Follows s (stepResult s w h st v n) := by
  unfold stepResult
  split
  · dsimp only
    split
    · exact (setWait_follows _ _ _).trans (finishSteps_follows _ _ _)
    · exact setWait_follows _ _ _
  · exact refl s

theorem settleEnded_follows (s : State) (h : Nat) (x : Step) : Follows s (settleEnded s h x) := by
  unfold settleEnded
  dsimp only
  have a : Follows s _ := (writeReport_follows s h x false).trans
    (updH_follows _ h (fun hh => { hh with steps := hh.steps.filter (fun y => y.id != x.id) }))
  split
  · exact a.trans (same rfl rfl rfl rfl rfl rfl rfl rfl rfl rfl rfl)
  · refine (a.trans ?_).trans (stepResult_follows _ _ _ _ _ _)
    exact same rfl rfl rfl rfl rfl rfl rfl rfl rfl rfl rfl

theorem settleFrozen_follows (s : State) (h : Nat) (x : Step) : Follows s (settleFrozen s h x) :=
  ((writeReport_follows s h x true).trans (updH_follows _ _ _)).trans (stepResult_follows _ _ _ _ _ _)

theorem settleSteps_follows (s : State) (h : Nat) : Follows s (settleSteps s h) := by
  refine foldl _ _ s (fun s x => ?_)
  split
  · exact settleEnded_follows _ _ _
  · split
    · exact settleFrozen_follows _ _ _
    · exact refl s

theorem finishLoad_follows (s : State) (id : Nat) (left : W16) (st : Status) (det records : Nat) (mask : W16) :
    Follows s (finishLoad s id left st det records mask) := by
  unfold finishLoad
  split
  · exact setWait_follows _ _ _
  · exact finish_follows _ _ _ _ _ _ _

theorem loadPart_follows (s : State) (id h : Nat) (r : Status) (d n : Nat) : Follows s (loadPart s id h r d n) := by
  unfold loadPart
  split
  · exact finishLoad_follows _ _ _ _ _ _ _
  · exact refl s

theorem loadStopped_follows (s : State) (id : Nat) (left : W16) : Follows s (loadStopped s id left) :=
  foldl _ _ s (fun s _ => loadPart_follows s _ _ _ _ _)

theorem beginSave_follows (s : State) (l : List (Nat × Nat)) : Follows s (beginSave s l) :=
  foldl _ _ s (fun s _ => onHearth_follows s _ _)

theorem afterHalt_follows (s : State) (x : Started) (l : List (Nat × Nat)) (slot : BitVec 512) :
    Follows s (afterHalt s x l slot) := by
  unfold afterHalt
  split
  · exact refl s
  · split
    · exact (abortTree_follows _ _).trans (finish_follows _ _ _ _ _ _ _)
    · dsimp only
      refine Follows.trans ?_ (beginSave_follows _ _)
      refine Follows.trans (sendAll_follows s (enabledChildren s) (leBytes 64 slot.toNat)) ?_
      exact updStarted_follows _ _ _ (fun _ => rfl)

theorem settleLinks_follows (s : State) (id : Nat) (left m : BitVec 128) (waits bad : Hearth → Nat → Bool)
    (again : BitVec 128 → BitVec 128 → Wait) : Follows s (settleLinks s id left m waits bad again) := by
  unfold settleLinks
  dsimp only
  split
  · exact finish_follows _ _ _ _ _ _ _
  · exact setWait_follows _ _ _

/-! ### Firmware -/

theorem stageImage_follows (s : State) (target : Nat) (x : FwImage) : Follows s (stageImage s target x) := by
  unfold stageImage
  split <;> exact same rfl rfl rfl rfl rfl rfl rfl rfl rfl rfl rfl

theorem finishStage_follows (s : State) (id target : Nat) (x : FwImage) : Follows s (finishStage s id target x) := by
  unfold finishStage
  split
  · exact (stageImage_follows _ _ _).trans (finish_follows _ _ _ _ _ _ _)
  · refine Follows.trans ?_ (finish_follows _ _ _ _ _ _ _)
    exact same rfl rfl rfl rfl rfl rfl rfl rfl rfl rfl rfl

/-! ### Retirement -/

theorem mapRetired_follows (s : State) (h : Nat) (l : List UnitSel) : Follows s (mapRetired s h l) := by
  unfold mapRetired; split
  · exact same rfl rfl rfl rfl rfl rfl rfl rfl rfl rfl rfl
  · exact refl s

theorem returnTokens_follows (s : State) (h : Nat) : Follows s (returnTokens s h) := by
  unfold returnTokens; dsimp only
  exact Follows.trans (t := { s with power := { s.power with pool := s.power.pool + (hearthOf s h).tokens } })
    (same rfl rfl rfl rfl rfl rfl rfl rfl rfl rfl rfl) (updH_follows _ _ _)

theorem retireOne_follows (s : State) (h : Nat) (d : Deferred) : Follows s (retireOne s h d) := by
  have fin (s : State) (det : Nat) :
      Follows s (match d.cmd with | some id => finish s id .done det 0 0 | none => s) := by
    split
    · exact finish_follows _ _ _ _ _ _ _
    · exact refl s
  unfold retireOne
  dsimp only
  split
  · exact fin _ _
  · refine Follows.trans ?_ (fin _ _)
    have a (t : State) (g : Env → Hearth → Hearth) : Follows t (onHearth { t with fresh := t.fresh + 1 } h g) :=
      Follows.trans (t := { t with fresh := t.fresh + 1 }) (same rfl rfl rfl rfl rfl rfl rfl rfl rfl rfl rfl)
        (onHearth_follows _ _ _)
    refine (mapRetired_follows s h d.sels).trans ?_
    split
    · exact (returnTokens_follows _ _).trans (a _ _)
    · exact a _ _

theorem retireAll_follows (n : Nat) (s : State) (h : Nat) : Follows s (retireAll s h n) := by
  induction n generalizing s with
  | zero => exact refl s
  | succ n ih =>
    unfold retireAll
    dsimp only
    split
    · split
      · exact updH_follows _ _ _
      · exact refl s
    · split
      · exact refl s
      · refine Follows.trans ?_ (ih _)
        refine Follows.trans ?_ (retireOne_follows _ _ _)
        exact updH_follows _ _ _

/-! ### What follows an event at once -/

theorem settleWait_follows (s : State) (x : Started) : Follows s (settleWait s x) := by
  have f (s : State) (id : Nat) (st : Status) (det r0 r1 : Nat) : Follows s (finish s id st det r0 r1) :=
    finish_follows s id st det r0 r1 none
  rcases x with ⟨id, org, wait, _, children, _, _, _, lost, workload⟩
  rcases wait with _ | w
  · exact refl s
  cases w <;> unfold settleWait <;> dsimp only
  case steps => exact refl s
  case preempt l halt save =>
    split
    · exact afterHalt_follows _ _ _ _
    · exact f _ _ _ _ _ _
    · exact refl s
  case load => exact loadStopped_follows _ _ _
  case reset =>
    split
    · exact f _ _ _ _ _ _
    · exact refl s
  case retire => exact refl s
  case restore => exact refl s
  case fwStage =>
    split
    · exact refl s
    · exact finishStage_follows _ _ _ _
  case fwActivate =>
    split
    · split
      · refine Follows.trans ?_ (f _ _ _ _ _ _)
        exact same rfl rfl rfl rfl rfl rfl rfl rfl rfl rfl rfl
      · exact refl s
    · exact refl s
  case flueUp => exact settleLinks_follows _ _ _ _ _ _ _
  case flueDown => exact settleLinks_follows _ _ _ _ _ _ _
  case slew =>
    split
    · exact f _ _ _ _ _ _
    · exact refl s
  case warmReset =>
    split
    · refine Follows.trans ?_ (f _ _ _ _ _ _)
      exact same rfl rfl rfl rfl rfl rfl rfl rfl rfl rfl rfl
    · exact refl s
  case remoteCopy =>
    split
    · exact f _ _ _ _ _ _
    · exact refl s
  case attest =>
    split
    · exact f _ _ _ _ _ _
    · exact refl s

theorem modRefresh_follows (s : State) : Follows s (modRefresh s) := by
  unfold modRefresh
  split <;> (try split) <;>
    first
    | exact refl s
    | exact ⟨rfl, rfl, rfl, by simp_all, rfl, rfl, rfl, rfl, Nat.le_refl _, fun h => h, fun h => h⟩

theorem tellPorts_follows (s : State) : Follows s (tellPorts s) := by
  unfold tellPorts
  refine foldl _ _ _ (fun s h => ?_)
  split
  · exact refl s
  · exact updH_follows _ _ _

theorem memoryShown_follows (s : State) : Follows s (memoryShown s) :=
  same rfl rfl rfl rfl rfl rfl rfl rfl rfl rfl rfl

/-- What follows an event at once leaves the queue, the fuses, the alarm and the pins, starts no command and keeps the canonical
forms. -/
theorem settle_follows (s : State) : Follows s (settle s) := by
  unfold settle
  refine Follows.trans ?_ (memoryShown_follows _)
  refine Follows.trans ?_ (modRefresh_follows _)
  refine Follows.trans ?_ (foldl _ _ _ settleWait_follows)
  refine Follows.trans ?_ (foldl _ _ _ settleSteps_follows)
  refine Follows.trans ?_ (foldl _ _ _ (fun s h => ?_))
  · refine Follows.trans ?_ (onHearths_follows _ _ _)
    refine Follows.trans (foldl _ _ _ (fun s h => ?_)) (tellPorts_follows _)
    split
    · exact refl s
    · exact retireAll_follows _ _ _
  · split
    · exact reportCharges_follows _ _
    · exact refl s

end Sys2Proof.Machine
end

