-- ==== Sys2Proof/Laws/State.lean ====
section
/-! SUPPORT. What each update of the module's state and of a hearth leaves, field by field, and what it reads back as. -/

namespace Sys2Proof.Machine

/-! ### A hearth of the module -/

@[simp] theorem putH_pending (s : State) (h : Nat) (x : Hearth) : (putH s h x).pending = s.pending := by unfold putH; split <;> rfl
@[simp] theorem putH_fresh (s : State) (h : Nat) (x : Hearth) : (putH s h x).fresh = s.fresh := by unfold putH; split <;> rfl
@[simp] theorem putH_mod (s : State) (h : Nat) (x : Hearth) : (putH s h x).mod = s.mod := by unfold putH; split <;> rfl
@[simp] theorem putH_regs (s : State) (h : Nat) (x : Hearth) : (putH s h x).regs = s.regs := by unfold putH; split <;> rfl
@[simp] theorem putH_time (s : State) (h : Nat) (x : Hearth) : (putH s h x).time = s.time := by unfold putH; split <;> rfl
@[simp] theorem putH_fuses (s : State) (h : Nat) (x : Hearth) : (putH s h x).fuses = s.fuses := by unfold putH; split <;> rfl
@[simp] theorem putH_flash (s : State) (h : Nat) (x : Hearth) : (putH s h x).flash = s.flash := by unfold putH; split <;> rfl
@[simp] theorem putH_trust (s : State) (h : Nat) (x : Hearth) : (putH s h x).trust = s.trust := by unfold putH; split <;> rfl
@[simp] theorem putH_power (s : State) (h : Nat) (x : Hearth) : (putH s h x).power = s.power := by unfold putH; split <;> rfl
@[simp] theorem putH_role (s : State) (h : Nat) (x : Hearth) : (putH s h x).role = s.role := by unfold putH; split <;> rfl
@[simp] theorem putH_hostMem (s : State) (h : Nat) (x : Hearth) : (putH s h x).hostMem = s.hostMem := by unfold putH; split <;> rfl
@[simp] theorem putH_hostWild (s : State) (h : Nat) (x : Hearth) : (putH s h x).hostWild = s.hostWild := by unfold putH; split <;> rfl
@[simp] theorem putH_started (s : State) (h : Nat) (x : Hearth) : (putH s h x).started = s.started := by unfold putH; split <;> rfl
@[simp] theorem putH_nextCmd (s : State) (h : Nat) (x : Hearth) : (putH s h x).nextCmd = s.nextCmd := by unfold putH; split <;> rfl
@[simp] theorem putH_accounts (s : State) (h : Nat) (x : Hearth) : (putH s h x).accounts = s.accounts := by unfold putH; split <;> rfl
@[simp] theorem putH_order (s : State) (h : Nat) (x : Hearth) : (putH s h x).order = s.order := by unfold putH; split <;> rfl
@[simp] theorem putH_sensors (s : State) (h : Nat) (x : Hearth) : (putH s h x).sensors = s.sensors := by unfold putH; split <;> rfl
@[simp] theorem putH_sensorTime (s : State) (h : Nat) (x : Hearth) : (putH s h x).sensorTime = s.sensorTime := by unfold putH; split <;> rfl
@[simp] theorem putH_eid (s : State) (h : Nat) (x : Hearth) : (putH s h x).eid = s.eid := by unfold putH; split <;> rfl
@[simp] theorem putH_sidebandFailed (s : State) (h : Nat) (x : Hearth) : (putH s h x).sidebandFailed = s.sidebandFailed := by unfold putH; split <;> rfl
@[simp] theorem putH_sidebandOn (s : State) (h : Nat) (x : Hearth) : (putH s h x).sidebandOn = s.sidebandOn := by unfold putH; split <;> rfl
@[simp] theorem putH_hostPortFailed (s : State) (h : Nat) (x : Hearth) : (putH s h x).hostPortFailed = s.hostPortFailed := by unfold putH; split <;> rfl
@[simp] theorem putH_standbyOk (s : State) (h : Nat) (x : Hearth) : (putH s h x).standbyOk = s.standbyOk := by unfold putH; split <;> rfl
@[simp] theorem putH_pairsFailed (s : State) (h : Nat) (x : Hearth) : (putH s h x).pairsFailed = s.pairsFailed := by unfold putH; split <;> rfl
@[simp] theorem putH_pairBucket (s : State) (h : Nat) (x : Hearth) : (putH s h x).pairBucket = s.pairBucket := by unfold putH; split <;> rfl
@[simp] theorem putH_ringsOn (s : State) (h : Nat) (x : Hearth) : (putH s h x).ringsOn = s.ringsOn := by unfold putH; split <;> rfl
@[simp] theorem putH_romEngine (s : State) (h : Nat) (x : Hearth) : (putH s h x).romEngine = s.romEngine := by unfold putH; split <;> rfl
@[simp] theorem putH_activation (s : State) (h : Nat) (x : Hearth) : (putH s h x).activation = s.activation := by unfold putH; split <;> rfl
@[simp] theorem putH_saves (s : State) (h : Nat) (x : Hearth) : (putH s h x).saves = s.saves := by unfold putH; split <;> rfl
@[simp] theorem putH_cmdCells (s : State) (h : Nat) (x : Hearth) : (putH s h x).cmdCells = s.cmdCells := by unfold putH; split <;> rfl
@[simp] theorem putH_linkCells (s : State) (h : Nat) (x : Hearth) : (putH s h x).linkCells = s.linkCells := by unfold putH; split <;> rfl
@[simp] theorem putH_rsp (s : State) (h : Nat) (x : Hearth) : (putH s h x).rsp = s.rsp := by unfold putH; split <;> rfl
@[simp] theorem putH_memActive (s : State) (h : Nat) (x : Hearth) : (putH s h x).memActive = s.memActive := by unfold putH; split <;> rfl
@[simp] theorem putH_cdat (s : State) (h : Nat) (x : Hearth) : (putH s h x).cdat = s.cdat := by unfold putH; split <;> rfl

@[simp] theorem updH_pending (s : State) (h : Nat) (f : Hearth → Hearth) : (updH s h f).pending = s.pending := putH_pending _ _ _
@[simp] theorem updH_fresh (s : State) (h : Nat) (f : Hearth → Hearth) : (updH s h f).fresh = s.fresh := putH_fresh _ _ _
@[simp] theorem updH_mod (s : State) (h : Nat) (f : Hearth → Hearth) : (updH s h f).mod = s.mod := putH_mod _ _ _
@[simp] theorem updH_regs (s : State) (h : Nat) (f : Hearth → Hearth) : (updH s h f).regs = s.regs := putH_regs _ _ _
@[simp] theorem updH_time (s : State) (h : Nat) (f : Hearth → Hearth) : (updH s h f).time = s.time := putH_time _ _ _
@[simp] theorem updH_fuses (s : State) (h : Nat) (f : Hearth → Hearth) : (updH s h f).fuses = s.fuses := putH_fuses _ _ _
@[simp] theorem updH_flash (s : State) (h : Nat) (f : Hearth → Hearth) : (updH s h f).flash = s.flash := putH_flash _ _ _
@[simp] theorem updH_trust (s : State) (h : Nat) (f : Hearth → Hearth) : (updH s h f).trust = s.trust := putH_trust _ _ _
@[simp] theorem updH_power (s : State) (h : Nat) (f : Hearth → Hearth) : (updH s h f).power = s.power := putH_power _ _ _
@[simp] theorem updH_role (s : State) (h : Nat) (f : Hearth → Hearth) : (updH s h f).role = s.role := putH_role _ _ _
@[simp] theorem updH_hostMem (s : State) (h : Nat) (f : Hearth → Hearth) : (updH s h f).hostMem = s.hostMem := putH_hostMem _ _ _
@[simp] theorem updH_hostWild (s : State) (h : Nat) (f : Hearth → Hearth) : (updH s h f).hostWild = s.hostWild := putH_hostWild _ _ _
@[simp] theorem updH_started (s : State) (h : Nat) (f : Hearth → Hearth) : (updH s h f).started = s.started := putH_started _ _ _
@[simp] theorem updH_nextCmd (s : State) (h : Nat) (f : Hearth → Hearth) : (updH s h f).nextCmd = s.nextCmd := putH_nextCmd _ _ _
@[simp] theorem updH_accounts (s : State) (h : Nat) (f : Hearth → Hearth) : (updH s h f).accounts = s.accounts := putH_accounts _ _ _
@[simp] theorem updH_order (s : State) (h : Nat) (f : Hearth → Hearth) : (updH s h f).order = s.order := putH_order _ _ _
@[simp] theorem updH_sensors (s : State) (h : Nat) (f : Hearth → Hearth) : (updH s h f).sensors = s.sensors := putH_sensors _ _ _
@[simp] theorem updH_sensorTime (s : State) (h : Nat) (f : Hearth → Hearth) : (updH s h f).sensorTime = s.sensorTime := putH_sensorTime _ _ _
@[simp] theorem updH_eid (s : State) (h : Nat) (f : Hearth → Hearth) : (updH s h f).eid = s.eid := putH_eid _ _ _
@[simp] theorem updH_sidebandFailed (s : State) (h : Nat) (f : Hearth → Hearth) : (updH s h f).sidebandFailed = s.sidebandFailed := putH_sidebandFailed _ _ _
@[simp] theorem updH_sidebandOn (s : State) (h : Nat) (f : Hearth → Hearth) : (updH s h f).sidebandOn = s.sidebandOn := putH_sidebandOn _ _ _
@[simp] theorem updH_hostPortFailed (s : State) (h : Nat) (f : Hearth → Hearth) : (updH s h f).hostPortFailed = s.hostPortFailed := putH_hostPortFailed _ _ _
@[simp] theorem updH_standbyOk (s : State) (h : Nat) (f : Hearth → Hearth) : (updH s h f).standbyOk = s.standbyOk := putH_standbyOk _ _ _
@[simp] theorem updH_pairsFailed (s : State) (h : Nat) (f : Hearth → Hearth) : (updH s h f).pairsFailed = s.pairsFailed := putH_pairsFailed _ _ _
@[simp] theorem updH_pairBucket (s : State) (h : Nat) (f : Hearth → Hearth) : (updH s h f).pairBucket = s.pairBucket := putH_pairBucket _ _ _
@[simp] theorem updH_ringsOn (s : State) (h : Nat) (f : Hearth → Hearth) : (updH s h f).ringsOn = s.ringsOn := putH_ringsOn _ _ _
@[simp] theorem updH_romEngine (s : State) (h : Nat) (f : Hearth → Hearth) : (updH s h f).romEngine = s.romEngine := putH_romEngine _ _ _
@[simp] theorem updH_activation (s : State) (h : Nat) (f : Hearth → Hearth) : (updH s h f).activation = s.activation := putH_activation _ _ _
@[simp] theorem updH_saves (s : State) (h : Nat) (f : Hearth → Hearth) : (updH s h f).saves = s.saves := putH_saves _ _ _
@[simp] theorem updH_cmdCells (s : State) (h : Nat) (f : Hearth → Hearth) : (updH s h f).cmdCells = s.cmdCells := putH_cmdCells _ _ _
@[simp] theorem updH_linkCells (s : State) (h : Nat) (f : Hearth → Hearth) : (updH s h f).linkCells = s.linkCells := putH_linkCells _ _ _
@[simp] theorem updH_rsp (s : State) (h : Nat) (f : Hearth → Hearth) : (updH s h f).rsp = s.rsp := putH_rsp _ _ _
@[simp] theorem updH_memActive (s : State) (h : Nat) (f : Hearth → Hearth) : (updH s h f).memActive = s.memActive := putH_memActive _ _ _
@[simp] theorem updH_cdat (s : State) (h : Nat) (f : Hearth → Hearth) : (updH s h f).cdat = s.cdat := putH_cdat _ _ _

@[simp] theorem onHearth_pending (s : State) (h : Nat) (f : Env → Hearth → Hearth) : (onHearth s h f).pending = s.pending := putH_pending _ _ _
@[simp] theorem onHearth_fresh (s : State) (h : Nat) (f : Env → Hearth → Hearth) : (onHearth s h f).fresh = s.fresh := putH_fresh _ _ _
@[simp] theorem onHearth_mod (s : State) (h : Nat) (f : Env → Hearth → Hearth) : (onHearth s h f).mod = s.mod := putH_mod _ _ _
@[simp] theorem onHearth_regs (s : State) (h : Nat) (f : Env → Hearth → Hearth) : (onHearth s h f).regs = s.regs := putH_regs _ _ _
@[simp] theorem onHearth_time (s : State) (h : Nat) (f : Env → Hearth → Hearth) : (onHearth s h f).time = s.time := putH_time _ _ _
@[simp] theorem onHearth_fuses (s : State) (h : Nat) (f : Env → Hearth → Hearth) : (onHearth s h f).fuses = s.fuses := putH_fuses _ _ _
@[simp] theorem onHearth_flash (s : State) (h : Nat) (f : Env → Hearth → Hearth) : (onHearth s h f).flash = s.flash := putH_flash _ _ _
@[simp] theorem onHearth_trust (s : State) (h : Nat) (f : Env → Hearth → Hearth) : (onHearth s h f).trust = s.trust := putH_trust _ _ _
@[simp] theorem onHearth_power (s : State) (h : Nat) (f : Env → Hearth → Hearth) : (onHearth s h f).power = s.power := putH_power _ _ _
@[simp] theorem onHearth_role (s : State) (h : Nat) (f : Env → Hearth → Hearth) : (onHearth s h f).role = s.role := putH_role _ _ _
@[simp] theorem onHearth_hostMem (s : State) (h : Nat) (f : Env → Hearth → Hearth) : (onHearth s h f).hostMem = s.hostMem := putH_hostMem _ _ _
@[simp] theorem onHearth_hostWild (s : State) (h : Nat) (f : Env → Hearth → Hearth) : (onHearth s h f).hostWild = s.hostWild := putH_hostWild _ _ _
@[simp] theorem onHearth_started (s : State) (h : Nat) (f : Env → Hearth → Hearth) : (onHearth s h f).started = s.started := putH_started _ _ _
@[simp] theorem onHearth_nextCmd (s : State) (h : Nat) (f : Env → Hearth → Hearth) : (onHearth s h f).nextCmd = s.nextCmd := putH_nextCmd _ _ _
@[simp] theorem onHearth_accounts (s : State) (h : Nat) (f : Env → Hearth → Hearth) : (onHearth s h f).accounts = s.accounts := putH_accounts _ _ _
@[simp] theorem onHearth_order (s : State) (h : Nat) (f : Env → Hearth → Hearth) : (onHearth s h f).order = s.order := putH_order _ _ _
@[simp] theorem onHearth_sensors (s : State) (h : Nat) (f : Env → Hearth → Hearth) : (onHearth s h f).sensors = s.sensors := putH_sensors _ _ _
@[simp] theorem onHearth_sensorTime (s : State) (h : Nat) (f : Env → Hearth → Hearth) : (onHearth s h f).sensorTime = s.sensorTime := putH_sensorTime _ _ _
@[simp] theorem onHearth_eid (s : State) (h : Nat) (f : Env → Hearth → Hearth) : (onHearth s h f).eid = s.eid := putH_eid _ _ _
@[simp] theorem onHearth_sidebandFailed (s : State) (h : Nat) (f : Env → Hearth → Hearth) : (onHearth s h f).sidebandFailed = s.sidebandFailed := putH_sidebandFailed _ _ _
@[simp] theorem onHearth_sidebandOn (s : State) (h : Nat) (f : Env → Hearth → Hearth) : (onHearth s h f).sidebandOn = s.sidebandOn := putH_sidebandOn _ _ _
@[simp] theorem onHearth_hostPortFailed (s : State) (h : Nat) (f : Env → Hearth → Hearth) : (onHearth s h f).hostPortFailed = s.hostPortFailed := putH_hostPortFailed _ _ _
@[simp] theorem onHearth_standbyOk (s : State) (h : Nat) (f : Env → Hearth → Hearth) : (onHearth s h f).standbyOk = s.standbyOk := putH_standbyOk _ _ _
@[simp] theorem onHearth_pairsFailed (s : State) (h : Nat) (f : Env → Hearth → Hearth) : (onHearth s h f).pairsFailed = s.pairsFailed := putH_pairsFailed _ _ _
@[simp] theorem onHearth_pairBucket (s : State) (h : Nat) (f : Env → Hearth → Hearth) : (onHearth s h f).pairBucket = s.pairBucket := putH_pairBucket _ _ _
@[simp] theorem onHearth_ringsOn (s : State) (h : Nat) (f : Env → Hearth → Hearth) : (onHearth s h f).ringsOn = s.ringsOn := putH_ringsOn _ _ _
@[simp] theorem onHearth_romEngine (s : State) (h : Nat) (f : Env → Hearth → Hearth) : (onHearth s h f).romEngine = s.romEngine := putH_romEngine _ _ _
@[simp] theorem onHearth_activation (s : State) (h : Nat) (f : Env → Hearth → Hearth) : (onHearth s h f).activation = s.activation := putH_activation _ _ _
@[simp] theorem onHearth_saves (s : State) (h : Nat) (f : Env → Hearth → Hearth) : (onHearth s h f).saves = s.saves := putH_saves _ _ _
@[simp] theorem onHearth_cmdCells (s : State) (h : Nat) (f : Env → Hearth → Hearth) : (onHearth s h f).cmdCells = s.cmdCells := putH_cmdCells _ _ _
@[simp] theorem onHearth_linkCells (s : State) (h : Nat) (f : Env → Hearth → Hearth) : (onHearth s h f).linkCells = s.linkCells := putH_linkCells _ _ _
@[simp] theorem onHearth_rsp (s : State) (h : Nat) (f : Env → Hearth → Hearth) : (onHearth s h f).rsp = s.rsp := putH_rsp _ _ _
@[simp] theorem onHearth_memActive (s : State) (h : Nat) (f : Env → Hearth → Hearth) : (onHearth s h f).memActive = s.memActive := putH_memActive _ _ _
@[simp] theorem onHearth_cdat (s : State) (h : Nat) (f : Env → Hearth → Hearth) : (onHearth s h f).cdat = s.cdat := putH_cdat _ _ _

/-- A fold over hearths keeps what each of its operations keeps. -/
theorem onHearths_keeps {α : Type} (g : State → α) (hg : ∀ s h f, g (onHearth s h f) = g s) (s : State) (hs : List Nat)
    (f : Env → Hearth → Hearth) : g (onHearths s hs f) = g s := by
  unfold onHearths
  induction hs generalizing s with
  | nil => rfl
  | cons h t ih => exact (ih _).trans (hg _ _ _)

@[simp] theorem onHearths_pending (s : State) (l : List Nat) (f : Env → Hearth → Hearth) : (onHearths s l f).pending = s.pending :=
  onHearths_keeps (·.pending) onHearth_pending s l f
@[simp] theorem onHearths_fresh (s : State) (l : List Nat) (f : Env → Hearth → Hearth) : (onHearths s l f).fresh = s.fresh :=
  onHearths_keeps (·.fresh) onHearth_fresh s l f
@[simp] theorem onHearths_mod (s : State) (l : List Nat) (f : Env → Hearth → Hearth) : (onHearths s l f).mod = s.mod :=
  onHearths_keeps (·.mod) onHearth_mod s l f
@[simp] theorem onHearths_regs (s : State) (l : List Nat) (f : Env → Hearth → Hearth) : (onHearths s l f).regs = s.regs :=
  onHearths_keeps (·.regs) onHearth_regs s l f
@[simp] theorem onHearths_time (s : State) (l : List Nat) (f : Env → Hearth → Hearth) : (onHearths s l f).time = s.time :=
  onHearths_keeps (·.time) onHearth_time s l f
@[simp] theorem onHearths_fuses (s : State) (l : List Nat) (f : Env → Hearth → Hearth) : (onHearths s l f).fuses = s.fuses :=
  onHearths_keeps (·.fuses) onHearth_fuses s l f
@[simp] theorem onHearths_flash (s : State) (l : List Nat) (f : Env → Hearth → Hearth) : (onHearths s l f).flash = s.flash :=
  onHearths_keeps (·.flash) onHearth_flash s l f
@[simp] theorem onHearths_trust (s : State) (l : List Nat) (f : Env → Hearth → Hearth) : (onHearths s l f).trust = s.trust :=
  onHearths_keeps (·.trust) onHearth_trust s l f
@[simp] theorem onHearths_power (s : State) (l : List Nat) (f : Env → Hearth → Hearth) : (onHearths s l f).power = s.power :=
  onHearths_keeps (·.power) onHearth_power s l f
@[simp] theorem onHearths_role (s : State) (l : List Nat) (f : Env → Hearth → Hearth) : (onHearths s l f).role = s.role :=
  onHearths_keeps (·.role) onHearth_role s l f
@[simp] theorem onHearths_hostMem (s : State) (l : List Nat) (f : Env → Hearth → Hearth) : (onHearths s l f).hostMem = s.hostMem :=
  onHearths_keeps (·.hostMem) onHearth_hostMem s l f
@[simp] theorem onHearths_hostWild (s : State) (l : List Nat) (f : Env → Hearth → Hearth) : (onHearths s l f).hostWild = s.hostWild :=
  onHearths_keeps (·.hostWild) onHearth_hostWild s l f
@[simp] theorem onHearths_started (s : State) (l : List Nat) (f : Env → Hearth → Hearth) : (onHearths s l f).started = s.started :=
  onHearths_keeps (·.started) onHearth_started s l f
@[simp] theorem onHearths_nextCmd (s : State) (l : List Nat) (f : Env → Hearth → Hearth) : (onHearths s l f).nextCmd = s.nextCmd :=
  onHearths_keeps (·.nextCmd) onHearth_nextCmd s l f
@[simp] theorem onHearths_accounts (s : State) (l : List Nat) (f : Env → Hearth → Hearth) : (onHearths s l f).accounts = s.accounts :=
  onHearths_keeps (·.accounts) onHearth_accounts s l f
@[simp] theorem onHearths_order (s : State) (l : List Nat) (f : Env → Hearth → Hearth) : (onHearths s l f).order = s.order :=
  onHearths_keeps (·.order) onHearth_order s l f
@[simp] theorem onHearths_sensors (s : State) (l : List Nat) (f : Env → Hearth → Hearth) : (onHearths s l f).sensors = s.sensors :=
  onHearths_keeps (·.sensors) onHearth_sensors s l f
@[simp] theorem onHearths_sensorTime (s : State) (l : List Nat) (f : Env → Hearth → Hearth) : (onHearths s l f).sensorTime = s.sensorTime :=
  onHearths_keeps (·.sensorTime) onHearth_sensorTime s l f
@[simp] theorem onHearths_eid (s : State) (l : List Nat) (f : Env → Hearth → Hearth) : (onHearths s l f).eid = s.eid :=
  onHearths_keeps (·.eid) onHearth_eid s l f
@[simp] theorem onHearths_sidebandFailed (s : State) (l : List Nat) (f : Env → Hearth → Hearth) : (onHearths s l f).sidebandFailed = s.sidebandFailed :=
  onHearths_keeps (·.sidebandFailed) onHearth_sidebandFailed s l f
@[simp] theorem onHearths_sidebandOn (s : State) (l : List Nat) (f : Env → Hearth → Hearth) : (onHearths s l f).sidebandOn = s.sidebandOn :=
  onHearths_keeps (·.sidebandOn) onHearth_sidebandOn s l f
@[simp] theorem onHearths_hostPortFailed (s : State) (l : List Nat) (f : Env → Hearth → Hearth) : (onHearths s l f).hostPortFailed = s.hostPortFailed :=
  onHearths_keeps (·.hostPortFailed) onHearth_hostPortFailed s l f
@[simp] theorem onHearths_standbyOk (s : State) (l : List Nat) (f : Env → Hearth → Hearth) : (onHearths s l f).standbyOk = s.standbyOk :=
  onHearths_keeps (·.standbyOk) onHearth_standbyOk s l f
@[simp] theorem onHearths_pairsFailed (s : State) (l : List Nat) (f : Env → Hearth → Hearth) : (onHearths s l f).pairsFailed = s.pairsFailed :=
  onHearths_keeps (·.pairsFailed) onHearth_pairsFailed s l f
@[simp] theorem onHearths_pairBucket (s : State) (l : List Nat) (f : Env → Hearth → Hearth) : (onHearths s l f).pairBucket = s.pairBucket :=
  onHearths_keeps (·.pairBucket) onHearth_pairBucket s l f
@[simp] theorem onHearths_ringsOn (s : State) (l : List Nat) (f : Env → Hearth → Hearth) : (onHearths s l f).ringsOn = s.ringsOn :=
  onHearths_keeps (·.ringsOn) onHearth_ringsOn s l f
@[simp] theorem onHearths_romEngine (s : State) (l : List Nat) (f : Env → Hearth → Hearth) : (onHearths s l f).romEngine = s.romEngine :=
  onHearths_keeps (·.romEngine) onHearth_romEngine s l f
@[simp] theorem onHearths_activation (s : State) (l : List Nat) (f : Env → Hearth → Hearth) : (onHearths s l f).activation = s.activation :=
  onHearths_keeps (·.activation) onHearth_activation s l f
@[simp] theorem onHearths_saves (s : State) (l : List Nat) (f : Env → Hearth → Hearth) : (onHearths s l f).saves = s.saves :=
  onHearths_keeps (·.saves) onHearth_saves s l f
@[simp] theorem onHearths_cmdCells (s : State) (l : List Nat) (f : Env → Hearth → Hearth) : (onHearths s l f).cmdCells = s.cmdCells :=
  onHearths_keeps (·.cmdCells) onHearth_cmdCells s l f
@[simp] theorem onHearths_linkCells (s : State) (l : List Nat) (f : Env → Hearth → Hearth) : (onHearths s l f).linkCells = s.linkCells :=
  onHearths_keeps (·.linkCells) onHearth_linkCells s l f
@[simp] theorem onHearths_rsp (s : State) (l : List Nat) (f : Env → Hearth → Hearth) : (onHearths s l f).rsp = s.rsp :=
  onHearths_keeps (·.rsp) onHearth_rsp s l f
@[simp] theorem onHearths_memActive (s : State) (l : List Nat) (f : Env → Hearth → Hearth) : (onHearths s l f).memActive = s.memActive :=
  onHearths_keeps (·.memActive) onHearth_memActive s l f
@[simp] theorem onHearths_cdat (s : State) (l : List Nat) (f : Env → Hearth → Hearth) : (onHearths s l f).cdat = s.cdat :=
  onHearths_keeps (·.cdat) onHearth_cdat s l f

/-- Hearth h reads back what was put there, and the others read as before. -/
theorem hearthOf_putH (s : State) (h g : Nat) (x : Hearth) (hw : smapWf ({} : Hearth) s.hearths = true) (hh : h < 9) :
    hearthOf (putH s h x) g = if g = h then x else hearthOf s g := by
  unfold hearthOf putH; rw [if_pos hh]; exact mget_mput _ _ _ _ _ hw

/-- A number of 9 or more names no hearth. -/
theorem putH_none (s : State) (h : Nat) (x : Hearth) (hh : 9 ≤ h) : putH s h x = s := by
  unfold putH; rw [if_neg (by omega)]

/-- Hearth h after a change. -/
theorem hearthOf_updH (s : State) (h : Nat) (f : Hearth → Hearth) (hw : smapWf ({} : Hearth) s.hearths = true) (hh : h < 9) :
    hearthOf (updH s h f) h = f (hearthOf s h) := by
  unfold updH; rw [hearthOf_putH s h h _ hw hh, if_pos rfl]

/-! ### Registers, started commands and host memory -/

@[simp] theorem putSq_pending (s : State) (n : Nat) (q : SQ) : (putSq s n q).pending = s.pending := rfl
@[simp] theorem putSq_fresh (s : State) (n : Nat) (q : SQ) : (putSq s n q).fresh = s.fresh := rfl
@[simp] theorem putSq_mod (s : State) (n : Nat) (q : SQ) : (putSq s n q).mod = s.mod := rfl
@[simp] theorem putSq_time (s : State) (n : Nat) (q : SQ) : (putSq s n q).time = s.time := rfl
@[simp] theorem putSq_fuses (s : State) (n : Nat) (q : SQ) : (putSq s n q).fuses = s.fuses := rfl
@[simp] theorem putSq_flash (s : State) (n : Nat) (q : SQ) : (putSq s n q).flash = s.flash := rfl
@[simp] theorem putSq_trust (s : State) (n : Nat) (q : SQ) : (putSq s n q).trust = s.trust := rfl
@[simp] theorem putSq_power (s : State) (n : Nat) (q : SQ) : (putSq s n q).power = s.power := rfl
@[simp] theorem putSq_role (s : State) (n : Nat) (q : SQ) : (putSq s n q).role = s.role := rfl
@[simp] theorem putSq_hostMem (s : State) (n : Nat) (q : SQ) : (putSq s n q).hostMem = s.hostMem := rfl
@[simp] theorem putSq_hostWild (s : State) (n : Nat) (q : SQ) : (putSq s n q).hostWild = s.hostWild := rfl
@[simp] theorem putSq_started (s : State) (n : Nat) (q : SQ) : (putSq s n q).started = s.started := rfl
@[simp] theorem putSq_nextCmd (s : State) (n : Nat) (q : SQ) : (putSq s n q).nextCmd = s.nextCmd := rfl
@[simp] theorem putSq_accounts (s : State) (n : Nat) (q : SQ) : (putSq s n q).accounts = s.accounts := rfl
@[simp] theorem putSq_order (s : State) (n : Nat) (q : SQ) : (putSq s n q).order = s.order := rfl
@[simp] theorem putSq_hearths (s : State) (n : Nat) (q : SQ) : (putSq s n q).hearths = s.hearths := rfl
@[simp] theorem putSq_sensors (s : State) (n : Nat) (q : SQ) : (putSq s n q).sensors = s.sensors := rfl
@[simp] theorem putSq_sensorTime (s : State) (n : Nat) (q : SQ) : (putSq s n q).sensorTime = s.sensorTime := rfl
@[simp] theorem putSq_eid (s : State) (n : Nat) (q : SQ) : (putSq s n q).eid = s.eid := rfl
@[simp] theorem putSq_sidebandFailed (s : State) (n : Nat) (q : SQ) : (putSq s n q).sidebandFailed = s.sidebandFailed := rfl
@[simp] theorem putSq_sidebandOn (s : State) (n : Nat) (q : SQ) : (putSq s n q).sidebandOn = s.sidebandOn := rfl
@[simp] theorem putSq_hostPortFailed (s : State) (n : Nat) (q : SQ) : (putSq s n q).hostPortFailed = s.hostPortFailed := rfl
@[simp] theorem putSq_standbyOk (s : State) (n : Nat) (q : SQ) : (putSq s n q).standbyOk = s.standbyOk := rfl
@[simp] theorem putSq_pairsFailed (s : State) (n : Nat) (q : SQ) : (putSq s n q).pairsFailed = s.pairsFailed := rfl
@[simp] theorem putSq_pairBucket (s : State) (n : Nat) (q : SQ) : (putSq s n q).pairBucket = s.pairBucket := rfl
@[simp] theorem putSq_ringsOn (s : State) (n : Nat) (q : SQ) : (putSq s n q).ringsOn = s.ringsOn := rfl
@[simp] theorem putSq_romEngine (s : State) (n : Nat) (q : SQ) : (putSq s n q).romEngine = s.romEngine := rfl
@[simp] theorem putSq_activation (s : State) (n : Nat) (q : SQ) : (putSq s n q).activation = s.activation := rfl
@[simp] theorem putSq_saves (s : State) (n : Nat) (q : SQ) : (putSq s n q).saves = s.saves := rfl
@[simp] theorem putSq_cmdCells (s : State) (n : Nat) (q : SQ) : (putSq s n q).cmdCells = s.cmdCells := rfl
@[simp] theorem putSq_linkCells (s : State) (n : Nat) (q : SQ) : (putSq s n q).linkCells = s.linkCells := rfl
@[simp] theorem putSq_rsp (s : State) (n : Nat) (q : SQ) : (putSq s n q).rsp = s.rsp := rfl
@[simp] theorem putSq_memActive (s : State) (n : Nat) (q : SQ) : (putSq s n q).memActive = s.memActive := rfl
@[simp] theorem putSq_cdat (s : State) (n : Nat) (q : SQ) : (putSq s n q).cdat = s.cdat := rfl

@[simp] theorem putCq_pending (s : State) (n : Nat) (q : CQ) : (putCq s n q).pending = s.pending := rfl
@[simp] theorem putCq_fresh (s : State) (n : Nat) (q : CQ) : (putCq s n q).fresh = s.fresh := rfl
@[simp] theorem putCq_mod (s : State) (n : Nat) (q : CQ) : (putCq s n q).mod = s.mod := rfl
@[simp] theorem putCq_time (s : State) (n : Nat) (q : CQ) : (putCq s n q).time = s.time := rfl
@[simp] theorem putCq_fuses (s : State) (n : Nat) (q : CQ) : (putCq s n q).fuses = s.fuses := rfl
@[simp] theorem putCq_flash (s : State) (n : Nat) (q : CQ) : (putCq s n q).flash = s.flash := rfl
@[simp] theorem putCq_trust (s : State) (n : Nat) (q : CQ) : (putCq s n q).trust = s.trust := rfl
@[simp] theorem putCq_power (s : State) (n : Nat) (q : CQ) : (putCq s n q).power = s.power := rfl
@[simp] theorem putCq_role (s : State) (n : Nat) (q : CQ) : (putCq s n q).role = s.role := rfl
@[simp] theorem putCq_hostMem (s : State) (n : Nat) (q : CQ) : (putCq s n q).hostMem = s.hostMem := rfl
@[simp] theorem putCq_hostWild (s : State) (n : Nat) (q : CQ) : (putCq s n q).hostWild = s.hostWild := rfl
@[simp] theorem putCq_started (s : State) (n : Nat) (q : CQ) : (putCq s n q).started = s.started := rfl
@[simp] theorem putCq_nextCmd (s : State) (n : Nat) (q : CQ) : (putCq s n q).nextCmd = s.nextCmd := rfl
@[simp] theorem putCq_accounts (s : State) (n : Nat) (q : CQ) : (putCq s n q).accounts = s.accounts := rfl
@[simp] theorem putCq_order (s : State) (n : Nat) (q : CQ) : (putCq s n q).order = s.order := rfl
@[simp] theorem putCq_hearths (s : State) (n : Nat) (q : CQ) : (putCq s n q).hearths = s.hearths := rfl
@[simp] theorem putCq_sensors (s : State) (n : Nat) (q : CQ) : (putCq s n q).sensors = s.sensors := rfl
@[simp] theorem putCq_sensorTime (s : State) (n : Nat) (q : CQ) : (putCq s n q).sensorTime = s.sensorTime := rfl
@[simp] theorem putCq_eid (s : State) (n : Nat) (q : CQ) : (putCq s n q).eid = s.eid := rfl
@[simp] theorem putCq_sidebandFailed (s : State) (n : Nat) (q : CQ) : (putCq s n q).sidebandFailed = s.sidebandFailed := rfl
@[simp] theorem putCq_sidebandOn (s : State) (n : Nat) (q : CQ) : (putCq s n q).sidebandOn = s.sidebandOn := rfl
@[simp] theorem putCq_hostPortFailed (s : State) (n : Nat) (q : CQ) : (putCq s n q).hostPortFailed = s.hostPortFailed := rfl
@[simp] theorem putCq_standbyOk (s : State) (n : Nat) (q : CQ) : (putCq s n q).standbyOk = s.standbyOk := rfl
@[simp] theorem putCq_pairsFailed (s : State) (n : Nat) (q : CQ) : (putCq s n q).pairsFailed = s.pairsFailed := rfl
@[simp] theorem putCq_pairBucket (s : State) (n : Nat) (q : CQ) : (putCq s n q).pairBucket = s.pairBucket := rfl
@[simp] theorem putCq_ringsOn (s : State) (n : Nat) (q : CQ) : (putCq s n q).ringsOn = s.ringsOn := rfl
@[simp] theorem putCq_romEngine (s : State) (n : Nat) (q : CQ) : (putCq s n q).romEngine = s.romEngine := rfl
@[simp] theorem putCq_activation (s : State) (n : Nat) (q : CQ) : (putCq s n q).activation = s.activation := rfl
@[simp] theorem putCq_saves (s : State) (n : Nat) (q : CQ) : (putCq s n q).saves = s.saves := rfl
@[simp] theorem putCq_cmdCells (s : State) (n : Nat) (q : CQ) : (putCq s n q).cmdCells = s.cmdCells := rfl
@[simp] theorem putCq_linkCells (s : State) (n : Nat) (q : CQ) : (putCq s n q).linkCells = s.linkCells := rfl
@[simp] theorem putCq_rsp (s : State) (n : Nat) (q : CQ) : (putCq s n q).rsp = s.rsp := rfl
@[simp] theorem putCq_memActive (s : State) (n : Nat) (q : CQ) : (putCq s n q).memActive = s.memActive := rfl
@[simp] theorem putCq_cdat (s : State) (n : Nat) (q : CQ) : (putCq s n q).cdat = s.cdat := rfl

@[simp] theorem dropRecords_pending (s : State) (n : Nat) : (dropRecords s n).pending = s.pending := rfl
@[simp] theorem dropRecords_fresh (s : State) (n : Nat) : (dropRecords s n).fresh = s.fresh := rfl
@[simp] theorem dropRecords_mod (s : State) (n : Nat) : (dropRecords s n).mod = s.mod := rfl
@[simp] theorem dropRecords_time (s : State) (n : Nat) : (dropRecords s n).time = s.time := rfl
@[simp] theorem dropRecords_fuses (s : State) (n : Nat) : (dropRecords s n).fuses = s.fuses := rfl
@[simp] theorem dropRecords_flash (s : State) (n : Nat) : (dropRecords s n).flash = s.flash := rfl
@[simp] theorem dropRecords_trust (s : State) (n : Nat) : (dropRecords s n).trust = s.trust := rfl
@[simp] theorem dropRecords_power (s : State) (n : Nat) : (dropRecords s n).power = s.power := rfl
@[simp] theorem dropRecords_role (s : State) (n : Nat) : (dropRecords s n).role = s.role := rfl
@[simp] theorem dropRecords_hostMem (s : State) (n : Nat) : (dropRecords s n).hostMem = s.hostMem := rfl
@[simp] theorem dropRecords_hostWild (s : State) (n : Nat) : (dropRecords s n).hostWild = s.hostWild := rfl
@[simp] theorem dropRecords_started (s : State) (n : Nat) : (dropRecords s n).started = s.started := rfl
@[simp] theorem dropRecords_nextCmd (s : State) (n : Nat) : (dropRecords s n).nextCmd = s.nextCmd := rfl
@[simp] theorem dropRecords_accounts (s : State) (n : Nat) : (dropRecords s n).accounts = s.accounts := rfl
@[simp] theorem dropRecords_order (s : State) (n : Nat) : (dropRecords s n).order = s.order := rfl
@[simp] theorem dropRecords_hearths (s : State) (n : Nat) : (dropRecords s n).hearths = s.hearths := rfl
@[simp] theorem dropRecords_sensors (s : State) (n : Nat) : (dropRecords s n).sensors = s.sensors := rfl
@[simp] theorem dropRecords_sensorTime (s : State) (n : Nat) : (dropRecords s n).sensorTime = s.sensorTime := rfl
@[simp] theorem dropRecords_eid (s : State) (n : Nat) : (dropRecords s n).eid = s.eid := rfl
@[simp] theorem dropRecords_sidebandFailed (s : State) (n : Nat) : (dropRecords s n).sidebandFailed = s.sidebandFailed := rfl
@[simp] theorem dropRecords_sidebandOn (s : State) (n : Nat) : (dropRecords s n).sidebandOn = s.sidebandOn := rfl
@[simp] theorem dropRecords_hostPortFailed (s : State) (n : Nat) : (dropRecords s n).hostPortFailed = s.hostPortFailed := rfl
@[simp] theorem dropRecords_standbyOk (s : State) (n : Nat) : (dropRecords s n).standbyOk = s.standbyOk := rfl
@[simp] theorem dropRecords_pairsFailed (s : State) (n : Nat) : (dropRecords s n).pairsFailed = s.pairsFailed := rfl
@[simp] theorem dropRecords_pairBucket (s : State) (n : Nat) : (dropRecords s n).pairBucket = s.pairBucket := rfl
@[simp] theorem dropRecords_ringsOn (s : State) (n : Nat) : (dropRecords s n).ringsOn = s.ringsOn := rfl
@[simp] theorem dropRecords_romEngine (s : State) (n : Nat) : (dropRecords s n).romEngine = s.romEngine := rfl
@[simp] theorem dropRecords_activation (s : State) (n : Nat) : (dropRecords s n).activation = s.activation := rfl
@[simp] theorem dropRecords_saves (s : State) (n : Nat) : (dropRecords s n).saves = s.saves := rfl
@[simp] theorem dropRecords_cmdCells (s : State) (n : Nat) : (dropRecords s n).cmdCells = s.cmdCells := rfl
@[simp] theorem dropRecords_linkCells (s : State) (n : Nat) : (dropRecords s n).linkCells = s.linkCells := rfl
@[simp] theorem dropRecords_rsp (s : State) (n : Nat) : (dropRecords s n).rsp = s.rsp := rfl
@[simp] theorem dropRecords_memActive (s : State) (n : Nat) : (dropRecords s n).memActive = s.memActive := rfl
@[simp] theorem dropRecords_cdat (s : State) (n : Nat) : (dropRecords s n).cdat = s.cdat := rfl

@[simp] theorem updStarted_pending (s : State) (id : Nat) (f : Started → Started) : (updStarted s id f).pending = s.pending := rfl
@[simp] theorem updStarted_fresh (s : State) (id : Nat) (f : Started → Started) : (updStarted s id f).fresh = s.fresh := rfl
@[simp] theorem updStarted_mod (s : State) (id : Nat) (f : Started → Started) : (updStarted s id f).mod = s.mod := rfl
@[simp] theorem updStarted_regs (s : State) (id : Nat) (f : Started → Started) : (updStarted s id f).regs = s.regs := rfl
@[simp] theorem updStarted_time (s : State) (id : Nat) (f : Started → Started) : (updStarted s id f).time = s.time := rfl
@[simp] theorem updStarted_fuses (s : State) (id : Nat) (f : Started → Started) : (updStarted s id f).fuses = s.fuses := rfl
@[simp] theorem updStarted_flash (s : State) (id : Nat) (f : Started → Started) : (updStarted s id f).flash = s.flash := rfl
@[simp] theorem updStarted_trust (s : State) (id : Nat) (f : Started → Started) : (updStarted s id f).trust = s.trust := rfl
@[simp] theorem updStarted_power (s : State) (id : Nat) (f : Started → Started) : (updStarted s id f).power = s.power := rfl
@[simp] theorem updStarted_role (s : State) (id : Nat) (f : Started → Started) : (updStarted s id f).role = s.role := rfl
@[simp] theorem updStarted_hostMem (s : State) (id : Nat) (f : Started → Started) : (updStarted s id f).hostMem = s.hostMem := rfl
@[simp] theorem updStarted_hostWild (s : State) (id : Nat) (f : Started → Started) : (updStarted s id f).hostWild = s.hostWild := rfl
@[simp] theorem updStarted_nextCmd (s : State) (id : Nat) (f : Started → Started) : (updStarted s id f).nextCmd = s.nextCmd := rfl
@[simp] theorem updStarted_accounts (s : State) (id : Nat) (f : Started → Started) : (updStarted s id f).accounts = s.accounts := rfl
@[simp] theorem updStarted_order (s : State) (id : Nat) (f : Started → Started) : (updStarted s id f).order = s.order := rfl
@[simp] theorem updStarted_hearths (s : State) (id : Nat) (f : Started → Started) : (updStarted s id f).hearths = s.hearths := rfl
@[simp] theorem updStarted_sensors (s : State) (id : Nat) (f : Started → Started) : (updStarted s id f).sensors = s.sensors := rfl
@[simp] theorem updStarted_sensorTime (s : State) (id : Nat) (f : Started → Started) : (updStarted s id f).sensorTime = s.sensorTime := rfl
@[simp] theorem updStarted_eid (s : State) (id : Nat) (f : Started → Started) : (updStarted s id f).eid = s.eid := rfl
@[simp] theorem updStarted_sidebandFailed (s : State) (id : Nat) (f : Started → Started) : (updStarted s id f).sidebandFailed = s.sidebandFailed := rfl
@[simp] theorem updStarted_sidebandOn (s : State) (id : Nat) (f : Started → Started) : (updStarted s id f).sidebandOn = s.sidebandOn := rfl
@[simp] theorem updStarted_hostPortFailed (s : State) (id : Nat) (f : Started → Started) : (updStarted s id f).hostPortFailed = s.hostPortFailed := rfl
@[simp] theorem updStarted_standbyOk (s : State) (id : Nat) (f : Started → Started) : (updStarted s id f).standbyOk = s.standbyOk := rfl
@[simp] theorem updStarted_pairsFailed (s : State) (id : Nat) (f : Started → Started) : (updStarted s id f).pairsFailed = s.pairsFailed := rfl
@[simp] theorem updStarted_pairBucket (s : State) (id : Nat) (f : Started → Started) : (updStarted s id f).pairBucket = s.pairBucket := rfl
@[simp] theorem updStarted_ringsOn (s : State) (id : Nat) (f : Started → Started) : (updStarted s id f).ringsOn = s.ringsOn := rfl
@[simp] theorem updStarted_romEngine (s : State) (id : Nat) (f : Started → Started) : (updStarted s id f).romEngine = s.romEngine := rfl
@[simp] theorem updStarted_activation (s : State) (id : Nat) (f : Started → Started) : (updStarted s id f).activation = s.activation := rfl
@[simp] theorem updStarted_saves (s : State) (id : Nat) (f : Started → Started) : (updStarted s id f).saves = s.saves := rfl
@[simp] theorem updStarted_cmdCells (s : State) (id : Nat) (f : Started → Started) : (updStarted s id f).cmdCells = s.cmdCells := rfl
@[simp] theorem updStarted_linkCells (s : State) (id : Nat) (f : Started → Started) : (updStarted s id f).linkCells = s.linkCells := rfl
@[simp] theorem updStarted_rsp (s : State) (id : Nat) (f : Started → Started) : (updStarted s id f).rsp = s.rsp := rfl
@[simp] theorem updStarted_memActive (s : State) (id : Nat) (f : Started → Started) : (updStarted s id f).memActive = s.memActive := rfl
@[simp] theorem updStarted_cdat (s : State) (id : Nat) (f : Started → Started) : (updStarted s id f).cdat = s.cdat := rfl

@[simp] theorem setWait_pending (s : State) (id : Nat) (w : Wait) : (setWait s id w).pending = s.pending := rfl
@[simp] theorem setWait_fresh (s : State) (id : Nat) (w : Wait) : (setWait s id w).fresh = s.fresh := rfl
@[simp] theorem setWait_mod (s : State) (id : Nat) (w : Wait) : (setWait s id w).mod = s.mod := rfl
@[simp] theorem setWait_regs (s : State) (id : Nat) (w : Wait) : (setWait s id w).regs = s.regs := rfl
@[simp] theorem setWait_time (s : State) (id : Nat) (w : Wait) : (setWait s id w).time = s.time := rfl
@[simp] theorem setWait_fuses (s : State) (id : Nat) (w : Wait) : (setWait s id w).fuses = s.fuses := rfl
@[simp] theorem setWait_flash (s : State) (id : Nat) (w : Wait) : (setWait s id w).flash = s.flash := rfl
@[simp] theorem setWait_trust (s : State) (id : Nat) (w : Wait) : (setWait s id w).trust = s.trust := rfl
@[simp] theorem setWait_power (s : State) (id : Nat) (w : Wait) : (setWait s id w).power = s.power := rfl
@[simp] theorem setWait_role (s : State) (id : Nat) (w : Wait) : (setWait s id w).role = s.role := rfl
@[simp] theorem setWait_hostMem (s : State) (id : Nat) (w : Wait) : (setWait s id w).hostMem = s.hostMem := rfl
@[simp] theorem setWait_hostWild (s : State) (id : Nat) (w : Wait) : (setWait s id w).hostWild = s.hostWild := rfl
@[simp] theorem setWait_nextCmd (s : State) (id : Nat) (w : Wait) : (setWait s id w).nextCmd = s.nextCmd := rfl
@[simp] theorem setWait_accounts (s : State) (id : Nat) (w : Wait) : (setWait s id w).accounts = s.accounts := rfl
@[simp] theorem setWait_order (s : State) (id : Nat) (w : Wait) : (setWait s id w).order = s.order := rfl
@[simp] theorem setWait_hearths (s : State) (id : Nat) (w : Wait) : (setWait s id w).hearths = s.hearths := rfl
@[simp] theorem setWait_sensors (s : State) (id : Nat) (w : Wait) : (setWait s id w).sensors = s.sensors := rfl
@[simp] theorem setWait_sensorTime (s : State) (id : Nat) (w : Wait) : (setWait s id w).sensorTime = s.sensorTime := rfl
@[simp] theorem setWait_eid (s : State) (id : Nat) (w : Wait) : (setWait s id w).eid = s.eid := rfl
@[simp] theorem setWait_sidebandFailed (s : State) (id : Nat) (w : Wait) : (setWait s id w).sidebandFailed = s.sidebandFailed := rfl
@[simp] theorem setWait_sidebandOn (s : State) (id : Nat) (w : Wait) : (setWait s id w).sidebandOn = s.sidebandOn := rfl
@[simp] theorem setWait_hostPortFailed (s : State) (id : Nat) (w : Wait) : (setWait s id w).hostPortFailed = s.hostPortFailed := rfl
@[simp] theorem setWait_standbyOk (s : State) (id : Nat) (w : Wait) : (setWait s id w).standbyOk = s.standbyOk := rfl
@[simp] theorem setWait_pairsFailed (s : State) (id : Nat) (w : Wait) : (setWait s id w).pairsFailed = s.pairsFailed := rfl
@[simp] theorem setWait_pairBucket (s : State) (id : Nat) (w : Wait) : (setWait s id w).pairBucket = s.pairBucket := rfl
@[simp] theorem setWait_ringsOn (s : State) (id : Nat) (w : Wait) : (setWait s id w).ringsOn = s.ringsOn := rfl
@[simp] theorem setWait_romEngine (s : State) (id : Nat) (w : Wait) : (setWait s id w).romEngine = s.romEngine := rfl
@[simp] theorem setWait_activation (s : State) (id : Nat) (w : Wait) : (setWait s id w).activation = s.activation := rfl
@[simp] theorem setWait_saves (s : State) (id : Nat) (w : Wait) : (setWait s id w).saves = s.saves := rfl
@[simp] theorem setWait_cmdCells (s : State) (id : Nat) (w : Wait) : (setWait s id w).cmdCells = s.cmdCells := rfl
@[simp] theorem setWait_linkCells (s : State) (id : Nat) (w : Wait) : (setWait s id w).linkCells = s.linkCells := rfl
@[simp] theorem setWait_rsp (s : State) (id : Nat) (w : Wait) : (setWait s id w).rsp = s.rsp := rfl
@[simp] theorem setWait_memActive (s : State) (id : Nat) (w : Wait) : (setWait s id w).memActive = s.memActive := rfl
@[simp] theorem setWait_cdat (s : State) (id : Nat) (w : Wait) : (setWait s id w).cdat = s.cdat := rfl

@[simp] theorem dropStarted_pending (s : State) (id : Nat) : (dropStarted s id).pending = s.pending := rfl
@[simp] theorem dropStarted_fresh (s : State) (id : Nat) : (dropStarted s id).fresh = s.fresh := rfl
@[simp] theorem dropStarted_mod (s : State) (id : Nat) : (dropStarted s id).mod = s.mod := rfl
@[simp] theorem dropStarted_regs (s : State) (id : Nat) : (dropStarted s id).regs = s.regs := rfl
@[simp] theorem dropStarted_time (s : State) (id : Nat) : (dropStarted s id).time = s.time := rfl
@[simp] theorem dropStarted_fuses (s : State) (id : Nat) : (dropStarted s id).fuses = s.fuses := rfl
@[simp] theorem dropStarted_flash (s : State) (id : Nat) : (dropStarted s id).flash = s.flash := rfl
@[simp] theorem dropStarted_trust (s : State) (id : Nat) : (dropStarted s id).trust = s.trust := rfl
@[simp] theorem dropStarted_power (s : State) (id : Nat) : (dropStarted s id).power = s.power := rfl
@[simp] theorem dropStarted_role (s : State) (id : Nat) : (dropStarted s id).role = s.role := rfl
@[simp] theorem dropStarted_hostMem (s : State) (id : Nat) : (dropStarted s id).hostMem = s.hostMem := rfl
@[simp] theorem dropStarted_hostWild (s : State) (id : Nat) : (dropStarted s id).hostWild = s.hostWild := rfl
@[simp] theorem dropStarted_nextCmd (s : State) (id : Nat) : (dropStarted s id).nextCmd = s.nextCmd := rfl
@[simp] theorem dropStarted_accounts (s : State) (id : Nat) : (dropStarted s id).accounts = s.accounts := rfl
@[simp] theorem dropStarted_order (s : State) (id : Nat) : (dropStarted s id).order = s.order := rfl
@[simp] theorem dropStarted_hearths (s : State) (id : Nat) : (dropStarted s id).hearths = s.hearths := rfl
@[simp] theorem dropStarted_sensors (s : State) (id : Nat) : (dropStarted s id).sensors = s.sensors := rfl
@[simp] theorem dropStarted_sensorTime (s : State) (id : Nat) : (dropStarted s id).sensorTime = s.sensorTime := rfl
@[simp] theorem dropStarted_eid (s : State) (id : Nat) : (dropStarted s id).eid = s.eid := rfl
@[simp] theorem dropStarted_sidebandFailed (s : State) (id : Nat) : (dropStarted s id).sidebandFailed = s.sidebandFailed := rfl
@[simp] theorem dropStarted_sidebandOn (s : State) (id : Nat) : (dropStarted s id).sidebandOn = s.sidebandOn := rfl
@[simp] theorem dropStarted_hostPortFailed (s : State) (id : Nat) : (dropStarted s id).hostPortFailed = s.hostPortFailed := rfl
@[simp] theorem dropStarted_standbyOk (s : State) (id : Nat) : (dropStarted s id).standbyOk = s.standbyOk := rfl
@[simp] theorem dropStarted_pairsFailed (s : State) (id : Nat) : (dropStarted s id).pairsFailed = s.pairsFailed := rfl
@[simp] theorem dropStarted_pairBucket (s : State) (id : Nat) : (dropStarted s id).pairBucket = s.pairBucket := rfl
@[simp] theorem dropStarted_ringsOn (s : State) (id : Nat) : (dropStarted s id).ringsOn = s.ringsOn := rfl
@[simp] theorem dropStarted_romEngine (s : State) (id : Nat) : (dropStarted s id).romEngine = s.romEngine := rfl
@[simp] theorem dropStarted_activation (s : State) (id : Nat) : (dropStarted s id).activation = s.activation := rfl
@[simp] theorem dropStarted_saves (s : State) (id : Nat) : (dropStarted s id).saves = s.saves := rfl
@[simp] theorem dropStarted_cmdCells (s : State) (id : Nat) : (dropStarted s id).cmdCells = s.cmdCells := rfl
@[simp] theorem dropStarted_linkCells (s : State) (id : Nat) : (dropStarted s id).linkCells = s.linkCells := rfl
@[simp] theorem dropStarted_rsp (s : State) (id : Nat) : (dropStarted s id).rsp = s.rsp := rfl
@[simp] theorem dropStarted_memActive (s : State) (id : Nat) : (dropStarted s id).memActive = s.memActive := rfl
@[simp] theorem dropStarted_cdat (s : State) (id : Nat) : (dropStarted s id).cdat = s.cdat := rfl

@[simp] theorem hostWrite_pending (s : State) (a : Nat) (b : List Byte) : (hostWrite s a b).pending = s.pending := by
  unfold hostWrite; split <;> rfl
@[simp] theorem hostWrite_fresh (s : State) (a : Nat) (b : List Byte) : (hostWrite s a b).fresh = s.fresh := by
  unfold hostWrite; split <;> rfl
@[simp] theorem hostWrite_mod (s : State) (a : Nat) (b : List Byte) : (hostWrite s a b).mod = s.mod := by
  unfold hostWrite; split <;> rfl
@[simp] theorem hostWrite_regs (s : State) (a : Nat) (b : List Byte) : (hostWrite s a b).regs = s.regs := by
  unfold hostWrite; split <;> rfl
@[simp] theorem hostWrite_time (s : State) (a : Nat) (b : List Byte) : (hostWrite s a b).time = s.time := by
  unfold hostWrite; split <;> rfl
@[simp] theorem hostWrite_fuses (s : State) (a : Nat) (b : List Byte) : (hostWrite s a b).fuses = s.fuses := by
  unfold hostWrite; split <;> rfl
@[simp] theorem hostWrite_flash (s : State) (a : Nat) (b : List Byte) : (hostWrite s a b).flash = s.flash := by
  unfold hostWrite; split <;> rfl
@[simp] theorem hostWrite_trust (s : State) (a : Nat) (b : List Byte) : (hostWrite s a b).trust = s.trust := by
  unfold hostWrite; split <;> rfl
@[simp] theorem hostWrite_power (s : State) (a : Nat) (b : List Byte) : (hostWrite s a b).power = s.power := by
  unfold hostWrite; split <;> rfl
@[simp] theorem hostWrite_role (s : State) (a : Nat) (b : List Byte) : (hostWrite s a b).role = s.role := by
  unfold hostWrite; split <;> rfl
@[simp] theorem hostWrite_started (s : State) (a : Nat) (b : List Byte) : (hostWrite s a b).started = s.started := by
  unfold hostWrite; split <;> rfl
@[simp] theorem hostWrite_nextCmd (s : State) (a : Nat) (b : List Byte) : (hostWrite s a b).nextCmd = s.nextCmd := by
  unfold hostWrite; split <;> rfl
@[simp] theorem hostWrite_accounts (s : State) (a : Nat) (b : List Byte) : (hostWrite s a b).accounts = s.accounts := by
  unfold hostWrite; split <;> rfl
@[simp] theorem hostWrite_order (s : State) (a : Nat) (b : List Byte) : (hostWrite s a b).order = s.order := by
  unfold hostWrite; split <;> rfl
@[simp] theorem hostWrite_hearths (s : State) (a : Nat) (b : List Byte) : (hostWrite s a b).hearths = s.hearths := by
  unfold hostWrite; split <;> rfl
@[simp] theorem hostWrite_sensors (s : State) (a : Nat) (b : List Byte) : (hostWrite s a b).sensors = s.sensors := by
  unfold hostWrite; split <;> rfl
@[simp] theorem hostWrite_sensorTime (s : State) (a : Nat) (b : List Byte) : (hostWrite s a b).sensorTime = s.sensorTime := by
  unfold hostWrite; split <;> rfl
@[simp] theorem hostWrite_eid (s : State) (a : Nat) (b : List Byte) : (hostWrite s a b).eid = s.eid := by
  unfold hostWrite; split <;> rfl
@[simp] theorem hostWrite_sidebandFailed (s : State) (a : Nat) (b : List Byte) : (hostWrite s a b).sidebandFailed = s.sidebandFailed := by
  unfold hostWrite; split <;> rfl
@[simp] theorem hostWrite_sidebandOn (s : State) (a : Nat) (b : List Byte) : (hostWrite s a b).sidebandOn = s.sidebandOn := by
  unfold hostWrite; split <;> rfl
@[simp] theorem hostWrite_hostPortFailed (s : State) (a : Nat) (b : List Byte) : (hostWrite s a b).hostPortFailed = s.hostPortFailed := by
  unfold hostWrite; split <;> rfl
@[simp] theorem hostWrite_standbyOk (s : State) (a : Nat) (b : List Byte) : (hostWrite s a b).standbyOk = s.standbyOk := by
  unfold hostWrite; split <;> rfl
@[simp] theorem hostWrite_pairsFailed (s : State) (a : Nat) (b : List Byte) : (hostWrite s a b).pairsFailed = s.pairsFailed := by
  unfold hostWrite; split <;> rfl
@[simp] theorem hostWrite_pairBucket (s : State) (a : Nat) (b : List Byte) : (hostWrite s a b).pairBucket = s.pairBucket := by
  unfold hostWrite; split <;> rfl
@[simp] theorem hostWrite_ringsOn (s : State) (a : Nat) (b : List Byte) : (hostWrite s a b).ringsOn = s.ringsOn := by
  unfold hostWrite; split <;> rfl
@[simp] theorem hostWrite_romEngine (s : State) (a : Nat) (b : List Byte) : (hostWrite s a b).romEngine = s.romEngine := by
  unfold hostWrite; split <;> rfl
@[simp] theorem hostWrite_activation (s : State) (a : Nat) (b : List Byte) : (hostWrite s a b).activation = s.activation := by
  unfold hostWrite; split <;> rfl
@[simp] theorem hostWrite_saves (s : State) (a : Nat) (b : List Byte) : (hostWrite s a b).saves = s.saves := by
  unfold hostWrite; split <;> rfl
@[simp] theorem hostWrite_cmdCells (s : State) (a : Nat) (b : List Byte) : (hostWrite s a b).cmdCells = s.cmdCells := by
  unfold hostWrite; split <;> rfl
@[simp] theorem hostWrite_linkCells (s : State) (a : Nat) (b : List Byte) : (hostWrite s a b).linkCells = s.linkCells := by
  unfold hostWrite; split <;> rfl
@[simp] theorem hostWrite_rsp (s : State) (a : Nat) (b : List Byte) : (hostWrite s a b).rsp = s.rsp := by
  unfold hostWrite; split <;> rfl
@[simp] theorem hostWrite_memActive (s : State) (a : Nat) (b : List Byte) : (hostWrite s a b).memActive = s.memActive := by
  unfold hostWrite; split <;> rfl
@[simp] theorem hostWrite_cdat (s : State) (a : Nat) (b : List Byte) : (hostWrite s a b).cdat = s.cdat := by
  unfold hostWrite; split <;> rfl

/-- What the bytes of host memory read as after a write. -/
theorem hostByte_hostWrite (s : State) (a : Nat) (bs : List Byte) (b : Nat) (hw : Memory.wf s.hostMem = true) :
    hostByte (hostWrite s a bs) b = if a ≤ b ∧ b < a + bs.length then bs.getD (b - a) 0 else hostByte s b := by
  unfold hostWrite
  split
  · subst bs; rw [if_neg (by simp only [List.length_nil]; omega)]
  · unfold hostByte rdByte
    dsimp only
    rw [wildAt_unwild, mget_memPuts _ _ _ _ hw]
    by_cases h : a ≤ b ∧ b < a + bs.length
    · simp only [h, and_self, if_true]
    · simp only [h, if_false]

/-! ### A unit of a hearth -/

/-- The whole frame of putTile: nothing but tiles changes. -/
theorem putTile_frame (x : Hearth) (v : Nat) (t : Tile) : { putTile x v t with tiles := x.tiles } = x := rfl

@[simp] theorem putTile_timeBase (x : Hearth) (v : Nat) (t : Tile) : (putTile x v t).timeBase = x.timeBase := rfl
@[simp] theorem putTile_linkLost (x : Hearth) (v : Nat) (t : Tile) : (putTile x v t).linkLost = x.linkLost := rfl
@[simp] theorem putTile_st (x : Hearth) (v : Nat) (t : Tile) : (putTile x v t).st = x.st := rfl
@[simp] theorem putTile_fw (x : Hearth) (v : Nat) (t : Tile) : (putTile x v t).fw = x.fw := rfl
@[simp] theorem putTile_resets (x : Hearth) (v : Nat) (t : Tile) : (putTile x v t).resets = x.resets := rfl
@[simp] theorem putTile_epochBase (x : Hearth) (v : Nat) (t : Tile) : (putTile x v t).epochBase = x.epochBase := rfl
@[simp] theorem putTile_everReady (x : Hearth) (v : Nat) (t : Tile) : (putTile x v t).everReady = x.everReady := rfl
@[simp] theorem putTile_firstBoot (x : Hearth) (v : Nat) (t : Tile) : (putTile x v t).firstBoot = x.firstBoot := rfl
@[simp] theorem putTile_fromPower (x : Hearth) (v : Nat) (t : Tile) : (putTile x v t).fromPower = x.fromPower := rfl
@[simp] theorem putTile_rail (x : Hearth) (v : Nat) (t : Tile) : (putTile x v t).rail = x.rail := rfl
@[simp] theorem putTile_clkStep (x : Hearth) (v : Nat) (t : Tile) : (putTile x v t).clkStep = x.clkStep := rfl
@[simp] theorem putTile_tokenStep (x : Hearth) (v : Nat) (t : Tile) : (putTile x v t).tokenStep = x.tokenStep := rfl
@[simp] theorem putTile_thermStep (x : Hearth) (v : Nat) (t : Tile) : (putTile x v t).thermStep = x.thermStep := rfl
@[simp] theorem putTile_hottest (x : Hearth) (v : Nat) (t : Tile) : (putTile x v t).hottest = x.hottest := rfl
@[simp] theorem putTile_cooled (x : Hearth) (v : Nat) (t : Tile) : (putTile x v t).cooled = x.cooled := rfl
@[simp] theorem putTile_tokens (x : Hearth) (v : Nat) (t : Tile) : (putTile x v t).tokens = x.tokens := rfl
@[simp] theorem putTile_grant (x : Hearth) (v : Nat) (t : Tile) : (putTile x v t).grant = x.grant := rfl
@[simp] theorem putTile_demand (x : Hearth) (v : Nat) (t : Tile) : (putTile x v t).demand = x.demand := rfl
@[simp] theorem putTile_dies (x : Hearth) (v : Nat) (t : Tile) : (putTile x v t).dies = x.dies := rfl
@[simp] theorem putTile_slicesOut (x : Hearth) (v : Nat) (t : Tile) : (putTile x v t).slicesOut = x.slicesOut := rfl
@[simp] theorem putTile_subsOut (x : Hearth) (v : Nat) (t : Tile) : (putTile x v t).subsOut = x.subsOut := rfl
@[simp] theorem putTile_portsOut (x : Hearth) (v : Nat) (t : Tile) : (putTile x v t).portsOut = x.portsOut := rfl
@[simp] theorem putTile_lanesOut (x : Hearth) (v : Nat) (t : Tile) : (putTile x v t).lanesOut = x.lanesOut := rfl
@[simp] theorem putTile_cnt (x : Hearth) (v : Nat) (t : Tile) : (putTile x v t).cnt = x.cnt := rfl
@[simp] theorem putTile_buckets (x : Hearth) (v : Nat) (t : Tile) : (putTile x v t).buckets = x.buckets := rfl
@[simp] theorem putTile_mem (x : Hearth) (v : Nat) (t : Tile) : (putTile x v t).mem = x.mem := rfl
@[simp] theorem putTile_wild (x : Hearth) (v : Nat) (t : Tile) : (putTile x v t).wild = x.wild := rfl
@[simp] theorem putTile_errs (x : Hearth) (v : Nat) (t : Tile) : (putTile x v t).errs = x.errs := rfl
@[simp] theorem putTile_holeReads (x : Hearth) (v : Nat) (t : Tile) : (putTile x v t).holeReads = x.holeReads := rfl
@[simp] theorem putTile_holeWrites (x : Hearth) (v : Nat) (t : Tile) : (putTile x v t).holeWrites = x.holeWrites := rfl
@[simp] theorem putTile_ctxs (x : Hearth) (v : Nat) (t : Tile) : (putTile x v t).ctxs = x.ctxs := rfl
@[simp] theorem putTile_load (x : Hearth) (v : Nat) (t : Tile) : (putTile x v t).load = x.load := rfl
@[simp] theorem putTile_threads (x : Hearth) (v : Nat) (t : Tile) : (putTile x v t).threads = x.threads := rfl
@[simp] theorem putTile_hsync (x : Hearth) (v : Nat) (t : Tile) : (putTile x v t).hsync = x.hsync := rfl
@[simp] theorem putTile_eps (x : Hearth) (v : Nat) (t : Tile) : (putTile x v t).eps = x.eps := rfl
@[simp] theorem putTile_cal (x : Hearth) (v : Nat) (t : Tile) : (putTile x v t).cal = x.cal := rfl
@[simp] theorem putTile_syncWords (x : Hearth) (v : Nat) (t : Tile) : (putTile x v t).syncWords = x.syncWords := rfl
@[simp] theorem putTile_flights (x : Hearth) (v : Nat) (t : Tile) : (putTile x v t).flights = x.flights := rfl
@[simp] theorem putTile_creditFlights (x : Hearth) (v : Nat) (t : Tile) : (putTile x v t).creditFlights = x.creditFlights := rfl
@[simp] theorem putTile_grants (x : Hearth) (v : Nat) (t : Tile) : (putTile x v t).grants = x.grants := rfl
@[simp] theorem putTile_reqs (x : Hearth) (v : Nat) (t : Tile) : (putTile x v t).reqs = x.reqs := rfl
@[simp] theorem putTile_replies (x : Hearth) (v : Nat) (t : Tile) : (putTile x v t).replies = x.replies := rfl
@[simp] theorem putTile_acks (x : Hearth) (v : Nat) (t : Tile) : (putTile x v t).acks = x.acks := rfl
@[simp] theorem putTile_steps (x : Hearth) (v : Nat) (t : Tile) : (putTile x v t).steps = x.steps := rfl
@[simp] theorem putTile_slotLat (x : Hearth) (v : Nat) (t : Tile) : (putTile x v t).slotLat = x.slotLat := rfl
@[simp] theorem putTile_slotBest (x : Hearth) (v : Nat) (t : Tile) : (putTile x v t).slotBest = x.slotBest := rfl
@[simp] theorem putTile_chargeSum (x : Hearth) (v : Nat) (t : Tile) : (putTile x v t).chargeSum = x.chargeSum := rfl
@[simp] theorem putTile_flushCharge (x : Hearth) (v : Nat) (t : Tile) : (putTile x v t).flushCharge = x.flushCharge := rfl
@[simp] theorem putTile_freezeSum (x : Hearth) (v : Nat) (t : Tile) : (putTile x v t).freezeSum = x.freezeSum := rfl
@[simp] theorem putTile_snap (x : Hearth) (v : Nat) (t : Tile) : (putTile x v t).snap = x.snap := rfl
@[simp] theorem putTile_spill (x : Hearth) (v : Nat) (t : Tile) : (putTile x v t).spill = x.spill := rfl
@[simp] theorem putTile_spilling (x : Hearth) (v : Nat) (t : Tile) : (putTile x v t).spilling = x.spilling := rfl
@[simp] theorem putTile_spillFree (x : Hearth) (v : Nat) (t : Tile) : (putTile x v t).spillFree = x.spillFree := rfl
@[simp] theorem putTile_spillBusy (x : Hearth) (v : Nat) (t : Tile) : (putTile x v t).spillBusy = x.spillBusy := rfl
@[simp] theorem putTile_sampling (x : Hearth) (v : Nat) (t : Tile) : (putTile x v t).sampling = x.sampling := rfl
@[simp] theorem putTile_hist (x : Hearth) (v : Nat) (t : Tile) : (putTile x v t).hist = x.hist := rfl
@[simp] theorem putTile_flags (x : Hearth) (v : Nat) (t : Tile) : (putTile x v t).flags = x.flags := rfl
@[simp] theorem putTile_arb (x : Hearth) (v : Nat) (t : Tile) : (putTile x v t).arb = x.arb := rfl
@[simp] theorem putTile_peers (x : Hearth) (v : Nat) (t : Tile) : (putTile x v t).peers = x.peers := rfl
@[simp] theorem putTile_pool (x : Hearth) (v : Nat) (t : Tile) : (putTile x v t).pool = x.pool := rfl
@[simp] theorem putTile_poolFree (x : Hearth) (v : Nat) (t : Tile) : (putTile x v t).poolFree = x.poolFree := rfl
@[simp] theorem putTile_noPath (x : Hearth) (v : Nat) (t : Tile) : (putTile x v t).noPath = x.noPath := rfl
@[simp] theorem putTile_reorder (x : Hearth) (v : Nat) (t : Tile) : (putTile x v t).reorder = x.reorder := rfl
@[simp] theorem putTile_ports (x : Hearth) (v : Nat) (t : Tile) : (putTile x v t).ports = x.ports := rfl
@[simp] theorem putTile_sent (x : Hearth) (v : Nat) (t : Tile) : (putTile x v t).sent = x.sent := rfl
@[simp] theorem putTile_moduleId (x : Hearth) (v : Nat) (t : Tile) : (putTile x v t).moduleId = x.moduleId := rfl
@[simp] theorem putTile_idValid (x : Hearth) (v : Nat) (t : Tile) : (putTile x v t).idValid = x.idValid := rfl
@[simp] theorem putTile_resend (x : Hearth) (v : Nat) (t : Tile) : (putTile x v t).resend = x.resend := rfl
@[simp] theorem putTile_damperEn (x : Hearth) (v : Nat) (t : Tile) : (putTile x v t).damperEn = x.damperEn := rfl
@[simp] theorem putTile_routeLocal (x : Hearth) (v : Nat) (t : Tile) : (putTile x v t).routeLocal = x.routeLocal := rfl
@[simp] theorem putTile_routeGroup (x : Hearth) (v : Nat) (t : Tile) : (putTile x v t).routeGroup = x.routeGroup := rfl
@[simp] theorem putTile_discards (x : Hearth) (v : Nat) (t : Tile) : (putTile x v t).discards = x.discards := rfl
@[simp] theorem putTile_performed (x : Hearth) (v : Nat) (t : Tile) : (putTile x v t).performed = x.performed := rfl
@[simp] theorem putTile_assembly (x : Hearth) (v : Nat) (t : Tile) : (putTile x v t).assembly = x.assembly := rfl
@[simp] theorem putTile_ash (x : Hearth) (v : Nat) (t : Tile) : (putTile x v t).ash = x.ash := rfl
@[simp] theorem putTile_ashNext (x : Hearth) (v : Nat) (t : Tile) : (putTile x v t).ashNext = x.ashNext := rfl
@[simp] theorem putTile_sigNew (x : Hearth) (v : Nat) (t : Tile) : (putTile x v t).sigNew = x.sigNew := rfl
@[simp] theorem putTile_forwardFrom (x : Hearth) (v : Nat) (t : Tile) : (putTile x v t).forwardFrom = x.forwardFrom := rfl
@[simp] theorem putTile_scrubA (x : Hearth) (v : Nat) (t : Tile) : (putTile x v t).scrubA = x.scrubA := rfl
@[simp] theorem putTile_scrubB (x : Hearth) (v : Nat) (t : Tile) : (putTile x v t).scrubB = x.scrubB := rfl
@[simp] theorem putTile_scrubC (x : Hearth) (v : Nat) (t : Tile) : (putTile x v t).scrubC = x.scrubC := rfl
@[simp] theorem putTile_scrubPos (x : Hearth) (v : Nat) (t : Tile) : (putTile x v t).scrubPos = x.scrubPos := rfl
@[simp] theorem putTile_reshape (x : Hearth) (v : Nat) (t : Tile) : (putTile x v t).reshape = x.reshape := rfl
@[simp] theorem putTile_deferred (x : Hearth) (v : Nat) (t : Tile) : (putTile x v t).deferred = x.deferred := rfl
@[simp] theorem putTile_restoring (x : Hearth) (v : Nat) (t : Tile) : (putTile x v t).restoring = x.restoring := rfl
@[simp] theorem putTile_returning (x : Hearth) (v : Nat) (t : Tile) : (putTile x v t).returning = x.returning := rfl
@[simp] theorem putTile_reportRing (x : Hearth) (v : Nat) (t : Tile) : (putTile x v t).reportRing = x.reportRing := rfl
@[simp] theorem putTile_reportNo (x : Hearth) (v : Nat) (t : Tile) : (putTile x v t).reportNo = x.reportNo := rfl
@[simp] theorem putTile_closedSeen (x : Hearth) (v : Nat) (t : Tile) : (putTile x v t).closedSeen = x.closedSeen := rfl
@[simp] theorem putTile_retiredWhole (x : Hearth) (v : Nat) (t : Tile) : (putTile x v t).retiredWhole = x.retiredWhole := rfl
@[simp] theorem putTile_refreshed (x : Hearth) (v : Nat) (t : Tile) : (putTile x v t).refreshed = x.refreshed := rfl
@[simp] theorem putTile_lastTrain (x : Hearth) (v : Nat) (t : Tile) : (putTile x v t).lastTrain = x.lastTrain := rfl
@[simp] theorem putTile_blocked (x : Hearth) (v : Nat) (t : Tile) : (putTile x v t).blocked = x.blocked := rfl
@[simp] theorem putTile_modulePorts (x : Hearth) (v : Nat) (t : Tile) : (putTile x v t).modulePorts = x.modulePorts := rfl
@[simp] theorem putTile_telemetry (x : Hearth) (v : Nat) (t : Tile) : (putTile x v t).telemetry = x.telemetry := rfl
@[simp] theorem putTile_childTelemetry (x : Hearth) (v : Nat) (t : Tile) : (putTile x v t).childTelemetry = x.childTelemetry := rfl

/-- The whole frame of updThread: nothing but threads changes. -/
theorem updThread_frame (x : Hearth) (u : Nat) (f : Thread → Thread) : { updThread x u f with threads := x.threads } = x := rfl

@[simp] theorem updThread_timeBase (x : Hearth) (u : Nat) (f : Thread → Thread) : (updThread x u f).timeBase = x.timeBase := rfl
@[simp] theorem updThread_linkLost (x : Hearth) (u : Nat) (f : Thread → Thread) : (updThread x u f).linkLost = x.linkLost := rfl
@[simp] theorem updThread_st (x : Hearth) (u : Nat) (f : Thread → Thread) : (updThread x u f).st = x.st := rfl
@[simp] theorem updThread_fw (x : Hearth) (u : Nat) (f : Thread → Thread) : (updThread x u f).fw = x.fw := rfl
@[simp] theorem updThread_resets (x : Hearth) (u : Nat) (f : Thread → Thread) : (updThread x u f).resets = x.resets := rfl
@[simp] theorem updThread_epochBase (x : Hearth) (u : Nat) (f : Thread → Thread) : (updThread x u f).epochBase = x.epochBase := rfl
@[simp] theorem updThread_everReady (x : Hearth) (u : Nat) (f : Thread → Thread) : (updThread x u f).everReady = x.everReady := rfl
@[simp] theorem updThread_firstBoot (x : Hearth) (u : Nat) (f : Thread → Thread) : (updThread x u f).firstBoot = x.firstBoot := rfl
@[simp] theorem updThread_fromPower (x : Hearth) (u : Nat) (f : Thread → Thread) : (updThread x u f).fromPower = x.fromPower := rfl
@[simp] theorem updThread_rail (x : Hearth) (u : Nat) (f : Thread → Thread) : (updThread x u f).rail = x.rail := rfl
@[simp] theorem updThread_clkStep (x : Hearth) (u : Nat) (f : Thread → Thread) : (updThread x u f).clkStep = x.clkStep := rfl
@[simp] theorem updThread_tokenStep (x : Hearth) (u : Nat) (f : Thread → Thread) : (updThread x u f).tokenStep = x.tokenStep := rfl
@[simp] theorem updThread_thermStep (x : Hearth) (u : Nat) (f : Thread → Thread) : (updThread x u f).thermStep = x.thermStep := rfl
@[simp] theorem updThread_hottest (x : Hearth) (u : Nat) (f : Thread → Thread) : (updThread x u f).hottest = x.hottest := rfl
@[simp] theorem updThread_cooled (x : Hearth) (u : Nat) (f : Thread → Thread) : (updThread x u f).cooled = x.cooled := rfl
@[simp] theorem updThread_tokens (x : Hearth) (u : Nat) (f : Thread → Thread) : (updThread x u f).tokens = x.tokens := rfl
@[simp] theorem updThread_grant (x : Hearth) (u : Nat) (f : Thread → Thread) : (updThread x u f).grant = x.grant := rfl
@[simp] theorem updThread_demand (x : Hearth) (u : Nat) (f : Thread → Thread) : (updThread x u f).demand = x.demand := rfl
@[simp] theorem updThread_dies (x : Hearth) (u : Nat) (f : Thread → Thread) : (updThread x u f).dies = x.dies := rfl
@[simp] theorem updThread_slicesOut (x : Hearth) (u : Nat) (f : Thread → Thread) : (updThread x u f).slicesOut = x.slicesOut := rfl
@[simp] theorem updThread_subsOut (x : Hearth) (u : Nat) (f : Thread → Thread) : (updThread x u f).subsOut = x.subsOut := rfl
@[simp] theorem updThread_portsOut (x : Hearth) (u : Nat) (f : Thread → Thread) : (updThread x u f).portsOut = x.portsOut := rfl
@[simp] theorem updThread_lanesOut (x : Hearth) (u : Nat) (f : Thread → Thread) : (updThread x u f).lanesOut = x.lanesOut := rfl
@[simp] theorem updThread_cnt (x : Hearth) (u : Nat) (f : Thread → Thread) : (updThread x u f).cnt = x.cnt := rfl
@[simp] theorem updThread_buckets (x : Hearth) (u : Nat) (f : Thread → Thread) : (updThread x u f).buckets = x.buckets := rfl
@[simp] theorem updThread_mem (x : Hearth) (u : Nat) (f : Thread → Thread) : (updThread x u f).mem = x.mem := rfl
@[simp] theorem updThread_wild (x : Hearth) (u : Nat) (f : Thread → Thread) : (updThread x u f).wild = x.wild := rfl
@[simp] theorem updThread_errs (x : Hearth) (u : Nat) (f : Thread → Thread) : (updThread x u f).errs = x.errs := rfl
@[simp] theorem updThread_holeReads (x : Hearth) (u : Nat) (f : Thread → Thread) : (updThread x u f).holeReads = x.holeReads := rfl
@[simp] theorem updThread_holeWrites (x : Hearth) (u : Nat) (f : Thread → Thread) : (updThread x u f).holeWrites = x.holeWrites := rfl
@[simp] theorem updThread_ctxs (x : Hearth) (u : Nat) (f : Thread → Thread) : (updThread x u f).ctxs = x.ctxs := rfl
@[simp] theorem updThread_load (x : Hearth) (u : Nat) (f : Thread → Thread) : (updThread x u f).load = x.load := rfl
@[simp] theorem updThread_tiles (x : Hearth) (u : Nat) (f : Thread → Thread) : (updThread x u f).tiles = x.tiles := rfl
@[simp] theorem updThread_hsync (x : Hearth) (u : Nat) (f : Thread → Thread) : (updThread x u f).hsync = x.hsync := rfl
@[simp] theorem updThread_eps (x : Hearth) (u : Nat) (f : Thread → Thread) : (updThread x u f).eps = x.eps := rfl
@[simp] theorem updThread_cal (x : Hearth) (u : Nat) (f : Thread → Thread) : (updThread x u f).cal = x.cal := rfl
@[simp] theorem updThread_syncWords (x : Hearth) (u : Nat) (f : Thread → Thread) : (updThread x u f).syncWords = x.syncWords := rfl
@[simp] theorem updThread_flights (x : Hearth) (u : Nat) (f : Thread → Thread) : (updThread x u f).flights = x.flights := rfl
@[simp] theorem updThread_creditFlights (x : Hearth) (u : Nat) (f : Thread → Thread) : (updThread x u f).creditFlights = x.creditFlights := rfl
@[simp] theorem updThread_grants (x : Hearth) (u : Nat) (f : Thread → Thread) : (updThread x u f).grants = x.grants := rfl
@[simp] theorem updThread_reqs (x : Hearth) (u : Nat) (f : Thread → Thread) : (updThread x u f).reqs = x.reqs := rfl
@[simp] theorem updThread_replies (x : Hearth) (u : Nat) (f : Thread → Thread) : (updThread x u f).replies = x.replies := rfl
@[simp] theorem updThread_acks (x : Hearth) (u : Nat) (f : Thread → Thread) : (updThread x u f).acks = x.acks := rfl
@[simp] theorem updThread_steps (x : Hearth) (u : Nat) (f : Thread → Thread) : (updThread x u f).steps = x.steps := rfl
@[simp] theorem updThread_slotLat (x : Hearth) (u : Nat) (f : Thread → Thread) : (updThread x u f).slotLat = x.slotLat := rfl
@[simp] theorem updThread_slotBest (x : Hearth) (u : Nat) (f : Thread → Thread) : (updThread x u f).slotBest = x.slotBest := rfl
@[simp] theorem updThread_chargeSum (x : Hearth) (u : Nat) (f : Thread → Thread) : (updThread x u f).chargeSum = x.chargeSum := rfl
@[simp] theorem updThread_flushCharge (x : Hearth) (u : Nat) (f : Thread → Thread) : (updThread x u f).flushCharge = x.flushCharge := rfl
@[simp] theorem updThread_freezeSum (x : Hearth) (u : Nat) (f : Thread → Thread) : (updThread x u f).freezeSum = x.freezeSum := rfl
@[simp] theorem updThread_snap (x : Hearth) (u : Nat) (f : Thread → Thread) : (updThread x u f).snap = x.snap := rfl
@[simp] theorem updThread_spill (x : Hearth) (u : Nat) (f : Thread → Thread) : (updThread x u f).spill = x.spill := rfl
@[simp] theorem updThread_spilling (x : Hearth) (u : Nat) (f : Thread → Thread) : (updThread x u f).spilling = x.spilling := rfl
@[simp] theorem updThread_spillFree (x : Hearth) (u : Nat) (f : Thread → Thread) : (updThread x u f).spillFree = x.spillFree := rfl
@[simp] theorem updThread_spillBusy (x : Hearth) (u : Nat) (f : Thread → Thread) : (updThread x u f).spillBusy = x.spillBusy := rfl
@[simp] theorem updThread_sampling (x : Hearth) (u : Nat) (f : Thread → Thread) : (updThread x u f).sampling = x.sampling := rfl
@[simp] theorem updThread_hist (x : Hearth) (u : Nat) (f : Thread → Thread) : (updThread x u f).hist = x.hist := rfl
@[simp] theorem updThread_flags (x : Hearth) (u : Nat) (f : Thread → Thread) : (updThread x u f).flags = x.flags := rfl
@[simp] theorem updThread_arb (x : Hearth) (u : Nat) (f : Thread → Thread) : (updThread x u f).arb = x.arb := rfl
@[simp] theorem updThread_peers (x : Hearth) (u : Nat) (f : Thread → Thread) : (updThread x u f).peers = x.peers := rfl
@[simp] theorem updThread_pool (x : Hearth) (u : Nat) (f : Thread → Thread) : (updThread x u f).pool = x.pool := rfl
@[simp] theorem updThread_poolFree (x : Hearth) (u : Nat) (f : Thread → Thread) : (updThread x u f).poolFree = x.poolFree := rfl
@[simp] theorem updThread_noPath (x : Hearth) (u : Nat) (f : Thread → Thread) : (updThread x u f).noPath = x.noPath := rfl
@[simp] theorem updThread_reorder (x : Hearth) (u : Nat) (f : Thread → Thread) : (updThread x u f).reorder = x.reorder := rfl
@[simp] theorem updThread_ports (x : Hearth) (u : Nat) (f : Thread → Thread) : (updThread x u f).ports = x.ports := rfl
@[simp] theorem updThread_sent (x : Hearth) (u : Nat) (f : Thread → Thread) : (updThread x u f).sent = x.sent := rfl
@[simp] theorem updThread_moduleId (x : Hearth) (u : Nat) (f : Thread → Thread) : (updThread x u f).moduleId = x.moduleId := rfl
@[simp] theorem updThread_idValid (x : Hearth) (u : Nat) (f : Thread → Thread) : (updThread x u f).idValid = x.idValid := rfl
@[simp] theorem updThread_resend (x : Hearth) (u : Nat) (f : Thread → Thread) : (updThread x u f).resend = x.resend := rfl
@[simp] theorem updThread_damperEn (x : Hearth) (u : Nat) (f : Thread → Thread) : (updThread x u f).damperEn = x.damperEn := rfl
@[simp] theorem updThread_routeLocal (x : Hearth) (u : Nat) (f : Thread → Thread) : (updThread x u f).routeLocal = x.routeLocal := rfl
@[simp] theorem updThread_routeGroup (x : Hearth) (u : Nat) (f : Thread → Thread) : (updThread x u f).routeGroup = x.routeGroup := rfl
@[simp] theorem updThread_discards (x : Hearth) (u : Nat) (f : Thread → Thread) : (updThread x u f).discards = x.discards := rfl
@[simp] theorem updThread_performed (x : Hearth) (u : Nat) (f : Thread → Thread) : (updThread x u f).performed = x.performed := rfl
@[simp] theorem updThread_assembly (x : Hearth) (u : Nat) (f : Thread → Thread) : (updThread x u f).assembly = x.assembly := rfl
@[simp] theorem updThread_ash (x : Hearth) (u : Nat) (f : Thread → Thread) : (updThread x u f).ash = x.ash := rfl
@[simp] theorem updThread_ashNext (x : Hearth) (u : Nat) (f : Thread → Thread) : (updThread x u f).ashNext = x.ashNext := rfl
@[simp] theorem updThread_sigNew (x : Hearth) (u : Nat) (f : Thread → Thread) : (updThread x u f).sigNew = x.sigNew := rfl
@[simp] theorem updThread_forwardFrom (x : Hearth) (u : Nat) (f : Thread → Thread) : (updThread x u f).forwardFrom = x.forwardFrom := rfl
@[simp] theorem updThread_scrubA (x : Hearth) (u : Nat) (f : Thread → Thread) : (updThread x u f).scrubA = x.scrubA := rfl
@[simp] theorem updThread_scrubB (x : Hearth) (u : Nat) (f : Thread → Thread) : (updThread x u f).scrubB = x.scrubB := rfl
@[simp] theorem updThread_scrubC (x : Hearth) (u : Nat) (f : Thread → Thread) : (updThread x u f).scrubC = x.scrubC := rfl
@[simp] theorem updThread_scrubPos (x : Hearth) (u : Nat) (f : Thread → Thread) : (updThread x u f).scrubPos = x.scrubPos := rfl
@[simp] theorem updThread_reshape (x : Hearth) (u : Nat) (f : Thread → Thread) : (updThread x u f).reshape = x.reshape := rfl
@[simp] theorem updThread_deferred (x : Hearth) (u : Nat) (f : Thread → Thread) : (updThread x u f).deferred = x.deferred := rfl
@[simp] theorem updThread_restoring (x : Hearth) (u : Nat) (f : Thread → Thread) : (updThread x u f).restoring = x.restoring := rfl
@[simp] theorem updThread_returning (x : Hearth) (u : Nat) (f : Thread → Thread) : (updThread x u f).returning = x.returning := rfl
@[simp] theorem updThread_reportRing (x : Hearth) (u : Nat) (f : Thread → Thread) : (updThread x u f).reportRing = x.reportRing := rfl
@[simp] theorem updThread_reportNo (x : Hearth) (u : Nat) (f : Thread → Thread) : (updThread x u f).reportNo = x.reportNo := rfl
@[simp] theorem updThread_closedSeen (x : Hearth) (u : Nat) (f : Thread → Thread) : (updThread x u f).closedSeen = x.closedSeen := rfl
@[simp] theorem updThread_retiredWhole (x : Hearth) (u : Nat) (f : Thread → Thread) : (updThread x u f).retiredWhole = x.retiredWhole := rfl
@[simp] theorem updThread_refreshed (x : Hearth) (u : Nat) (f : Thread → Thread) : (updThread x u f).refreshed = x.refreshed := rfl
@[simp] theorem updThread_lastTrain (x : Hearth) (u : Nat) (f : Thread → Thread) : (updThread x u f).lastTrain = x.lastTrain := rfl
@[simp] theorem updThread_blocked (x : Hearth) (u : Nat) (f : Thread → Thread) : (updThread x u f).blocked = x.blocked := rfl
@[simp] theorem updThread_modulePorts (x : Hearth) (u : Nat) (f : Thread → Thread) : (updThread x u f).modulePorts = x.modulePorts := rfl
@[simp] theorem updThread_telemetry (x : Hearth) (u : Nat) (f : Thread → Thread) : (updThread x u f).telemetry = x.telemetry := rfl
@[simp] theorem updThread_childTelemetry (x : Hearth) (u : Nat) (f : Thread → Thread) : (updThread x u f).childTelemetry = x.childTelemetry := rfl

/-- The whole frame of updEp: nothing but eps changes. -/
theorem updEp_frame (x : Hearth) (k : Nat) (f : EpLive → EpLive) : { updEp x k f with eps := x.eps } = x := rfl

@[simp] theorem updEp_timeBase (x : Hearth) (k : Nat) (f : EpLive → EpLive) : (updEp x k f).timeBase = x.timeBase := rfl
@[simp] theorem updEp_linkLost (x : Hearth) (k : Nat) (f : EpLive → EpLive) : (updEp x k f).linkLost = x.linkLost := rfl
@[simp] theorem updEp_st (x : Hearth) (k : Nat) (f : EpLive → EpLive) : (updEp x k f).st = x.st := rfl
@[simp] theorem updEp_fw (x : Hearth) (k : Nat) (f : EpLive → EpLive) : (updEp x k f).fw = x.fw := rfl
@[simp] theorem updEp_resets (x : Hearth) (k : Nat) (f : EpLive → EpLive) : (updEp x k f).resets = x.resets := rfl
@[simp] theorem updEp_epochBase (x : Hearth) (k : Nat) (f : EpLive → EpLive) : (updEp x k f).epochBase = x.epochBase := rfl
@[simp] theorem updEp_everReady (x : Hearth) (k : Nat) (f : EpLive → EpLive) : (updEp x k f).everReady = x.everReady := rfl
@[simp] theorem updEp_firstBoot (x : Hearth) (k : Nat) (f : EpLive → EpLive) : (updEp x k f).firstBoot = x.firstBoot := rfl
@[simp] theorem updEp_fromPower (x : Hearth) (k : Nat) (f : EpLive → EpLive) : (updEp x k f).fromPower = x.fromPower := rfl
@[simp] theorem updEp_rail (x : Hearth) (k : Nat) (f : EpLive → EpLive) : (updEp x k f).rail = x.rail := rfl
@[simp] theorem updEp_clkStep (x : Hearth) (k : Nat) (f : EpLive → EpLive) : (updEp x k f).clkStep = x.clkStep := rfl
@[simp] theorem updEp_tokenStep (x : Hearth) (k : Nat) (f : EpLive → EpLive) : (updEp x k f).tokenStep = x.tokenStep := rfl
@[simp] theorem updEp_thermStep (x : Hearth) (k : Nat) (f : EpLive → EpLive) : (updEp x k f).thermStep = x.thermStep := rfl
@[simp] theorem updEp_hottest (x : Hearth) (k : Nat) (f : EpLive → EpLive) : (updEp x k f).hottest = x.hottest := rfl
@[simp] theorem updEp_cooled (x : Hearth) (k : Nat) (f : EpLive → EpLive) : (updEp x k f).cooled = x.cooled := rfl
@[simp] theorem updEp_tokens (x : Hearth) (k : Nat) (f : EpLive → EpLive) : (updEp x k f).tokens = x.tokens := rfl
@[simp] theorem updEp_grant (x : Hearth) (k : Nat) (f : EpLive → EpLive) : (updEp x k f).grant = x.grant := rfl
@[simp] theorem updEp_demand (x : Hearth) (k : Nat) (f : EpLive → EpLive) : (updEp x k f).demand = x.demand := rfl
@[simp] theorem updEp_dies (x : Hearth) (k : Nat) (f : EpLive → EpLive) : (updEp x k f).dies = x.dies := rfl
@[simp] theorem updEp_slicesOut (x : Hearth) (k : Nat) (f : EpLive → EpLive) : (updEp x k f).slicesOut = x.slicesOut := rfl
@[simp] theorem updEp_subsOut (x : Hearth) (k : Nat) (f : EpLive → EpLive) : (updEp x k f).subsOut = x.subsOut := rfl
@[simp] theorem updEp_portsOut (x : Hearth) (k : Nat) (f : EpLive → EpLive) : (updEp x k f).portsOut = x.portsOut := rfl
@[simp] theorem updEp_lanesOut (x : Hearth) (k : Nat) (f : EpLive → EpLive) : (updEp x k f).lanesOut = x.lanesOut := rfl
@[simp] theorem updEp_cnt (x : Hearth) (k : Nat) (f : EpLive → EpLive) : (updEp x k f).cnt = x.cnt := rfl
@[simp] theorem updEp_buckets (x : Hearth) (k : Nat) (f : EpLive → EpLive) : (updEp x k f).buckets = x.buckets := rfl
@[simp] theorem updEp_mem (x : Hearth) (k : Nat) (f : EpLive → EpLive) : (updEp x k f).mem = x.mem := rfl
@[simp] theorem updEp_wild (x : Hearth) (k : Nat) (f : EpLive → EpLive) : (updEp x k f).wild = x.wild := rfl
@[simp] theorem updEp_errs (x : Hearth) (k : Nat) (f : EpLive → EpLive) : (updEp x k f).errs = x.errs := rfl
@[simp] theorem updEp_holeReads (x : Hearth) (k : Nat) (f : EpLive → EpLive) : (updEp x k f).holeReads = x.holeReads := rfl
@[simp] theorem updEp_holeWrites (x : Hearth) (k : Nat) (f : EpLive → EpLive) : (updEp x k f).holeWrites = x.holeWrites := rfl
@[simp] theorem updEp_ctxs (x : Hearth) (k : Nat) (f : EpLive → EpLive) : (updEp x k f).ctxs = x.ctxs := rfl
@[simp] theorem updEp_load (x : Hearth) (k : Nat) (f : EpLive → EpLive) : (updEp x k f).load = x.load := rfl
@[simp] theorem updEp_tiles (x : Hearth) (k : Nat) (f : EpLive → EpLive) : (updEp x k f).tiles = x.tiles := rfl
@[simp] theorem updEp_threads (x : Hearth) (k : Nat) (f : EpLive → EpLive) : (updEp x k f).threads = x.threads := rfl
@[simp] theorem updEp_hsync (x : Hearth) (k : Nat) (f : EpLive → EpLive) : (updEp x k f).hsync = x.hsync := rfl
@[simp] theorem updEp_cal (x : Hearth) (k : Nat) (f : EpLive → EpLive) : (updEp x k f).cal = x.cal := rfl
@[simp] theorem updEp_syncWords (x : Hearth) (k : Nat) (f : EpLive → EpLive) : (updEp x k f).syncWords = x.syncWords := rfl
@[simp] theorem updEp_flights (x : Hearth) (k : Nat) (f : EpLive → EpLive) : (updEp x k f).flights = x.flights := rfl
@[simp] theorem updEp_creditFlights (x : Hearth) (k : Nat) (f : EpLive → EpLive) : (updEp x k f).creditFlights = x.creditFlights := rfl
@[simp] theorem updEp_grants (x : Hearth) (k : Nat) (f : EpLive → EpLive) : (updEp x k f).grants = x.grants := rfl
@[simp] theorem updEp_reqs (x : Hearth) (k : Nat) (f : EpLive → EpLive) : (updEp x k f).reqs = x.reqs := rfl
@[simp] theorem updEp_replies (x : Hearth) (k : Nat) (f : EpLive → EpLive) : (updEp x k f).replies = x.replies := rfl
@[simp] theorem updEp_acks (x : Hearth) (k : Nat) (f : EpLive → EpLive) : (updEp x k f).acks = x.acks := rfl
@[simp] theorem updEp_steps (x : Hearth) (k : Nat) (f : EpLive → EpLive) : (updEp x k f).steps = x.steps := rfl
@[simp] theorem updEp_slotLat (x : Hearth) (k : Nat) (f : EpLive → EpLive) : (updEp x k f).slotLat = x.slotLat := rfl
@[simp] theorem updEp_slotBest (x : Hearth) (k : Nat) (f : EpLive → EpLive) : (updEp x k f).slotBest = x.slotBest := rfl
@[simp] theorem updEp_chargeSum (x : Hearth) (k : Nat) (f : EpLive → EpLive) : (updEp x k f).chargeSum = x.chargeSum := rfl
@[simp] theorem updEp_flushCharge (x : Hearth) (k : Nat) (f : EpLive → EpLive) : (updEp x k f).flushCharge = x.flushCharge := rfl
@[simp] theorem updEp_freezeSum (x : Hearth) (k : Nat) (f : EpLive → EpLive) : (updEp x k f).freezeSum = x.freezeSum := rfl
@[simp] theorem updEp_snap (x : Hearth) (k : Nat) (f : EpLive → EpLive) : (updEp x k f).snap = x.snap := rfl
@[simp] theorem updEp_spill (x : Hearth) (k : Nat) (f : EpLive → EpLive) : (updEp x k f).spill = x.spill := rfl
@[simp] theorem updEp_spilling (x : Hearth) (k : Nat) (f : EpLive → EpLive) : (updEp x k f).spilling = x.spilling := rfl
@[simp] theorem updEp_spillFree (x : Hearth) (k : Nat) (f : EpLive → EpLive) : (updEp x k f).spillFree = x.spillFree := rfl
@[simp] theorem updEp_spillBusy (x : Hearth) (k : Nat) (f : EpLive → EpLive) : (updEp x k f).spillBusy = x.spillBusy := rfl
@[simp] theorem updEp_sampling (x : Hearth) (k : Nat) (f : EpLive → EpLive) : (updEp x k f).sampling = x.sampling := rfl
@[simp] theorem updEp_hist (x : Hearth) (k : Nat) (f : EpLive → EpLive) : (updEp x k f).hist = x.hist := rfl
@[simp] theorem updEp_flags (x : Hearth) (k : Nat) (f : EpLive → EpLive) : (updEp x k f).flags = x.flags := rfl
@[simp] theorem updEp_arb (x : Hearth) (k : Nat) (f : EpLive → EpLive) : (updEp x k f).arb = x.arb := rfl
@[simp] theorem updEp_peers (x : Hearth) (k : Nat) (f : EpLive → EpLive) : (updEp x k f).peers = x.peers := rfl
@[simp] theorem updEp_pool (x : Hearth) (k : Nat) (f : EpLive → EpLive) : (updEp x k f).pool = x.pool := rfl
@[simp] theorem updEp_poolFree (x : Hearth) (k : Nat) (f : EpLive → EpLive) : (updEp x k f).poolFree = x.poolFree := rfl
@[simp] theorem updEp_noPath (x : Hearth) (k : Nat) (f : EpLive → EpLive) : (updEp x k f).noPath = x.noPath := rfl
@[simp] theorem updEp_reorder (x : Hearth) (k : Nat) (f : EpLive → EpLive) : (updEp x k f).reorder = x.reorder := rfl
@[simp] theorem updEp_ports (x : Hearth) (k : Nat) (f : EpLive → EpLive) : (updEp x k f).ports = x.ports := rfl
@[simp] theorem updEp_sent (x : Hearth) (k : Nat) (f : EpLive → EpLive) : (updEp x k f).sent = x.sent := rfl
@[simp] theorem updEp_moduleId (x : Hearth) (k : Nat) (f : EpLive → EpLive) : (updEp x k f).moduleId = x.moduleId := rfl
@[simp] theorem updEp_idValid (x : Hearth) (k : Nat) (f : EpLive → EpLive) : (updEp x k f).idValid = x.idValid := rfl
@[simp] theorem updEp_resend (x : Hearth) (k : Nat) (f : EpLive → EpLive) : (updEp x k f).resend = x.resend := rfl
@[simp] theorem updEp_damperEn (x : Hearth) (k : Nat) (f : EpLive → EpLive) : (updEp x k f).damperEn = x.damperEn := rfl
@[simp] theorem updEp_routeLocal (x : Hearth) (k : Nat) (f : EpLive → EpLive) : (updEp x k f).routeLocal = x.routeLocal := rfl
@[simp] theorem updEp_routeGroup (x : Hearth) (k : Nat) (f : EpLive → EpLive) : (updEp x k f).routeGroup = x.routeGroup := rfl
@[simp] theorem updEp_discards (x : Hearth) (k : Nat) (f : EpLive → EpLive) : (updEp x k f).discards = x.discards := rfl
@[simp] theorem updEp_performed (x : Hearth) (k : Nat) (f : EpLive → EpLive) : (updEp x k f).performed = x.performed := rfl
@[simp] theorem updEp_assembly (x : Hearth) (k : Nat) (f : EpLive → EpLive) : (updEp x k f).assembly = x.assembly := rfl
@[simp] theorem updEp_ash (x : Hearth) (k : Nat) (f : EpLive → EpLive) : (updEp x k f).ash = x.ash := rfl
@[simp] theorem updEp_ashNext (x : Hearth) (k : Nat) (f : EpLive → EpLive) : (updEp x k f).ashNext = x.ashNext := rfl
@[simp] theorem updEp_sigNew (x : Hearth) (k : Nat) (f : EpLive → EpLive) : (updEp x k f).sigNew = x.sigNew := rfl
@[simp] theorem updEp_forwardFrom (x : Hearth) (k : Nat) (f : EpLive → EpLive) : (updEp x k f).forwardFrom = x.forwardFrom := rfl
@[simp] theorem updEp_scrubA (x : Hearth) (k : Nat) (f : EpLive → EpLive) : (updEp x k f).scrubA = x.scrubA := rfl
@[simp] theorem updEp_scrubB (x : Hearth) (k : Nat) (f : EpLive → EpLive) : (updEp x k f).scrubB = x.scrubB := rfl
@[simp] theorem updEp_scrubC (x : Hearth) (k : Nat) (f : EpLive → EpLive) : (updEp x k f).scrubC = x.scrubC := rfl
@[simp] theorem updEp_scrubPos (x : Hearth) (k : Nat) (f : EpLive → EpLive) : (updEp x k f).scrubPos = x.scrubPos := rfl
@[simp] theorem updEp_reshape (x : Hearth) (k : Nat) (f : EpLive → EpLive) : (updEp x k f).reshape = x.reshape := rfl
@[simp] theorem updEp_deferred (x : Hearth) (k : Nat) (f : EpLive → EpLive) : (updEp x k f).deferred = x.deferred := rfl
@[simp] theorem updEp_restoring (x : Hearth) (k : Nat) (f : EpLive → EpLive) : (updEp x k f).restoring = x.restoring := rfl
@[simp] theorem updEp_returning (x : Hearth) (k : Nat) (f : EpLive → EpLive) : (updEp x k f).returning = x.returning := rfl
@[simp] theorem updEp_reportRing (x : Hearth) (k : Nat) (f : EpLive → EpLive) : (updEp x k f).reportRing = x.reportRing := rfl
@[simp] theorem updEp_reportNo (x : Hearth) (k : Nat) (f : EpLive → EpLive) : (updEp x k f).reportNo = x.reportNo := rfl
@[simp] theorem updEp_closedSeen (x : Hearth) (k : Nat) (f : EpLive → EpLive) : (updEp x k f).closedSeen = x.closedSeen := rfl
@[simp] theorem updEp_retiredWhole (x : Hearth) (k : Nat) (f : EpLive → EpLive) : (updEp x k f).retiredWhole = x.retiredWhole := rfl
@[simp] theorem updEp_refreshed (x : Hearth) (k : Nat) (f : EpLive → EpLive) : (updEp x k f).refreshed = x.refreshed := rfl
@[simp] theorem updEp_lastTrain (x : Hearth) (k : Nat) (f : EpLive → EpLive) : (updEp x k f).lastTrain = x.lastTrain := rfl
@[simp] theorem updEp_blocked (x : Hearth) (k : Nat) (f : EpLive → EpLive) : (updEp x k f).blocked = x.blocked := rfl
@[simp] theorem updEp_modulePorts (x : Hearth) (k : Nat) (f : EpLive → EpLive) : (updEp x k f).modulePorts = x.modulePorts := rfl
@[simp] theorem updEp_telemetry (x : Hearth) (k : Nat) (f : EpLive → EpLive) : (updEp x k f).telemetry = x.telemetry := rfl
@[simp] theorem updEp_childTelemetry (x : Hearth) (k : Nat) (f : EpLive → EpLive) : (updEp x k f).childTelemetry = x.childTelemetry := rfl

/-- The whole frame of putPort: nothing but ports changes. -/
theorem putPort_frame (x : Hearth) (t : Nat) (p : FPort) : { putPort x t p with ports := x.ports } = x := rfl

@[simp] theorem putPort_timeBase (x : Hearth) (t : Nat) (p : FPort) : (putPort x t p).timeBase = x.timeBase := rfl
@[simp] theorem putPort_linkLost (x : Hearth) (t : Nat) (p : FPort) : (putPort x t p).linkLost = x.linkLost := rfl
@[simp] theorem putPort_st (x : Hearth) (t : Nat) (p : FPort) : (putPort x t p).st = x.st := rfl
@[simp] theorem putPort_fw (x : Hearth) (t : Nat) (p : FPort) : (putPort x t p).fw = x.fw := rfl
@[simp] theorem putPort_resets (x : Hearth) (t : Nat) (p : FPort) : (putPort x t p).resets = x.resets := rfl
@[simp] theorem putPort_epochBase (x : Hearth) (t : Nat) (p : FPort) : (putPort x t p).epochBase = x.epochBase := rfl
@[simp] theorem putPort_everReady (x : Hearth) (t : Nat) (p : FPort) : (putPort x t p).everReady = x.everReady := rfl
@[simp] theorem putPort_firstBoot (x : Hearth) (t : Nat) (p : FPort) : (putPort x t p).firstBoot = x.firstBoot := rfl
@[simp] theorem putPort_fromPower (x : Hearth) (t : Nat) (p : FPort) : (putPort x t p).fromPower = x.fromPower := rfl
@[simp] theorem putPort_rail (x : Hearth) (t : Nat) (p : FPort) : (putPort x t p).rail = x.rail := rfl
@[simp] theorem putPort_clkStep (x : Hearth) (t : Nat) (p : FPort) : (putPort x t p).clkStep = x.clkStep := rfl
@[simp] theorem putPort_tokenStep (x : Hearth) (t : Nat) (p : FPort) : (putPort x t p).tokenStep = x.tokenStep := rfl
@[simp] theorem putPort_thermStep (x : Hearth) (t : Nat) (p : FPort) : (putPort x t p).thermStep = x.thermStep := rfl
@[simp] theorem putPort_hottest (x : Hearth) (t : Nat) (p : FPort) : (putPort x t p).hottest = x.hottest := rfl
@[simp] theorem putPort_cooled (x : Hearth) (t : Nat) (p : FPort) : (putPort x t p).cooled = x.cooled := rfl
@[simp] theorem putPort_tokens (x : Hearth) (t : Nat) (p : FPort) : (putPort x t p).tokens = x.tokens := rfl
@[simp] theorem putPort_grant (x : Hearth) (t : Nat) (p : FPort) : (putPort x t p).grant = x.grant := rfl
@[simp] theorem putPort_demand (x : Hearth) (t : Nat) (p : FPort) : (putPort x t p).demand = x.demand := rfl
@[simp] theorem putPort_dies (x : Hearth) (t : Nat) (p : FPort) : (putPort x t p).dies = x.dies := rfl
@[simp] theorem putPort_slicesOut (x : Hearth) (t : Nat) (p : FPort) : (putPort x t p).slicesOut = x.slicesOut := rfl
@[simp] theorem putPort_subsOut (x : Hearth) (t : Nat) (p : FPort) : (putPort x t p).subsOut = x.subsOut := rfl
@[simp] theorem putPort_portsOut (x : Hearth) (t : Nat) (p : FPort) : (putPort x t p).portsOut = x.portsOut := rfl
@[simp] theorem putPort_lanesOut (x : Hearth) (t : Nat) (p : FPort) : (putPort x t p).lanesOut = x.lanesOut := rfl
@[simp] theorem putPort_cnt (x : Hearth) (t : Nat) (p : FPort) : (putPort x t p).cnt = x.cnt := rfl
@[simp] theorem putPort_buckets (x : Hearth) (t : Nat) (p : FPort) : (putPort x t p).buckets = x.buckets := rfl
@[simp] theorem putPort_mem (x : Hearth) (t : Nat) (p : FPort) : (putPort x t p).mem = x.mem := rfl
@[simp] theorem putPort_wild (x : Hearth) (t : Nat) (p : FPort) : (putPort x t p).wild = x.wild := rfl
@[simp] theorem putPort_errs (x : Hearth) (t : Nat) (p : FPort) : (putPort x t p).errs = x.errs := rfl
@[simp] theorem putPort_holeReads (x : Hearth) (t : Nat) (p : FPort) : (putPort x t p).holeReads = x.holeReads := rfl
@[simp] theorem putPort_holeWrites (x : Hearth) (t : Nat) (p : FPort) : (putPort x t p).holeWrites = x.holeWrites := rfl
@[simp] theorem putPort_ctxs (x : Hearth) (t : Nat) (p : FPort) : (putPort x t p).ctxs = x.ctxs := rfl
@[simp] theorem putPort_load (x : Hearth) (t : Nat) (p : FPort) : (putPort x t p).load = x.load := rfl
@[simp] theorem putPort_tiles (x : Hearth) (t : Nat) (p : FPort) : (putPort x t p).tiles = x.tiles := rfl
@[simp] theorem putPort_threads (x : Hearth) (t : Nat) (p : FPort) : (putPort x t p).threads = x.threads := rfl
@[simp] theorem putPort_hsync (x : Hearth) (t : Nat) (p : FPort) : (putPort x t p).hsync = x.hsync := rfl
@[simp] theorem putPort_eps (x : Hearth) (t : Nat) (p : FPort) : (putPort x t p).eps = x.eps := rfl
@[simp] theorem putPort_cal (x : Hearth) (t : Nat) (p : FPort) : (putPort x t p).cal = x.cal := rfl
@[simp] theorem putPort_syncWords (x : Hearth) (t : Nat) (p : FPort) : (putPort x t p).syncWords = x.syncWords := rfl
@[simp] theorem putPort_flights (x : Hearth) (t : Nat) (p : FPort) : (putPort x t p).flights = x.flights := rfl
@[simp] theorem putPort_creditFlights (x : Hearth) (t : Nat) (p : FPort) : (putPort x t p).creditFlights = x.creditFlights := rfl
@[simp] theorem putPort_grants (x : Hearth) (t : Nat) (p : FPort) : (putPort x t p).grants = x.grants := rfl
@[simp] theorem putPort_reqs (x : Hearth) (t : Nat) (p : FPort) : (putPort x t p).reqs = x.reqs := rfl
@[simp] theorem putPort_replies (x : Hearth) (t : Nat) (p : FPort) : (putPort x t p).replies = x.replies := rfl
@[simp] theorem putPort_acks (x : Hearth) (t : Nat) (p : FPort) : (putPort x t p).acks = x.acks := rfl
@[simp] theorem putPort_steps (x : Hearth) (t : Nat) (p : FPort) : (putPort x t p).steps = x.steps := rfl
@[simp] theorem putPort_slotLat (x : Hearth) (t : Nat) (p : FPort) : (putPort x t p).slotLat = x.slotLat := rfl
@[simp] theorem putPort_slotBest (x : Hearth) (t : Nat) (p : FPort) : (putPort x t p).slotBest = x.slotBest := rfl
@[simp] theorem putPort_chargeSum (x : Hearth) (t : Nat) (p : FPort) : (putPort x t p).chargeSum = x.chargeSum := rfl
@[simp] theorem putPort_flushCharge (x : Hearth) (t : Nat) (p : FPort) : (putPort x t p).flushCharge = x.flushCharge := rfl
@[simp] theorem putPort_freezeSum (x : Hearth) (t : Nat) (p : FPort) : (putPort x t p).freezeSum = x.freezeSum := rfl
@[simp] theorem putPort_snap (x : Hearth) (t : Nat) (p : FPort) : (putPort x t p).snap = x.snap := rfl
@[simp] theorem putPort_spill (x : Hearth) (t : Nat) (p : FPort) : (putPort x t p).spill = x.spill := rfl
@[simp] theorem putPort_spilling (x : Hearth) (t : Nat) (p : FPort) : (putPort x t p).spilling = x.spilling := rfl
@[simp] theorem putPort_spillFree (x : Hearth) (t : Nat) (p : FPort) : (putPort x t p).spillFree = x.spillFree := rfl
@[simp] theorem putPort_spillBusy (x : Hearth) (t : Nat) (p : FPort) : (putPort x t p).spillBusy = x.spillBusy := rfl
@[simp] theorem putPort_sampling (x : Hearth) (t : Nat) (p : FPort) : (putPort x t p).sampling = x.sampling := rfl
@[simp] theorem putPort_hist (x : Hearth) (t : Nat) (p : FPort) : (putPort x t p).hist = x.hist := rfl
@[simp] theorem putPort_flags (x : Hearth) (t : Nat) (p : FPort) : (putPort x t p).flags = x.flags := rfl
@[simp] theorem putPort_arb (x : Hearth) (t : Nat) (p : FPort) : (putPort x t p).arb = x.arb := rfl
@[simp] theorem putPort_peers (x : Hearth) (t : Nat) (p : FPort) : (putPort x t p).peers = x.peers := rfl
@[simp] theorem putPort_pool (x : Hearth) (t : Nat) (p : FPort) : (putPort x t p).pool = x.pool := rfl
@[simp] theorem putPort_poolFree (x : Hearth) (t : Nat) (p : FPort) : (putPort x t p).poolFree = x.poolFree := rfl
@[simp] theorem putPort_noPath (x : Hearth) (t : Nat) (p : FPort) : (putPort x t p).noPath = x.noPath := rfl
@[simp] theorem putPort_reorder (x : Hearth) (t : Nat) (p : FPort) : (putPort x t p).reorder = x.reorder := rfl
@[simp] theorem putPort_sent (x : Hearth) (t : Nat) (p : FPort) : (putPort x t p).sent = x.sent := rfl
@[simp] theorem putPort_moduleId (x : Hearth) (t : Nat) (p : FPort) : (putPort x t p).moduleId = x.moduleId := rfl
@[simp] theorem putPort_idValid (x : Hearth) (t : Nat) (p : FPort) : (putPort x t p).idValid = x.idValid := rfl
@[simp] theorem putPort_resend (x : Hearth) (t : Nat) (p : FPort) : (putPort x t p).resend = x.resend := rfl
@[simp] theorem putPort_damperEn (x : Hearth) (t : Nat) (p : FPort) : (putPort x t p).damperEn = x.damperEn := rfl
@[simp] theorem putPort_routeLocal (x : Hearth) (t : Nat) (p : FPort) : (putPort x t p).routeLocal = x.routeLocal := rfl
@[simp] theorem putPort_routeGroup (x : Hearth) (t : Nat) (p : FPort) : (putPort x t p).routeGroup = x.routeGroup := rfl
@[simp] theorem putPort_discards (x : Hearth) (t : Nat) (p : FPort) : (putPort x t p).discards = x.discards := rfl
@[simp] theorem putPort_performed (x : Hearth) (t : Nat) (p : FPort) : (putPort x t p).performed = x.performed := rfl
@[simp] theorem putPort_assembly (x : Hearth) (t : Nat) (p : FPort) : (putPort x t p).assembly = x.assembly := rfl
@[simp] theorem putPort_ash (x : Hearth) (t : Nat) (p : FPort) : (putPort x t p).ash = x.ash := rfl
@[simp] theorem putPort_ashNext (x : Hearth) (t : Nat) (p : FPort) : (putPort x t p).ashNext = x.ashNext := rfl
@[simp] theorem putPort_sigNew (x : Hearth) (t : Nat) (p : FPort) : (putPort x t p).sigNew = x.sigNew := rfl
@[simp] theorem putPort_forwardFrom (x : Hearth) (t : Nat) (p : FPort) : (putPort x t p).forwardFrom = x.forwardFrom := rfl
@[simp] theorem putPort_scrubA (x : Hearth) (t : Nat) (p : FPort) : (putPort x t p).scrubA = x.scrubA := rfl
@[simp] theorem putPort_scrubB (x : Hearth) (t : Nat) (p : FPort) : (putPort x t p).scrubB = x.scrubB := rfl
@[simp] theorem putPort_scrubC (x : Hearth) (t : Nat) (p : FPort) : (putPort x t p).scrubC = x.scrubC := rfl
@[simp] theorem putPort_scrubPos (x : Hearth) (t : Nat) (p : FPort) : (putPort x t p).scrubPos = x.scrubPos := rfl
@[simp] theorem putPort_reshape (x : Hearth) (t : Nat) (p : FPort) : (putPort x t p).reshape = x.reshape := rfl
@[simp] theorem putPort_deferred (x : Hearth) (t : Nat) (p : FPort) : (putPort x t p).deferred = x.deferred := rfl
@[simp] theorem putPort_restoring (x : Hearth) (t : Nat) (p : FPort) : (putPort x t p).restoring = x.restoring := rfl
@[simp] theorem putPort_returning (x : Hearth) (t : Nat) (p : FPort) : (putPort x t p).returning = x.returning := rfl
@[simp] theorem putPort_reportRing (x : Hearth) (t : Nat) (p : FPort) : (putPort x t p).reportRing = x.reportRing := rfl
@[simp] theorem putPort_reportNo (x : Hearth) (t : Nat) (p : FPort) : (putPort x t p).reportNo = x.reportNo := rfl
@[simp] theorem putPort_closedSeen (x : Hearth) (t : Nat) (p : FPort) : (putPort x t p).closedSeen = x.closedSeen := rfl
@[simp] theorem putPort_retiredWhole (x : Hearth) (t : Nat) (p : FPort) : (putPort x t p).retiredWhole = x.retiredWhole := rfl
@[simp] theorem putPort_refreshed (x : Hearth) (t : Nat) (p : FPort) : (putPort x t p).refreshed = x.refreshed := rfl
@[simp] theorem putPort_lastTrain (x : Hearth) (t : Nat) (p : FPort) : (putPort x t p).lastTrain = x.lastTrain := rfl
@[simp] theorem putPort_blocked (x : Hearth) (t : Nat) (p : FPort) : (putPort x t p).blocked = x.blocked := rfl
@[simp] theorem putPort_modulePorts (x : Hearth) (t : Nat) (p : FPort) : (putPort x t p).modulePorts = x.modulePorts := rfl
@[simp] theorem putPort_telemetry (x : Hearth) (t : Nat) (p : FPort) : (putPort x t p).telemetry = x.telemetry := rfl
@[simp] theorem putPort_childTelemetry (x : Hearth) (t : Nat) (p : FPort) : (putPort x t p).childTelemetry = x.childTelemetry := rfl

/-- The whole frame of putPeer: nothing but peers changes. -/
theorem putPeer_frame (x : Hearth) (i : Nat) (p : PeerCtx) : { putPeer x i p with peers := x.peers } = x := rfl

@[simp] theorem putPeer_timeBase (x : Hearth) (i : Nat) (p : PeerCtx) : (putPeer x i p).timeBase = x.timeBase := rfl
@[simp] theorem putPeer_linkLost (x : Hearth) (i : Nat) (p : PeerCtx) : (putPeer x i p).linkLost = x.linkLost := rfl
@[simp] theorem putPeer_st (x : Hearth) (i : Nat) (p : PeerCtx) : (putPeer x i p).st = x.st := rfl
@[simp] theorem putPeer_fw (x : Hearth) (i : Nat) (p : PeerCtx) : (putPeer x i p).fw = x.fw := rfl
@[simp] theorem putPeer_resets (x : Hearth) (i : Nat) (p : PeerCtx) : (putPeer x i p).resets = x.resets := rfl
@[simp] theorem putPeer_epochBase (x : Hearth) (i : Nat) (p : PeerCtx) : (putPeer x i p).epochBase = x.epochBase := rfl
@[simp] theorem putPeer_everReady (x : Hearth) (i : Nat) (p : PeerCtx) : (putPeer x i p).everReady = x.everReady := rfl
@[simp] theorem putPeer_firstBoot (x : Hearth) (i : Nat) (p : PeerCtx) : (putPeer x i p).firstBoot = x.firstBoot := rfl
@[simp] theorem putPeer_fromPower (x : Hearth) (i : Nat) (p : PeerCtx) : (putPeer x i p).fromPower = x.fromPower := rfl
@[simp] theorem putPeer_rail (x : Hearth) (i : Nat) (p : PeerCtx) : (putPeer x i p).rail = x.rail := rfl
@[simp] theorem putPeer_clkStep (x : Hearth) (i : Nat) (p : PeerCtx) : (putPeer x i p).clkStep = x.clkStep := rfl
@[simp] theorem putPeer_tokenStep (x : Hearth) (i : Nat) (p : PeerCtx) : (putPeer x i p).tokenStep = x.tokenStep := rfl
@[simp] theorem putPeer_thermStep (x : Hearth) (i : Nat) (p : PeerCtx) : (putPeer x i p).thermStep = x.thermStep := rfl
@[simp] theorem putPeer_hottest (x : Hearth) (i : Nat) (p : PeerCtx) : (putPeer x i p).hottest = x.hottest := rfl
@[simp] theorem putPeer_cooled (x : Hearth) (i : Nat) (p : PeerCtx) : (putPeer x i p).cooled = x.cooled := rfl
@[simp] theorem putPeer_tokens (x : Hearth) (i : Nat) (p : PeerCtx) : (putPeer x i p).tokens = x.tokens := rfl
@[simp] theorem putPeer_grant (x : Hearth) (i : Nat) (p : PeerCtx) : (putPeer x i p).grant = x.grant := rfl
@[simp] theorem putPeer_demand (x : Hearth) (i : Nat) (p : PeerCtx) : (putPeer x i p).demand = x.demand := rfl
@[simp] theorem putPeer_dies (x : Hearth) (i : Nat) (p : PeerCtx) : (putPeer x i p).dies = x.dies := rfl
@[simp] theorem putPeer_slicesOut (x : Hearth) (i : Nat) (p : PeerCtx) : (putPeer x i p).slicesOut = x.slicesOut := rfl
@[simp] theorem putPeer_subsOut (x : Hearth) (i : Nat) (p : PeerCtx) : (putPeer x i p).subsOut = x.subsOut := rfl
@[simp] theorem putPeer_portsOut (x : Hearth) (i : Nat) (p : PeerCtx) : (putPeer x i p).portsOut = x.portsOut := rfl
@[simp] theorem putPeer_lanesOut (x : Hearth) (i : Nat) (p : PeerCtx) : (putPeer x i p).lanesOut = x.lanesOut := rfl
@[simp] theorem putPeer_cnt (x : Hearth) (i : Nat) (p : PeerCtx) : (putPeer x i p).cnt = x.cnt := rfl
@[simp] theorem putPeer_buckets (x : Hearth) (i : Nat) (p : PeerCtx) : (putPeer x i p).buckets = x.buckets := rfl
@[simp] theorem putPeer_mem (x : Hearth) (i : Nat) (p : PeerCtx) : (putPeer x i p).mem = x.mem := rfl
@[simp] theorem putPeer_wild (x : Hearth) (i : Nat) (p : PeerCtx) : (putPeer x i p).wild = x.wild := rfl
@[simp] theorem putPeer_errs (x : Hearth) (i : Nat) (p : PeerCtx) : (putPeer x i p).errs = x.errs := rfl
@[simp] theorem putPeer_holeReads (x : Hearth) (i : Nat) (p : PeerCtx) : (putPeer x i p).holeReads = x.holeReads := rfl
@[simp] theorem putPeer_holeWrites (x : Hearth) (i : Nat) (p : PeerCtx) : (putPeer x i p).holeWrites = x.holeWrites := rfl
@[simp] theorem putPeer_ctxs (x : Hearth) (i : Nat) (p : PeerCtx) : (putPeer x i p).ctxs = x.ctxs := rfl
@[simp] theorem putPeer_load (x : Hearth) (i : Nat) (p : PeerCtx) : (putPeer x i p).load = x.load := rfl
@[simp] theorem putPeer_tiles (x : Hearth) (i : Nat) (p : PeerCtx) : (putPeer x i p).tiles = x.tiles := rfl
@[simp] theorem putPeer_threads (x : Hearth) (i : Nat) (p : PeerCtx) : (putPeer x i p).threads = x.threads := rfl
@[simp] theorem putPeer_hsync (x : Hearth) (i : Nat) (p : PeerCtx) : (putPeer x i p).hsync = x.hsync := rfl
@[simp] theorem putPeer_eps (x : Hearth) (i : Nat) (p : PeerCtx) : (putPeer x i p).eps = x.eps := rfl
@[simp] theorem putPeer_cal (x : Hearth) (i : Nat) (p : PeerCtx) : (putPeer x i p).cal = x.cal := rfl
@[simp] theorem putPeer_syncWords (x : Hearth) (i : Nat) (p : PeerCtx) : (putPeer x i p).syncWords = x.syncWords := rfl
@[simp] theorem putPeer_flights (x : Hearth) (i : Nat) (p : PeerCtx) : (putPeer x i p).flights = x.flights := rfl
@[simp] theorem putPeer_creditFlights (x : Hearth) (i : Nat) (p : PeerCtx) : (putPeer x i p).creditFlights = x.creditFlights := rfl
@[simp] theorem putPeer_grants (x : Hearth) (i : Nat) (p : PeerCtx) : (putPeer x i p).grants = x.grants := rfl
@[simp] theorem putPeer_reqs (x : Hearth) (i : Nat) (p : PeerCtx) : (putPeer x i p).reqs = x.reqs := rfl
@[simp] theorem putPeer_replies (x : Hearth) (i : Nat) (p : PeerCtx) : (putPeer x i p).replies = x.replies := rfl
@[simp] theorem putPeer_acks (x : Hearth) (i : Nat) (p : PeerCtx) : (putPeer x i p).acks = x.acks := rfl
@[simp] theorem putPeer_steps (x : Hearth) (i : Nat) (p : PeerCtx) : (putPeer x i p).steps = x.steps := rfl
@[simp] theorem putPeer_slotLat (x : Hearth) (i : Nat) (p : PeerCtx) : (putPeer x i p).slotLat = x.slotLat := rfl
@[simp] theorem putPeer_slotBest (x : Hearth) (i : Nat) (p : PeerCtx) : (putPeer x i p).slotBest = x.slotBest := rfl
@[simp] theorem putPeer_chargeSum (x : Hearth) (i : Nat) (p : PeerCtx) : (putPeer x i p).chargeSum = x.chargeSum := rfl
@[simp] theorem putPeer_flushCharge (x : Hearth) (i : Nat) (p : PeerCtx) : (putPeer x i p).flushCharge = x.flushCharge := rfl
@[simp] theorem putPeer_freezeSum (x : Hearth) (i : Nat) (p : PeerCtx) : (putPeer x i p).freezeSum = x.freezeSum := rfl
@[simp] theorem putPeer_snap (x : Hearth) (i : Nat) (p : PeerCtx) : (putPeer x i p).snap = x.snap := rfl
@[simp] theorem putPeer_spill (x : Hearth) (i : Nat) (p : PeerCtx) : (putPeer x i p).spill = x.spill := rfl
@[simp] theorem putPeer_spilling (x : Hearth) (i : Nat) (p : PeerCtx) : (putPeer x i p).spilling = x.spilling := rfl
@[simp] theorem putPeer_spillFree (x : Hearth) (i : Nat) (p : PeerCtx) : (putPeer x i p).spillFree = x.spillFree := rfl
@[simp] theorem putPeer_spillBusy (x : Hearth) (i : Nat) (p : PeerCtx) : (putPeer x i p).spillBusy = x.spillBusy := rfl
@[simp] theorem putPeer_sampling (x : Hearth) (i : Nat) (p : PeerCtx) : (putPeer x i p).sampling = x.sampling := rfl
@[simp] theorem putPeer_hist (x : Hearth) (i : Nat) (p : PeerCtx) : (putPeer x i p).hist = x.hist := rfl
@[simp] theorem putPeer_flags (x : Hearth) (i : Nat) (p : PeerCtx) : (putPeer x i p).flags = x.flags := rfl
@[simp] theorem putPeer_arb (x : Hearth) (i : Nat) (p : PeerCtx) : (putPeer x i p).arb = x.arb := rfl
@[simp] theorem putPeer_pool (x : Hearth) (i : Nat) (p : PeerCtx) : (putPeer x i p).pool = x.pool := rfl
@[simp] theorem putPeer_poolFree (x : Hearth) (i : Nat) (p : PeerCtx) : (putPeer x i p).poolFree = x.poolFree := rfl
@[simp] theorem putPeer_noPath (x : Hearth) (i : Nat) (p : PeerCtx) : (putPeer x i p).noPath = x.noPath := rfl
@[simp] theorem putPeer_reorder (x : Hearth) (i : Nat) (p : PeerCtx) : (putPeer x i p).reorder = x.reorder := rfl
@[simp] theorem putPeer_ports (x : Hearth) (i : Nat) (p : PeerCtx) : (putPeer x i p).ports = x.ports := rfl
@[simp] theorem putPeer_sent (x : Hearth) (i : Nat) (p : PeerCtx) : (putPeer x i p).sent = x.sent := rfl
@[simp] theorem putPeer_moduleId (x : Hearth) (i : Nat) (p : PeerCtx) : (putPeer x i p).moduleId = x.moduleId := rfl
@[simp] theorem putPeer_idValid (x : Hearth) (i : Nat) (p : PeerCtx) : (putPeer x i p).idValid = x.idValid := rfl
@[simp] theorem putPeer_resend (x : Hearth) (i : Nat) (p : PeerCtx) : (putPeer x i p).resend = x.resend := rfl
@[simp] theorem putPeer_damperEn (x : Hearth) (i : Nat) (p : PeerCtx) : (putPeer x i p).damperEn = x.damperEn := rfl
@[simp] theorem putPeer_routeLocal (x : Hearth) (i : Nat) (p : PeerCtx) : (putPeer x i p).routeLocal = x.routeLocal := rfl
@[simp] theorem putPeer_routeGroup (x : Hearth) (i : Nat) (p : PeerCtx) : (putPeer x i p).routeGroup = x.routeGroup := rfl
@[simp] theorem putPeer_discards (x : Hearth) (i : Nat) (p : PeerCtx) : (putPeer x i p).discards = x.discards := rfl
@[simp] theorem putPeer_performed (x : Hearth) (i : Nat) (p : PeerCtx) : (putPeer x i p).performed = x.performed := rfl
@[simp] theorem putPeer_assembly (x : Hearth) (i : Nat) (p : PeerCtx) : (putPeer x i p).assembly = x.assembly := rfl
@[simp] theorem putPeer_ash (x : Hearth) (i : Nat) (p : PeerCtx) : (putPeer x i p).ash = x.ash := rfl
@[simp] theorem putPeer_ashNext (x : Hearth) (i : Nat) (p : PeerCtx) : (putPeer x i p).ashNext = x.ashNext := rfl
@[simp] theorem putPeer_sigNew (x : Hearth) (i : Nat) (p : PeerCtx) : (putPeer x i p).sigNew = x.sigNew := rfl
@[simp] theorem putPeer_forwardFrom (x : Hearth) (i : Nat) (p : PeerCtx) : (putPeer x i p).forwardFrom = x.forwardFrom := rfl
@[simp] theorem putPeer_scrubA (x : Hearth) (i : Nat) (p : PeerCtx) : (putPeer x i p).scrubA = x.scrubA := rfl
@[simp] theorem putPeer_scrubB (x : Hearth) (i : Nat) (p : PeerCtx) : (putPeer x i p).scrubB = x.scrubB := rfl
@[simp] theorem putPeer_scrubC (x : Hearth) (i : Nat) (p : PeerCtx) : (putPeer x i p).scrubC = x.scrubC := rfl
@[simp] theorem putPeer_scrubPos (x : Hearth) (i : Nat) (p : PeerCtx) : (putPeer x i p).scrubPos = x.scrubPos := rfl
@[simp] theorem putPeer_reshape (x : Hearth) (i : Nat) (p : PeerCtx) : (putPeer x i p).reshape = x.reshape := rfl
@[simp] theorem putPeer_deferred (x : Hearth) (i : Nat) (p : PeerCtx) : (putPeer x i p).deferred = x.deferred := rfl
@[simp] theorem putPeer_restoring (x : Hearth) (i : Nat) (p : PeerCtx) : (putPeer x i p).restoring = x.restoring := rfl
@[simp] theorem putPeer_returning (x : Hearth) (i : Nat) (p : PeerCtx) : (putPeer x i p).returning = x.returning := rfl
@[simp] theorem putPeer_reportRing (x : Hearth) (i : Nat) (p : PeerCtx) : (putPeer x i p).reportRing = x.reportRing := rfl
@[simp] theorem putPeer_reportNo (x : Hearth) (i : Nat) (p : PeerCtx) : (putPeer x i p).reportNo = x.reportNo := rfl
@[simp] theorem putPeer_closedSeen (x : Hearth) (i : Nat) (p : PeerCtx) : (putPeer x i p).closedSeen = x.closedSeen := rfl
@[simp] theorem putPeer_retiredWhole (x : Hearth) (i : Nat) (p : PeerCtx) : (putPeer x i p).retiredWhole = x.retiredWhole := rfl
@[simp] theorem putPeer_refreshed (x : Hearth) (i : Nat) (p : PeerCtx) : (putPeer x i p).refreshed = x.refreshed := rfl
@[simp] theorem putPeer_lastTrain (x : Hearth) (i : Nat) (p : PeerCtx) : (putPeer x i p).lastTrain = x.lastTrain := rfl
@[simp] theorem putPeer_blocked (x : Hearth) (i : Nat) (p : PeerCtx) : (putPeer x i p).blocked = x.blocked := rfl
@[simp] theorem putPeer_modulePorts (x : Hearth) (i : Nat) (p : PeerCtx) : (putPeer x i p).modulePorts = x.modulePorts := rfl
@[simp] theorem putPeer_telemetry (x : Hearth) (i : Nat) (p : PeerCtx) : (putPeer x i p).telemetry = x.telemetry := rfl
@[simp] theorem putPeer_childTelemetry (x : Hearth) (i : Nat) (p : PeerCtx) : (putPeer x i p).childTelemetry = x.childTelemetry := rfl

/-- The whole frame of updStep: nothing but steps changes. -/
theorem updStep_frame (x : Hearth) (i : Nat) (f : Step → Step) : { updStep x i f with steps := x.steps } = x := rfl

@[simp] theorem updStep_timeBase (x : Hearth) (i : Nat) (f : Step → Step) : (updStep x i f).timeBase = x.timeBase := rfl
@[simp] theorem updStep_linkLost (x : Hearth) (i : Nat) (f : Step → Step) : (updStep x i f).linkLost = x.linkLost := rfl
@[simp] theorem updStep_st (x : Hearth) (i : Nat) (f : Step → Step) : (updStep x i f).st = x.st := rfl
@[simp] theorem updStep_fw (x : Hearth) (i : Nat) (f : Step → Step) : (updStep x i f).fw = x.fw := rfl
@[simp] theorem updStep_resets (x : Hearth) (i : Nat) (f : Step → Step) : (updStep x i f).resets = x.resets := rfl
@[simp] theorem updStep_epochBase (x : Hearth) (i : Nat) (f : Step → Step) : (updStep x i f).epochBase = x.epochBase := rfl
@[simp] theorem updStep_everReady (x : Hearth) (i : Nat) (f : Step → Step) : (updStep x i f).everReady = x.everReady := rfl
@[simp] theorem updStep_firstBoot (x : Hearth) (i : Nat) (f : Step → Step) : (updStep x i f).firstBoot = x.firstBoot := rfl
@[simp] theorem updStep_fromPower (x : Hearth) (i : Nat) (f : Step → Step) : (updStep x i f).fromPower = x.fromPower := rfl
@[simp] theorem updStep_rail (x : Hearth) (i : Nat) (f : Step → Step) : (updStep x i f).rail = x.rail := rfl
@[simp] theorem updStep_clkStep (x : Hearth) (i : Nat) (f : Step → Step) : (updStep x i f).clkStep = x.clkStep := rfl
@[simp] theorem updStep_tokenStep (x : Hearth) (i : Nat) (f : Step → Step) : (updStep x i f).tokenStep = x.tokenStep := rfl
@[simp] theorem updStep_thermStep (x : Hearth) (i : Nat) (f : Step → Step) : (updStep x i f).thermStep = x.thermStep := rfl
@[simp] theorem updStep_hottest (x : Hearth) (i : Nat) (f : Step → Step) : (updStep x i f).hottest = x.hottest := rfl
@[simp] theorem updStep_cooled (x : Hearth) (i : Nat) (f : Step → Step) : (updStep x i f).cooled = x.cooled := rfl
@[simp] theorem updStep_tokens (x : Hearth) (i : Nat) (f : Step → Step) : (updStep x i f).tokens = x.tokens := rfl
@[simp] theorem updStep_grant (x : Hearth) (i : Nat) (f : Step → Step) : (updStep x i f).grant = x.grant := rfl
@[simp] theorem updStep_demand (x : Hearth) (i : Nat) (f : Step → Step) : (updStep x i f).demand = x.demand := rfl
@[simp] theorem updStep_dies (x : Hearth) (i : Nat) (f : Step → Step) : (updStep x i f).dies = x.dies := rfl
@[simp] theorem updStep_slicesOut (x : Hearth) (i : Nat) (f : Step → Step) : (updStep x i f).slicesOut = x.slicesOut := rfl
@[simp] theorem updStep_subsOut (x : Hearth) (i : Nat) (f : Step → Step) : (updStep x i f).subsOut = x.subsOut := rfl
@[simp] theorem updStep_portsOut (x : Hearth) (i : Nat) (f : Step → Step) : (updStep x i f).portsOut = x.portsOut := rfl
@[simp] theorem updStep_lanesOut (x : Hearth) (i : Nat) (f : Step → Step) : (updStep x i f).lanesOut = x.lanesOut := rfl
@[simp] theorem updStep_cnt (x : Hearth) (i : Nat) (f : Step → Step) : (updStep x i f).cnt = x.cnt := rfl
@[simp] theorem updStep_buckets (x : Hearth) (i : Nat) (f : Step → Step) : (updStep x i f).buckets = x.buckets := rfl
@[simp] theorem updStep_mem (x : Hearth) (i : Nat) (f : Step → Step) : (updStep x i f).mem = x.mem := rfl
@[simp] theorem updStep_wild (x : Hearth) (i : Nat) (f : Step → Step) : (updStep x i f).wild = x.wild := rfl
@[simp] theorem updStep_errs (x : Hearth) (i : Nat) (f : Step → Step) : (updStep x i f).errs = x.errs := rfl
@[simp] theorem updStep_holeReads (x : Hearth) (i : Nat) (f : Step → Step) : (updStep x i f).holeReads = x.holeReads := rfl
@[simp] theorem updStep_holeWrites (x : Hearth) (i : Nat) (f : Step → Step) : (updStep x i f).holeWrites = x.holeWrites := rfl
@[simp] theorem updStep_ctxs (x : Hearth) (i : Nat) (f : Step → Step) : (updStep x i f).ctxs = x.ctxs := rfl
@[simp] theorem updStep_load (x : Hearth) (i : Nat) (f : Step → Step) : (updStep x i f).load = x.load := rfl
@[simp] theorem updStep_tiles (x : Hearth) (i : Nat) (f : Step → Step) : (updStep x i f).tiles = x.tiles := rfl
@[simp] theorem updStep_threads (x : Hearth) (i : Nat) (f : Step → Step) : (updStep x i f).threads = x.threads := rfl
@[simp] theorem updStep_hsync (x : Hearth) (i : Nat) (f : Step → Step) : (updStep x i f).hsync = x.hsync := rfl
@[simp] theorem updStep_eps (x : Hearth) (i : Nat) (f : Step → Step) : (updStep x i f).eps = x.eps := rfl
@[simp] theorem updStep_cal (x : Hearth) (i : Nat) (f : Step → Step) : (updStep x i f).cal = x.cal := rfl
@[simp] theorem updStep_syncWords (x : Hearth) (i : Nat) (f : Step → Step) : (updStep x i f).syncWords = x.syncWords := rfl
@[simp] theorem updStep_flights (x : Hearth) (i : Nat) (f : Step → Step) : (updStep x i f).flights = x.flights := rfl
@[simp] theorem updStep_creditFlights (x : Hearth) (i : Nat) (f : Step → Step) : (updStep x i f).creditFlights = x.creditFlights := rfl
@[simp] theorem updStep_grants (x : Hearth) (i : Nat) (f : Step → Step) : (updStep x i f).grants = x.grants := rfl
@[simp] theorem updStep_reqs (x : Hearth) (i : Nat) (f : Step → Step) : (updStep x i f).reqs = x.reqs := rfl
@[simp] theorem updStep_replies (x : Hearth) (i : Nat) (f : Step → Step) : (updStep x i f).replies = x.replies := rfl
@[simp] theorem updStep_acks (x : Hearth) (i : Nat) (f : Step → Step) : (updStep x i f).acks = x.acks := rfl
@[simp] theorem updStep_slotLat (x : Hearth) (i : Nat) (f : Step → Step) : (updStep x i f).slotLat = x.slotLat := rfl
@[simp] theorem updStep_slotBest (x : Hearth) (i : Nat) (f : Step → Step) : (updStep x i f).slotBest = x.slotBest := rfl
@[simp] theorem updStep_chargeSum (x : Hearth) (i : Nat) (f : Step → Step) : (updStep x i f).chargeSum = x.chargeSum := rfl
@[simp] theorem updStep_flushCharge (x : Hearth) (i : Nat) (f : Step → Step) : (updStep x i f).flushCharge = x.flushCharge := rfl
@[simp] theorem updStep_freezeSum (x : Hearth) (i : Nat) (f : Step → Step) : (updStep x i f).freezeSum = x.freezeSum := rfl
@[simp] theorem updStep_snap (x : Hearth) (i : Nat) (f : Step → Step) : (updStep x i f).snap = x.snap := rfl
@[simp] theorem updStep_spill (x : Hearth) (i : Nat) (f : Step → Step) : (updStep x i f).spill = x.spill := rfl
@[simp] theorem updStep_spilling (x : Hearth) (i : Nat) (f : Step → Step) : (updStep x i f).spilling = x.spilling := rfl
@[simp] theorem updStep_spillFree (x : Hearth) (i : Nat) (f : Step → Step) : (updStep x i f).spillFree = x.spillFree := rfl
@[simp] theorem updStep_spillBusy (x : Hearth) (i : Nat) (f : Step → Step) : (updStep x i f).spillBusy = x.spillBusy := rfl
@[simp] theorem updStep_sampling (x : Hearth) (i : Nat) (f : Step → Step) : (updStep x i f).sampling = x.sampling := rfl
@[simp] theorem updStep_hist (x : Hearth) (i : Nat) (f : Step → Step) : (updStep x i f).hist = x.hist := rfl
@[simp] theorem updStep_flags (x : Hearth) (i : Nat) (f : Step → Step) : (updStep x i f).flags = x.flags := rfl
@[simp] theorem updStep_arb (x : Hearth) (i : Nat) (f : Step → Step) : (updStep x i f).arb = x.arb := rfl
@[simp] theorem updStep_peers (x : Hearth) (i : Nat) (f : Step → Step) : (updStep x i f).peers = x.peers := rfl
@[simp] theorem updStep_pool (x : Hearth) (i : Nat) (f : Step → Step) : (updStep x i f).pool = x.pool := rfl
@[simp] theorem updStep_poolFree (x : Hearth) (i : Nat) (f : Step → Step) : (updStep x i f).poolFree = x.poolFree := rfl
@[simp] theorem updStep_noPath (x : Hearth) (i : Nat) (f : Step → Step) : (updStep x i f).noPath = x.noPath := rfl
@[simp] theorem updStep_reorder (x : Hearth) (i : Nat) (f : Step → Step) : (updStep x i f).reorder = x.reorder := rfl
@[simp] theorem updStep_ports (x : Hearth) (i : Nat) (f : Step → Step) : (updStep x i f).ports = x.ports := rfl
@[simp] theorem updStep_sent (x : Hearth) (i : Nat) (f : Step → Step) : (updStep x i f).sent = x.sent := rfl
@[simp] theorem updStep_moduleId (x : Hearth) (i : Nat) (f : Step → Step) : (updStep x i f).moduleId = x.moduleId := rfl
@[simp] theorem updStep_idValid (x : Hearth) (i : Nat) (f : Step → Step) : (updStep x i f).idValid = x.idValid := rfl
@[simp] theorem updStep_resend (x : Hearth) (i : Nat) (f : Step → Step) : (updStep x i f).resend = x.resend := rfl
@[simp] theorem updStep_damperEn (x : Hearth) (i : Nat) (f : Step → Step) : (updStep x i f).damperEn = x.damperEn := rfl
@[simp] theorem updStep_routeLocal (x : Hearth) (i : Nat) (f : Step → Step) : (updStep x i f).routeLocal = x.routeLocal := rfl
@[simp] theorem updStep_routeGroup (x : Hearth) (i : Nat) (f : Step → Step) : (updStep x i f).routeGroup = x.routeGroup := rfl
@[simp] theorem updStep_discards (x : Hearth) (i : Nat) (f : Step → Step) : (updStep x i f).discards = x.discards := rfl
@[simp] theorem updStep_performed (x : Hearth) (i : Nat) (f : Step → Step) : (updStep x i f).performed = x.performed := rfl
@[simp] theorem updStep_assembly (x : Hearth) (i : Nat) (f : Step → Step) : (updStep x i f).assembly = x.assembly := rfl
@[simp] theorem updStep_ash (x : Hearth) (i : Nat) (f : Step → Step) : (updStep x i f).ash = x.ash := rfl
@[simp] theorem updStep_ashNext (x : Hearth) (i : Nat) (f : Step → Step) : (updStep x i f).ashNext = x.ashNext := rfl
@[simp] theorem updStep_sigNew (x : Hearth) (i : Nat) (f : Step → Step) : (updStep x i f).sigNew = x.sigNew := rfl
@[simp] theorem updStep_forwardFrom (x : Hearth) (i : Nat) (f : Step → Step) : (updStep x i f).forwardFrom = x.forwardFrom := rfl
@[simp] theorem updStep_scrubA (x : Hearth) (i : Nat) (f : Step → Step) : (updStep x i f).scrubA = x.scrubA := rfl
@[simp] theorem updStep_scrubB (x : Hearth) (i : Nat) (f : Step → Step) : (updStep x i f).scrubB = x.scrubB := rfl
@[simp] theorem updStep_scrubC (x : Hearth) (i : Nat) (f : Step → Step) : (updStep x i f).scrubC = x.scrubC := rfl
@[simp] theorem updStep_scrubPos (x : Hearth) (i : Nat) (f : Step → Step) : (updStep x i f).scrubPos = x.scrubPos := rfl
@[simp] theorem updStep_reshape (x : Hearth) (i : Nat) (f : Step → Step) : (updStep x i f).reshape = x.reshape := rfl
@[simp] theorem updStep_deferred (x : Hearth) (i : Nat) (f : Step → Step) : (updStep x i f).deferred = x.deferred := rfl
@[simp] theorem updStep_restoring (x : Hearth) (i : Nat) (f : Step → Step) : (updStep x i f).restoring = x.restoring := rfl
@[simp] theorem updStep_returning (x : Hearth) (i : Nat) (f : Step → Step) : (updStep x i f).returning = x.returning := rfl
@[simp] theorem updStep_reportRing (x : Hearth) (i : Nat) (f : Step → Step) : (updStep x i f).reportRing = x.reportRing := rfl
@[simp] theorem updStep_reportNo (x : Hearth) (i : Nat) (f : Step → Step) : (updStep x i f).reportNo = x.reportNo := rfl
@[simp] theorem updStep_closedSeen (x : Hearth) (i : Nat) (f : Step → Step) : (updStep x i f).closedSeen = x.closedSeen := rfl
@[simp] theorem updStep_retiredWhole (x : Hearth) (i : Nat) (f : Step → Step) : (updStep x i f).retiredWhole = x.retiredWhole := rfl
@[simp] theorem updStep_refreshed (x : Hearth) (i : Nat) (f : Step → Step) : (updStep x i f).refreshed = x.refreshed := rfl
@[simp] theorem updStep_lastTrain (x : Hearth) (i : Nat) (f : Step → Step) : (updStep x i f).lastTrain = x.lastTrain := rfl
@[simp] theorem updStep_blocked (x : Hearth) (i : Nat) (f : Step → Step) : (updStep x i f).blocked = x.blocked := rfl
@[simp] theorem updStep_modulePorts (x : Hearth) (i : Nat) (f : Step → Step) : (updStep x i f).modulePorts = x.modulePorts := rfl
@[simp] theorem updStep_telemetry (x : Hearth) (i : Nat) (f : Step → Step) : (updStep x i f).telemetry = x.telemetry := rfl
@[simp] theorem updStep_childTelemetry (x : Hearth) (i : Nat) (f : Step → Step) : (updStep x i f).childTelemetry = x.childTelemetry := rfl

/-- The whole frame of updHsync: nothing but hsync changes. -/
theorem updHsync_frame (x : Hearth) (o : Nat) (f : HSync → HSync) : { updHsync x o f with hsync := x.hsync } = x := rfl

@[simp] theorem updHsync_timeBase (x : Hearth) (o : Nat) (f : HSync → HSync) : (updHsync x o f).timeBase = x.timeBase := rfl
@[simp] theorem updHsync_linkLost (x : Hearth) (o : Nat) (f : HSync → HSync) : (updHsync x o f).linkLost = x.linkLost := rfl
@[simp] theorem updHsync_st (x : Hearth) (o : Nat) (f : HSync → HSync) : (updHsync x o f).st = x.st := rfl
@[simp] theorem updHsync_fw (x : Hearth) (o : Nat) (f : HSync → HSync) : (updHsync x o f).fw = x.fw := rfl
@[simp] theorem updHsync_resets (x : Hearth) (o : Nat) (f : HSync → HSync) : (updHsync x o f).resets = x.resets := rfl
@[simp] theorem updHsync_epochBase (x : Hearth) (o : Nat) (f : HSync → HSync) : (updHsync x o f).epochBase = x.epochBase := rfl
@[simp] theorem updHsync_everReady (x : Hearth) (o : Nat) (f : HSync → HSync) : (updHsync x o f).everReady = x.everReady := rfl
@[simp] theorem updHsync_firstBoot (x : Hearth) (o : Nat) (f : HSync → HSync) : (updHsync x o f).firstBoot = x.firstBoot := rfl
@[simp] theorem updHsync_fromPower (x : Hearth) (o : Nat) (f : HSync → HSync) : (updHsync x o f).fromPower = x.fromPower := rfl
@[simp] theorem updHsync_rail (x : Hearth) (o : Nat) (f : HSync → HSync) : (updHsync x o f).rail = x.rail := rfl
@[simp] theorem updHsync_clkStep (x : Hearth) (o : Nat) (f : HSync → HSync) : (updHsync x o f).clkStep = x.clkStep := rfl
@[simp] theorem updHsync_tokenStep (x : Hearth) (o : Nat) (f : HSync → HSync) : (updHsync x o f).tokenStep = x.tokenStep := rfl
@[simp] theorem updHsync_thermStep (x : Hearth) (o : Nat) (f : HSync → HSync) : (updHsync x o f).thermStep = x.thermStep := rfl
@[simp] theorem updHsync_hottest (x : Hearth) (o : Nat) (f : HSync → HSync) : (updHsync x o f).hottest = x.hottest := rfl
@[simp] theorem updHsync_cooled (x : Hearth) (o : Nat) (f : HSync → HSync) : (updHsync x o f).cooled = x.cooled := rfl
@[simp] theorem updHsync_tokens (x : Hearth) (o : Nat) (f : HSync → HSync) : (updHsync x o f).tokens = x.tokens := rfl
@[simp] theorem updHsync_grant (x : Hearth) (o : Nat) (f : HSync → HSync) : (updHsync x o f).grant = x.grant := rfl
@[simp] theorem updHsync_demand (x : Hearth) (o : Nat) (f : HSync → HSync) : (updHsync x o f).demand = x.demand := rfl
@[simp] theorem updHsync_dies (x : Hearth) (o : Nat) (f : HSync → HSync) : (updHsync x o f).dies = x.dies := rfl
@[simp] theorem updHsync_slicesOut (x : Hearth) (o : Nat) (f : HSync → HSync) : (updHsync x o f).slicesOut = x.slicesOut := rfl
@[simp] theorem updHsync_subsOut (x : Hearth) (o : Nat) (f : HSync → HSync) : (updHsync x o f).subsOut = x.subsOut := rfl
@[simp] theorem updHsync_portsOut (x : Hearth) (o : Nat) (f : HSync → HSync) : (updHsync x o f).portsOut = x.portsOut := rfl
@[simp] theorem updHsync_lanesOut (x : Hearth) (o : Nat) (f : HSync → HSync) : (updHsync x o f).lanesOut = x.lanesOut := rfl
@[simp] theorem updHsync_cnt (x : Hearth) (o : Nat) (f : HSync → HSync) : (updHsync x o f).cnt = x.cnt := rfl
@[simp] theorem updHsync_buckets (x : Hearth) (o : Nat) (f : HSync → HSync) : (updHsync x o f).buckets = x.buckets := rfl
@[simp] theorem updHsync_mem (x : Hearth) (o : Nat) (f : HSync → HSync) : (updHsync x o f).mem = x.mem := rfl
@[simp] theorem updHsync_wild (x : Hearth) (o : Nat) (f : HSync → HSync) : (updHsync x o f).wild = x.wild := rfl
@[simp] theorem updHsync_errs (x : Hearth) (o : Nat) (f : HSync → HSync) : (updHsync x o f).errs = x.errs := rfl
@[simp] theorem updHsync_holeReads (x : Hearth) (o : Nat) (f : HSync → HSync) : (updHsync x o f).holeReads = x.holeReads := rfl
@[simp] theorem updHsync_holeWrites (x : Hearth) (o : Nat) (f : HSync → HSync) : (updHsync x o f).holeWrites = x.holeWrites := rfl
@[simp] theorem updHsync_ctxs (x : Hearth) (o : Nat) (f : HSync → HSync) : (updHsync x o f).ctxs = x.ctxs := rfl
@[simp] theorem updHsync_load (x : Hearth) (o : Nat) (f : HSync → HSync) : (updHsync x o f).load = x.load := rfl
@[simp] theorem updHsync_tiles (x : Hearth) (o : Nat) (f : HSync → HSync) : (updHsync x o f).tiles = x.tiles := rfl
@[simp] theorem updHsync_threads (x : Hearth) (o : Nat) (f : HSync → HSync) : (updHsync x o f).threads = x.threads := rfl
@[simp] theorem updHsync_eps (x : Hearth) (o : Nat) (f : HSync → HSync) : (updHsync x o f).eps = x.eps := rfl
@[simp] theorem updHsync_cal (x : Hearth) (o : Nat) (f : HSync → HSync) : (updHsync x o f).cal = x.cal := rfl
@[simp] theorem updHsync_syncWords (x : Hearth) (o : Nat) (f : HSync → HSync) : (updHsync x o f).syncWords = x.syncWords := rfl
@[simp] theorem updHsync_flights (x : Hearth) (o : Nat) (f : HSync → HSync) : (updHsync x o f).flights = x.flights := rfl
@[simp] theorem updHsync_creditFlights (x : Hearth) (o : Nat) (f : HSync → HSync) : (updHsync x o f).creditFlights = x.creditFlights := rfl
@[simp] theorem updHsync_grants (x : Hearth) (o : Nat) (f : HSync → HSync) : (updHsync x o f).grants = x.grants := rfl
@[simp] theorem updHsync_reqs (x : Hearth) (o : Nat) (f : HSync → HSync) : (updHsync x o f).reqs = x.reqs := rfl
@[simp] theorem updHsync_replies (x : Hearth) (o : Nat) (f : HSync → HSync) : (updHsync x o f).replies = x.replies := rfl
@[simp] theorem updHsync_acks (x : Hearth) (o : Nat) (f : HSync → HSync) : (updHsync x o f).acks = x.acks := rfl
@[simp] theorem updHsync_steps (x : Hearth) (o : Nat) (f : HSync → HSync) : (updHsync x o f).steps = x.steps := rfl
@[simp] theorem updHsync_slotLat (x : Hearth) (o : Nat) (f : HSync → HSync) : (updHsync x o f).slotLat = x.slotLat := rfl
@[simp] theorem updHsync_slotBest (x : Hearth) (o : Nat) (f : HSync → HSync) : (updHsync x o f).slotBest = x.slotBest := rfl
@[simp] theorem updHsync_chargeSum (x : Hearth) (o : Nat) (f : HSync → HSync) : (updHsync x o f).chargeSum = x.chargeSum := rfl
@[simp] theorem updHsync_flushCharge (x : Hearth) (o : Nat) (f : HSync → HSync) : (updHsync x o f).flushCharge = x.flushCharge := rfl
@[simp] theorem updHsync_freezeSum (x : Hearth) (o : Nat) (f : HSync → HSync) : (updHsync x o f).freezeSum = x.freezeSum := rfl
@[simp] theorem updHsync_snap (x : Hearth) (o : Nat) (f : HSync → HSync) : (updHsync x o f).snap = x.snap := rfl
@[simp] theorem updHsync_spill (x : Hearth) (o : Nat) (f : HSync → HSync) : (updHsync x o f).spill = x.spill := rfl
@[simp] theorem updHsync_spilling (x : Hearth) (o : Nat) (f : HSync → HSync) : (updHsync x o f).spilling = x.spilling := rfl
@[simp] theorem updHsync_spillFree (x : Hearth) (o : Nat) (f : HSync → HSync) : (updHsync x o f).spillFree = x.spillFree := rfl
@[simp] theorem updHsync_spillBusy (x : Hearth) (o : Nat) (f : HSync → HSync) : (updHsync x o f).spillBusy = x.spillBusy := rfl
@[simp] theorem updHsync_sampling (x : Hearth) (o : Nat) (f : HSync → HSync) : (updHsync x o f).sampling = x.sampling := rfl
@[simp] theorem updHsync_hist (x : Hearth) (o : Nat) (f : HSync → HSync) : (updHsync x o f).hist = x.hist := rfl
@[simp] theorem updHsync_flags (x : Hearth) (o : Nat) (f : HSync → HSync) : (updHsync x o f).flags = x.flags := rfl
@[simp] theorem updHsync_arb (x : Hearth) (o : Nat) (f : HSync → HSync) : (updHsync x o f).arb = x.arb := rfl
@[simp] theorem updHsync_peers (x : Hearth) (o : Nat) (f : HSync → HSync) : (updHsync x o f).peers = x.peers := rfl
@[simp] theorem updHsync_pool (x : Hearth) (o : Nat) (f : HSync → HSync) : (updHsync x o f).pool = x.pool := rfl
@[simp] theorem updHsync_poolFree (x : Hearth) (o : Nat) (f : HSync → HSync) : (updHsync x o f).poolFree = x.poolFree := rfl
@[simp] theorem updHsync_noPath (x : Hearth) (o : Nat) (f : HSync → HSync) : (updHsync x o f).noPath = x.noPath := rfl
@[simp] theorem updHsync_reorder (x : Hearth) (o : Nat) (f : HSync → HSync) : (updHsync x o f).reorder = x.reorder := rfl
@[simp] theorem updHsync_ports (x : Hearth) (o : Nat) (f : HSync → HSync) : (updHsync x o f).ports = x.ports := rfl
@[simp] theorem updHsync_sent (x : Hearth) (o : Nat) (f : HSync → HSync) : (updHsync x o f).sent = x.sent := rfl
@[simp] theorem updHsync_moduleId (x : Hearth) (o : Nat) (f : HSync → HSync) : (updHsync x o f).moduleId = x.moduleId := rfl
@[simp] theorem updHsync_idValid (x : Hearth) (o : Nat) (f : HSync → HSync) : (updHsync x o f).idValid = x.idValid := rfl
@[simp] theorem updHsync_resend (x : Hearth) (o : Nat) (f : HSync → HSync) : (updHsync x o f).resend = x.resend := rfl
@[simp] theorem updHsync_damperEn (x : Hearth) (o : Nat) (f : HSync → HSync) : (updHsync x o f).damperEn = x.damperEn := rfl
@[simp] theorem updHsync_routeLocal (x : Hearth) (o : Nat) (f : HSync → HSync) : (updHsync x o f).routeLocal = x.routeLocal := rfl
@[simp] theorem updHsync_routeGroup (x : Hearth) (o : Nat) (f : HSync → HSync) : (updHsync x o f).routeGroup = x.routeGroup := rfl
@[simp] theorem updHsync_discards (x : Hearth) (o : Nat) (f : HSync → HSync) : (updHsync x o f).discards = x.discards := rfl
@[simp] theorem updHsync_performed (x : Hearth) (o : Nat) (f : HSync → HSync) : (updHsync x o f).performed = x.performed := rfl
@[simp] theorem updHsync_assembly (x : Hearth) (o : Nat) (f : HSync → HSync) : (updHsync x o f).assembly = x.assembly := rfl
@[simp] theorem updHsync_ash (x : Hearth) (o : Nat) (f : HSync → HSync) : (updHsync x o f).ash = x.ash := rfl
@[simp] theorem updHsync_ashNext (x : Hearth) (o : Nat) (f : HSync → HSync) : (updHsync x o f).ashNext = x.ashNext := rfl
@[simp] theorem updHsync_sigNew (x : Hearth) (o : Nat) (f : HSync → HSync) : (updHsync x o f).sigNew = x.sigNew := rfl
@[simp] theorem updHsync_forwardFrom (x : Hearth) (o : Nat) (f : HSync → HSync) : (updHsync x o f).forwardFrom = x.forwardFrom := rfl
@[simp] theorem updHsync_scrubA (x : Hearth) (o : Nat) (f : HSync → HSync) : (updHsync x o f).scrubA = x.scrubA := rfl
@[simp] theorem updHsync_scrubB (x : Hearth) (o : Nat) (f : HSync → HSync) : (updHsync x o f).scrubB = x.scrubB := rfl
@[simp] theorem updHsync_scrubC (x : Hearth) (o : Nat) (f : HSync → HSync) : (updHsync x o f).scrubC = x.scrubC := rfl
@[simp] theorem updHsync_scrubPos (x : Hearth) (o : Nat) (f : HSync → HSync) : (updHsync x o f).scrubPos = x.scrubPos := rfl
@[simp] theorem updHsync_reshape (x : Hearth) (o : Nat) (f : HSync → HSync) : (updHsync x o f).reshape = x.reshape := rfl
@[simp] theorem updHsync_deferred (x : Hearth) (o : Nat) (f : HSync → HSync) : (updHsync x o f).deferred = x.deferred := rfl
@[simp] theorem updHsync_restoring (x : Hearth) (o : Nat) (f : HSync → HSync) : (updHsync x o f).restoring = x.restoring := rfl
@[simp] theorem updHsync_returning (x : Hearth) (o : Nat) (f : HSync → HSync) : (updHsync x o f).returning = x.returning := rfl
@[simp] theorem updHsync_reportRing (x : Hearth) (o : Nat) (f : HSync → HSync) : (updHsync x o f).reportRing = x.reportRing := rfl
@[simp] theorem updHsync_reportNo (x : Hearth) (o : Nat) (f : HSync → HSync) : (updHsync x o f).reportNo = x.reportNo := rfl
@[simp] theorem updHsync_closedSeen (x : Hearth) (o : Nat) (f : HSync → HSync) : (updHsync x o f).closedSeen = x.closedSeen := rfl
@[simp] theorem updHsync_retiredWhole (x : Hearth) (o : Nat) (f : HSync → HSync) : (updHsync x o f).retiredWhole = x.retiredWhole := rfl
@[simp] theorem updHsync_refreshed (x : Hearth) (o : Nat) (f : HSync → HSync) : (updHsync x o f).refreshed = x.refreshed := rfl
@[simp] theorem updHsync_lastTrain (x : Hearth) (o : Nat) (f : HSync → HSync) : (updHsync x o f).lastTrain = x.lastTrain := rfl
@[simp] theorem updHsync_blocked (x : Hearth) (o : Nat) (f : HSync → HSync) : (updHsync x o f).blocked = x.blocked := rfl
@[simp] theorem updHsync_modulePorts (x : Hearth) (o : Nat) (f : HSync → HSync) : (updHsync x o f).modulePorts = x.modulePorts := rfl
@[simp] theorem updHsync_telemetry (x : Hearth) (o : Nat) (f : HSync → HSync) : (updHsync x o f).telemetry = x.telemetry := rfl
@[simp] theorem updHsync_childTelemetry (x : Hearth) (o : Nat) (f : HSync → HSync) : (updHsync x o f).childTelemetry = x.childTelemetry := rfl

/-- Tile v reads back what was put there, and the others read as before. -/
theorem tileAt_putTile (x : Hearth) (v u : Nat) (t : Tile) (hw : smapWf ({} : Tile) x.tiles = true) :
    tileAt (putTile x v t) u = if u = v then t else tileAt x u := mget_mput _ _ _ _ _ hw

/-- A port reads back what was put there, and the others read as before. -/
theorem fport_putPort (x : Hearth) (t u : Nat) (p : FPort) (hw : smapWf ({} : FPort) x.ports = true) :
    fport (putPort x t p) u = if u = t then p else fport x u := mget_mput _ _ _ _ _ hw

/-- A peer context reads back what was put there, and the others read as before. -/
theorem peerOf_putPeer (x : Hearth) (i j : Nat) (p : PeerCtx) (hw : smapWf ({} : PeerCtx) x.peers = true) :
    peerOf (putPeer x i p) j = if j = i then p else peerOf x j := mget_mput _ _ _ _ _ hw

end Sys2Proof.Machine
end

