-- ==== Sys2Proof/Laws/Commands.lean ====
section
/-! SUPPORT. What submitting a command does: an accepted command's effect begins in `begun`, a rejected one leaves its record
alone. -/

namespace Sys2Proof.Machine

/-- A command that passes its checks runs its effect in the state `begun`, under the number that was next. -/
theorem submit_accepted (s : State) (p : Pkt) (c : CmdSpec) (run : Nat → State → State) (h : Accepted s c p) :
    submit s p c run = run s.nextCmd (begun s c p) := by
  obtain ⟨h1, h2, h3⟩ := h
  have h4 : (takeSlots s p).nextCmd = s.nextCmd := by unfold takeSlots; cases p.src <;> rfl
  unfold submit begun
  simp only [h1, h2, h3, h4, Bool.not_true, Bool.false_eq_true, if_false]

/-- A command that a check rejects leaves its slots taken and its completion record, and nothing else of it happens. -/
theorem submit_rejected (s : State) (p : Pkt) (c : CmdSpec) (run : Nat → State → State) (st : Status) (det : Nat)
    (h1 : startable s c.code p = true) (h2 : slotsInWindow s p = true)
    (h3 : checks (takeSlots s p) c p (overruns s p) = some (st, det)) :
    submit s p c run = post (takeSlots s p)
      { src := p.src, opcode := c.code, hostTag := p.hostTag, sqHead := headOf (takeSlots s p) p.src } st det 0 0 none := by
  unfold submit
  simp only [h1, h2, h3, Bool.not_true, Bool.false_eq_true, if_false]

/-- A command that the mantel does not read next changes nothing (log 2). -/
theorem submit_waits (s : State) (p : Pkt) (c : CmdSpec) (run : Nat → State → State) (h : startable s c.code p = false) :
    submit s p c run = s := by
  unfold submit; simp only [h, Bool.not_false, if_true]

/-- Taking slots changes the ring or the cells that held them, and the turn, alone. -/
theorem takeSlots_frame (s : State) (p : Pkt) :
    { takeSlots s p with regs := s.regs, cmdCells := s.cmdCells, linkCells := s.linkCells } = s := by
  unfold takeSlots; cases p.src <;> rfl

/-- Taking slots keeps what the module's operations keep. -/
theorem takeSlots_follows (s : State) (p : Pkt) : Follows s (takeSlots s p) := by
  unfold takeSlots
  cases p.src <;> exact Follows.same rfl rfl rfl rfl rfl rfl rfl rfl rfl rfl rfl

/-- The started command of an accepted packet is the one command more in `begun`. -/
theorem begun_room (s : State) (c : CmdSpec) (p : Pkt) : outstanding (begun s c p) ≤ outstanding s + 1 := by
  unfold begun
  refine Nat.le_trans (forward_follows _ _ _ _).room ?_
  have h := (takeSlots_follows s p).room
  unfold outstanding at *
  simp only [List.filter_append, List.length_append]
  exact Nat.add_le_add h (List.length_filter_le _ _)

/-- The state in which an accepted command's effect begins keeps the queue, the fuses, the alarm and the canonical forms. -/
theorem begun_keeps (s : State) (c : CmdSpec) (p : Pkt) :
    (begun s c p).pending = s.pending ∧ (begun s c p).fuses = s.fuses ∧ (begun s c p).trust.sources = s.trust.sources ∧
      ((begun s c p).mod = .alarm ↔ s.mod = .alarm) ∧ (begun s c p).power.perst = s.power.perst ∧
      (begun s c p).power.inputOk = s.power.inputOk ∧
      (Memory.wf s.hostMem = true → Memory.wf (begun s c p).hostMem = true) ∧
      (smapWf ({} : Hearth) s.hearths = true → smapWf ({} : Hearth) (begun s c p).hearths = true) := by
  have a := takeSlots_follows s p
  unfold begun
  dsimp only
  have b := forward_follows { takeSlots s p with
    nextCmd := (takeSlots s p).nextCmd + 1
    started := (takeSlots s p).started ++ [{
      id := (takeSlots s p).nextCmd
      org := { src := p.src, opcode := c.code, hostTag := p.hostTag, sqHead := headOf (takeSlots s p) p.src }
      wait := none, workload := wl p }] } (takeSlots s p).nextCmd c.code (c.fwd.getD p)
  exact ⟨b.pending.trans a.pending, b.fuses.trans a.fuses, b.sources.trans a.sources, b.alarm.trans a.alarm,
    b.perst.trans a.perst, b.inputOk.trans a.inputOk, fun h => b.mem (a.mem h), fun h => b.hearths (a.hearths h)⟩

/-- A command that completes keeps what the operations of the module keep. -/
theorem completes_follows (s : State) (id : Nat) (st : Status) (det r0 r1 : Nat) :
    ∃ t, completes s id st det r0 r1 = .next t ∧ Follows s t :=
  ⟨_, rfl, (finish_follows s id st det r0 r1 none).trans (settle_follows _)⟩

end Sys2Proof.Machine
end

