-- ==== Sys2Proof/Laws/PerInstr.lean ====
section
/-! SUPPORT. A property of every command, by constructor: the hearth that a well-formed command names exists (R13). -/

/-- The hearth whose link a packet came by, where it came by one. -/
def Sys2Proof.Laws.Ranges.srcHearth (p : Sys2Proof.Pkt) : Option Nat :=
  match p.src with
  | .ring _ => none
  | .parent => none
  | .linkLocal h _ => some h

/-- The hearth that a command names. -/
def Sys2Proof.Laws.Ranges.hearth (i : Sys2Proof.Instr) : Option Nat :=
  match i with
  | .nop p => Sys2Proof.Laws.Ranges.srcHearth p
  | .pad p => Sys2Proof.Laws.Ranges.srcHearth p
  | .identify p => Sys2Proof.Laws.Ranges.srcHearth p
  | .getHealth p => Sys2Proof.Laws.Ranges.srcHearth p
  | .readCensus p => Sys2Proof.Laws.Ranges.srcHearth p
  | .auditLedgers p => Sys2Proof.Laws.Ranges.srcHearth p
  | .readSignatures p => Sys2Proof.Laws.Ranges.srcHearth p
  | .clearSignatures p => Sys2Proof.Laws.Ranges.srcHearth p
  | .fwStage p => Sys2Proof.Laws.Ranges.srcHearth p
  | .fwActivate p => Sys2Proof.Laws.Ranges.srcHearth p
  | .loadImage p => Sys2Proof.Laws.Ranges.srcHearth p
  | .dropImage p => Sys2Proof.Laws.Ranges.srcHearth p
  | .readLoadReport p => Sys2Proof.Laws.Ranges.srcHearth p
  | .launchStep p => Sys2Proof.Laws.Ranges.srcHearth p
  | .preemptStep p => Sys2Proof.Laws.Ranges.srcHearth p
  | .preemptStepHalt p => Sys2Proof.Laws.Ranges.srcHearth p
  | .preemptStepSave p => Sys2Proof.Laws.Ranges.srcHearth p
  | .resumeStep p => Sys2Proof.Laws.Ranges.srcHearth p
  | .abortStep p => Sys2Proof.Laws.Ranges.srcHearth p
  | .saveState p => Sys2Proof.Laws.Ranges.srcHearth p
  | .restoreState p => Sys2Proof.Laws.Ranges.srcHearth p
  | .copy p => Sys2Proof.Laws.Ranges.srcHearth p
  | .fill p => Sys2Proof.Laws.Ranges.srcHearth p
  | .setClassPolicy p => Sys2Proof.Laws.Ranges.srcHearth p
  | .setShares p => Sys2Proof.Laws.Ranges.srcHearth p
  | .setSharesRemove p => Sys2Proof.Laws.Ranges.srcHearth p
  | .setRole p => Sys2Proof.Laws.Ranges.srcHearth p
  | .setRoutes p => Sys2Proof.Laws.Ranges.srcHearth p
  | .flueUp p => Sys2Proof.Laws.Ranges.srcHearth p
  | .flueDown p => Sys2Proof.Laws.Ranges.srcHearth p
  | .syncTimeSet p => Sys2Proof.Laws.Ranges.srcHearth p
  | .syncTimeSlew p => Sys2Proof.Laws.Ranges.srcHearth p
  | .retireUnit p => Sys2Proof.Laws.Ranges.srcHearth p
  | .restoreUnit p => Sys2Proof.Laws.Ranges.srcHearth p
  | .resetHearth p => Sys2Proof.Laws.Ranges.srcHearth p
  | .moduleWarmReset p => Sys2Proof.Laws.Ranges.srcHearth p
  | .setPowerCap p => Sys2Proof.Laws.Ranges.srcHearth p
  | .sampleStart p => Sys2Proof.Laws.Ranges.srcHearth p
  | .sampleStop p => Sys2Proof.Laws.Ranges.srcHearth p
  | .sampleRead p => Sys2Proof.Laws.Ranges.srcHearth p
  | .calibrationRead p => Sys2Proof.Laws.Ranges.srcHearth p
  | .calibrationWrite p => Sys2Proof.Laws.Ranges.srcHearth p
  | .calibrationReset p => Sys2Proof.Laws.Ranges.srcHearth p
  | .attest p => Sys2Proof.Laws.Ranges.srcHearth p
  | .setAlarmPolicy p => Sys2Proof.Laws.Ranges.srcHearth p
  | .debugUnlockChallenge p => Sys2Proof.Laws.Ranges.srcHearth p
  | .debugUnlockResponse p => Sys2Proof.Laws.Ranges.srcHearth p
  | .zeroize p => Sys2Proof.Laws.Ranges.srcHearth p
  | .sqDoorbell _ _ => none
  | .cqHeadWrite _ _ => none
  | .sqEnable _ _ => none
  | .sqDisable _ _ => none
  | .cqEnable _ _ => none
  | .cqDisable _ _ => none
  | .powerCapWrite _ => none
  | .biasWrite _ _ => none
  | .healthRead => none
  | .hdmDecoderCommit _ _ _ _ _ => none
  | .registerWrite _ _ _ => none
  | .cxlMemRead _ => none
  | .cxlMemWrite _ _ _ => none
  | .hostBiasAccess h _ _ => some h
  | .hotReset => none
  | .d3hotEntry => none
  | .d0Return => none
  | .cxlLinkTraining _ _ _ => none
  | .pcieRefclkLoss => none
  | .powerUp => none
  | .inputOutOfRange => none
  | .perstAssert => none
  | .perstRelease => none
  | .perstWaitExpiry => none
  | .moduleFirmwareStart => none
  | .bootRomRingEngine => none
  | .hearthPowerOn h => some h
  | .hearthBootComplete h _ => some h
  | .identityEngineStart _ => none
  | .tokenShare _ => none
  | .chargeReport h => some h
  | .powerOvershoot _ => none
  | .thermalCheck h _ => some h
  | .thermalShutdown h => some h
  | .mantelOvertemp => none
  | .clockStepChange h _ => some h
  | .sensorUpdate _ => none
  | .cellInject h _ _ => some h
  | .linkCreditReturn h _ _ => some h
  | .eqRequest h _ _ => some h
  | .codewordUncorrectable h _ _ => some h
  | .resyncRequest h _ => some h
  | .resyncReport h _ _ => some h
  | .laneEvent h _ _ _ _ => some h
  | .laneRetrainComplete h _ _ _ => some h
  | .laneChange h _ _ => some h
  | .linkTrainingComplete h _ _ _ => some h
  | .linkTrainingTimeout h _ => some h
  | .flueDownDrainEnd h _ => some h
  | .flueRefclkLoss => none
  | .flueRefclkHoldoverExpiry => none
  | .transitCell h _ _ => some h
  | .write h _ _ => some h
  | .readReq h _ _ => some h
  | .readReply h _ _ => some h
  | .ack h _ _ => some h
  | .nack h _ _ => some h
  | .open h _ _ => some h
  | .openAck h _ _ => some h
  | .reset h _ _ => some h
  | .command h _ _ => some h
  | .completion h _ _ => some h
  | .syncArrive h _ _ => some h
  | .syncRelease h _ _ => some h
  | .combine h _ _ => some h
  | .timeQuery h _ _ => some h
  | .timeAnswer h _ _ => some h
  | .signature h _ _ => some h
  | .telemetry h _ _ => some h
  | .token h _ _ => some h
  | .credit h _ _ => some h
  | .writeDone h _ _ => some h
  | .accessFault h _ _ => some h
  | .dropped h _ _ => some h
  | .ackDelayExpiry h _ => some h
  | .resendTimeout h _ => some h
  | .writeDoneTimer h _ => some h
  | .damperLevelFall h _ => some h
  | .scheduleSlotOpen h _ _ => some h
  | .timeExchangeTick => none
  | .timeUnlockExpiry => none
  | .signatureForwardTick => none
  | .endpointTokenSend h _ => some h
  | .putTag h _ => some h
  | .getTag h _ => some h
  | .contributeTag h _ => some h
  | .endpointCombineSum h _ _ => some h
  | .tokenArrival h _ _ => some h
  | .tokenAdmit h _ _ => some h
  | .streamCredit h _ _ => some h
  | .combiningContribution h _ _ => some h
  | .combiningSumComplete h _ _ _ => some h
  | .mma h _ _ _ => some h
  | .emit h _ _ _ => some h
  | .wload h _ _ _ => some h
  | .vfma h _ _ _ => some h
  | .vbin h _ _ _ => some h
  | .sfu h _ _ _ => some h
  | .reduce h _ _ _ => some h
  | .steer h _ _ _ => some h
  | .move h _ _ _ => some h
  | .syncOpArrive h _ _ _ => some h
  | .syncOpWait h _ _ _ => some h
  | .syncOpIncrement h _ _ _ => some h
  | .syncOpDecrement h _ _ _ => some h
  | .firingEnd h _ _ => some h
  | .bankLoadComplete h _ _ => some h
  | .hsyncBatch h _ _ => some h
  | .syncGrantArrival h _ _ => some h
  | .tagTimeout h _ _ _ => some h
  | .syncWaitTimeout h _ _ => some h
  | .progressCountTrip h => some h
  | .spillRoundComplete h => some h
  | .tileReset h _ => some h
  | .contextChange h _ _ => some h
  | .contextChangeComplete h _ => some h
  | .sampleTick h => some h
  | .stokerLoadTag h _ => some h
  | .stokerStoreTag h _ => some h
  | .stokerRelayBatch h _ => some h
  | .stokerCopyTag h _ => some h
  | .stokerTriggerTag h _ => some h
  | .stokerWait h _ => some h
  | .stokerPost h _ => some h
  | .memoryRequest h _ => some h
  | .memoryReadReply h => some h
  | .writeAck h => some h
  | .perBankRefresh h _ _ => some h
  | .dqsTracking h _ => some h
  | .interfaceRetrain h _ _ => some h
  | .patrolScrub h _ => some h
  | .deferredRetirement h => some h
  | .reshapeUnitMove h => some h
  | .reshapeComplete h => some h
  | .slotFill h _ => some h
  | .stepDispatch h => some h
  | .stepStartComplete h => some h
  | .classPreempt h => some h
  | .haltComplete h => some h
  | .saveComplete h => some h
  | .restoreComplete h => some h
  | .stepComplete h => some h
  | .controlMismatch h _ _ => some h
  | .checkFlag h _ => some h
  | .replayComplete h _ => some h
  | .refereeComplete h _ => some h
  | .bucketLeak h _ => some h
  | .hearthFatal h _ _ => some h
  | .scrubCfgVote h _ => some h
  | .ceSummary h => some h
  | .hostPortFail => none
  | .failover => none
  | .commandProcessorsFail => none
  | .alarm _ => none
  | .jtagInstruction _ _ => none
  | .debugAccessExpiry => none
  | .challengeExpiry => none
  | .fruRead _ => none
  | .mctpControl _ => none
  | .setEndpointId _ => none
  | .pldmBase _ => none
  | .getPdrRepositoryInfo => none
  | .getPdr _ => none
  | .getSensorReading _ => none
  | .setNumericSensorEnable _ _ => none
  | .loadComplete h _ => some h
  | .fwSwitchComplete _ => none
  | .restoreTestComplete h _ => some h
  | .flueRefclkReturn => none
  | .powerControllerFailure => none
  | .identityEngineFailure => none
  | .verificationEngineFailure => none
  | .sidebandEndpointFailure => none
  | .chimneyFault h _ => some h

/-- A well-formed command names a hearth of the module, if it names one. -/
def Sys2Proof.Laws.Ranges.Statement (i : Sys2Proof.Instr) : Prop :=
  i.wf = true → ∀ h, Sys2Proof.Laws.Ranges.hearth i = some h → h < 9

/-- A well-formed source names a hearth of the module. -/
theorem Sys2Proof.Laws.Ranges.src_lt (p : Sys2Proof.Pkt) (w : p.src.wf = true) (h : Nat)
    (e : Sys2Proof.Laws.Ranges.srcHearth p = some h) : h < 9 := by
  unfold Sys2Proof.Laws.Ranges.srcHearth at e
  unfold Sys2Proof.Src.wf at w
  cases hs : p.src <;> simp_all [Sys2Proof.hearthOk]

/-- As src_lt, where a packet's selector is checked too. -/
theorem Sys2Proof.Laws.Ranges.src_lt_and (p : Sys2Proof.Pkt) (a : Bool) (w : (p.src.wf && a) = true) (h : Nat)
    (e : Sys2Proof.Laws.Ranges.srcHearth p = some h) : h < 9 :=
  Sys2Proof.Laws.Ranges.src_lt p (Bool.and_eq_true _ _ ▸ w).1 h e

/-- The hearth of a command that has no other operand to check. -/
theorem Sys2Proof.Laws.Ranges.lt0 {h k : Nat} (w : Sys2Proof.hearthOk h = true) (e : some h = some k) : k < 9 :=
  Option.some.inj e ▸ of_decide_eq_true w

/-- The hearth of a command with one other check. -/
theorem Sys2Proof.Laws.Ranges.lt1 {h k : Nat} {a : Bool} (w : (Sys2Proof.hearthOk h && a) = true) (e : some h = some k) : k < 9 :=
  Sys2Proof.Laws.Ranges.lt0 (Bool.and_eq_true _ _ ▸ w).1 e

/-- The hearth of a command with two other checks. -/
theorem Sys2Proof.Laws.Ranges.lt2 {h k : Nat} {a b : Bool} (w : (Sys2Proof.hearthOk h && a && b) = true) (e : some h = some k) :
    k < 9 :=
  Sys2Proof.Laws.Ranges.lt1 (Bool.and_eq_true _ _ ▸ w).1 e

/-- The hearth of a command with three other checks. -/
theorem Sys2Proof.Laws.Ranges.lt3 {h k : Nat} {a b c : Bool} (w : (Sys2Proof.hearthOk h && a && b && c) = true)
    (e : some h = some k) : k < 9 :=
  Sys2Proof.Laws.Ranges.lt2 (Bool.and_eq_true _ _ ▸ w).1 e

open Sys2Proof Sys2Proof.Laws.Ranges

theorem Sys2Proof.Laws.Ranges.nop (p : Pkt) : Statement (.nop p) := src_lt p
theorem Sys2Proof.Laws.Ranges.pad (p : Pkt) : Statement (.pad p) := src_lt p
theorem Sys2Proof.Laws.Ranges.identify (p : Pkt) : Statement (.identify p) := src_lt p
theorem Sys2Proof.Laws.Ranges.getHealth (p : Pkt) : Statement (.getHealth p) := src_lt p
theorem Sys2Proof.Laws.Ranges.readCensus (p : Pkt) : Statement (.readCensus p) := src_lt p
theorem Sys2Proof.Laws.Ranges.auditLedgers (p : Pkt) : Statement (.auditLedgers p) := src_lt p
theorem Sys2Proof.Laws.Ranges.readSignatures (p : Pkt) : Statement (.readSignatures p) := src_lt p
theorem Sys2Proof.Laws.Ranges.clearSignatures (p : Pkt) : Statement (.clearSignatures p) := src_lt p
theorem Sys2Proof.Laws.Ranges.fwStage (p : Pkt) : Statement (.fwStage p) := src_lt p
theorem Sys2Proof.Laws.Ranges.fwActivate (p : Pkt) : Statement (.fwActivate p) := src_lt p
theorem Sys2Proof.Laws.Ranges.loadImage (p : Pkt) : Statement (.loadImage p) := src_lt p
theorem Sys2Proof.Laws.Ranges.dropImage (p : Pkt) : Statement (.dropImage p) := src_lt p
theorem Sys2Proof.Laws.Ranges.readLoadReport (p : Pkt) : Statement (.readLoadReport p) := src_lt p
theorem Sys2Proof.Laws.Ranges.launchStep (p : Pkt) : Statement (.launchStep p) := src_lt p
theorem Sys2Proof.Laws.Ranges.preemptStep (p : Pkt) : Statement (.preemptStep p) := src_lt_and p _
theorem Sys2Proof.Laws.Ranges.preemptStepHalt (p : Pkt) : Statement (.preemptStepHalt p) := src_lt_and p _
theorem Sys2Proof.Laws.Ranges.preemptStepSave (p : Pkt) : Statement (.preemptStepSave p) := src_lt_and p _
theorem Sys2Proof.Laws.Ranges.resumeStep (p : Pkt) : Statement (.resumeStep p) := src_lt p
theorem Sys2Proof.Laws.Ranges.abortStep (p : Pkt) : Statement (.abortStep p) := src_lt p
theorem Sys2Proof.Laws.Ranges.saveState (p : Pkt) : Statement (.saveState p) := src_lt p
theorem Sys2Proof.Laws.Ranges.restoreState (p : Pkt) : Statement (.restoreState p) := src_lt p
theorem Sys2Proof.Laws.Ranges.copy (p : Pkt) : Statement (.copy p) := src_lt p
theorem Sys2Proof.Laws.Ranges.fill (p : Pkt) : Statement (.fill p) := src_lt p
theorem Sys2Proof.Laws.Ranges.setClassPolicy (p : Pkt) : Statement (.setClassPolicy p) := src_lt p
theorem Sys2Proof.Laws.Ranges.setShares (p : Pkt) : Statement (.setShares p) := src_lt_and p _
theorem Sys2Proof.Laws.Ranges.setSharesRemove (p : Pkt) : Statement (.setSharesRemove p) := src_lt_and p _
theorem Sys2Proof.Laws.Ranges.setRole (p : Pkt) : Statement (.setRole p) := src_lt p
theorem Sys2Proof.Laws.Ranges.setRoutes (p : Pkt) : Statement (.setRoutes p) := src_lt p
theorem Sys2Proof.Laws.Ranges.flueUp (p : Pkt) : Statement (.flueUp p) := src_lt p
theorem Sys2Proof.Laws.Ranges.flueDown (p : Pkt) : Statement (.flueDown p) := src_lt p
theorem Sys2Proof.Laws.Ranges.syncTimeSet (p : Pkt) : Statement (.syncTimeSet p) := src_lt_and p _
theorem Sys2Proof.Laws.Ranges.syncTimeSlew (p : Pkt) : Statement (.syncTimeSlew p) := src_lt_and p _
theorem Sys2Proof.Laws.Ranges.retireUnit (p : Pkt) : Statement (.retireUnit p) := src_lt p
theorem Sys2Proof.Laws.Ranges.restoreUnit (p : Pkt) : Statement (.restoreUnit p) := src_lt p
theorem Sys2Proof.Laws.Ranges.resetHearth (p : Pkt) : Statement (.resetHearth p) := src_lt_and p _
theorem Sys2Proof.Laws.Ranges.moduleWarmReset (p : Pkt) : Statement (.moduleWarmReset p) := src_lt_and p _
theorem Sys2Proof.Laws.Ranges.setPowerCap (p : Pkt) : Statement (.setPowerCap p) := src_lt p
theorem Sys2Proof.Laws.Ranges.sampleStart (p : Pkt) : Statement (.sampleStart p) := src_lt_and p _
theorem Sys2Proof.Laws.Ranges.sampleStop (p : Pkt) : Statement (.sampleStop p) := src_lt_and p _
theorem Sys2Proof.Laws.Ranges.sampleRead (p : Pkt) : Statement (.sampleRead p) := src_lt_and p _
theorem Sys2Proof.Laws.Ranges.calibrationRead (p : Pkt) : Statement (.calibrationRead p) := src_lt_and p _
theorem Sys2Proof.Laws.Ranges.calibrationWrite (p : Pkt) : Statement (.calibrationWrite p) := src_lt_and p _
theorem Sys2Proof.Laws.Ranges.calibrationReset (p : Pkt) : Statement (.calibrationReset p) := src_lt_and p _
theorem Sys2Proof.Laws.Ranges.attest (p : Pkt) : Statement (.attest p) := src_lt p
theorem Sys2Proof.Laws.Ranges.setAlarmPolicy (p : Pkt) : Statement (.setAlarmPolicy p) := src_lt p
theorem Sys2Proof.Laws.Ranges.debugUnlockChallenge (p : Pkt) : Statement (.debugUnlockChallenge p) := src_lt_and p _
theorem Sys2Proof.Laws.Ranges.debugUnlockResponse (p : Pkt) : Statement (.debugUnlockResponse p) := src_lt_and p _
theorem Sys2Proof.Laws.Ranges.zeroize (p : Pkt) : Statement (.zeroize p) := src_lt p
theorem Sys2Proof.Laws.Ranges.sqDoorbell (n : Nat) (value : W64) : Statement (.sqDoorbell n value) := fun _ _ e => nomatch e
theorem Sys2Proof.Laws.Ranges.cqHeadWrite (n : Nat) (value : W64) : Statement (.cqHeadWrite n value) := fun _ _ e => nomatch e
theorem Sys2Proof.Laws.Ranges.sqEnable (n : Nat) (value : W64) : Statement (.sqEnable n value) := fun _ _ e => nomatch e
theorem Sys2Proof.Laws.Ranges.sqDisable (n : Nat) (value : W64) : Statement (.sqDisable n value) := fun _ _ e => nomatch e
theorem Sys2Proof.Laws.Ranges.cqEnable (n : Nat) (value : W64) : Statement (.cqEnable n value) := fun _ _ e => nomatch e
theorem Sys2Proof.Laws.Ranges.cqDisable (n : Nat) (value : W64) : Statement (.cqDisable n value) := fun _ _ e => nomatch e
theorem Sys2Proof.Laws.Ranges.powerCapWrite (value : W64) : Statement (.powerCapWrite value) := fun _ _ e => nomatch e
theorem Sys2Proof.Laws.Ranges.biasWrite (n : Nat) (value : W64) : Statement (.biasWrite n value) := fun _ _ e => nomatch e
theorem Sys2Proof.Laws.Ranges.healthRead : Statement .healthRead := fun _ _ e => nomatch e
theorem Sys2Proof.Laws.Ranges.hdmDecoderCommit (d hpa size skip ways : Nat) : Statement (.hdmDecoderCommit d hpa size skip ways) := fun _ _ e => nomatch e
theorem Sys2Proof.Laws.Ranges.registerWrite (offset size : Nat) (value : W64) : Statement (.registerWrite offset size value) := fun _ _ e => nomatch e
theorem Sys2Proof.Laws.Ranges.cxlMemRead (dpa : Nat) : Statement (.cxlMemRead dpa) := fun _ _ e => nomatch e
theorem Sys2Proof.Laws.Ranges.cxlMemWrite (dpa : Nat) (data : BitVec 512) (mask : W64) : Statement (.cxlMemWrite dpa data mask) := fun _ _ e => nomatch e
theorem Sys2Proof.Laws.Ranges.hostBiasAccess (h addr : Nat) (line : BitVec 512) : Statement (.hostBiasAccess h addr line) := fun w _ e => lt1 w e
theorem Sys2Proof.Laws.Ranges.hotReset : Statement .hotReset := fun _ _ e => nomatch e
theorem Sys2Proof.Laws.Ranges.d3hotEntry : Statement .d3hotEntry := fun _ _ e => nomatch e
theorem Sys2Proof.Laws.Ranges.d0Return : Statement .d0Return := fun _ _ e => nomatch e
theorem Sys2Proof.Laws.Ranges.cxlLinkTraining (cxl : Bool) (width speed : Nat) : Statement (.cxlLinkTraining cxl width speed) := fun _ _ e => nomatch e
theorem Sys2Proof.Laws.Ranges.pcieRefclkLoss : Statement .pcieRefclkLoss := fun _ _ e => nomatch e
theorem Sys2Proof.Laws.Ranges.powerUp : Statement .powerUp := fun _ _ e => nomatch e
theorem Sys2Proof.Laws.Ranges.inputOutOfRange : Statement .inputOutOfRange := fun _ _ e => nomatch e
theorem Sys2Proof.Laws.Ranges.perstAssert : Statement .perstAssert := fun _ _ e => nomatch e
theorem Sys2Proof.Laws.Ranges.perstRelease : Statement .perstRelease := fun _ _ e => nomatch e
theorem Sys2Proof.Laws.Ranges.perstWaitExpiry : Statement .perstWaitExpiry := fun _ _ e => nomatch e
theorem Sys2Proof.Laws.Ranges.moduleFirmwareStart : Statement .moduleFirmwareStart := fun _ _ e => nomatch e
theorem Sys2Proof.Laws.Ranges.bootRomRingEngine : Statement .bootRomRingEngine := fun _ _ e => nomatch e
theorem Sys2Proof.Laws.Ranges.hearthPowerOn (h : Nat) : Statement (.hearthPowerOn h) := fun w _ e => lt0 w e
theorem Sys2Proof.Laws.Ranges.hearthBootComplete (h : Nat) (ok : Bool) : Statement (.hearthBootComplete h ok) := fun w _ e => lt0 w e
theorem Sys2Proof.Laws.Ranges.identityEngineStart (writeOk : Bool) : Statement (.identityEngineStart writeOk) := fun _ _ e => nomatch e
theorem Sys2Proof.Laws.Ranges.tokenShare (demand : List Nat) : Statement (.tokenShare demand) := fun _ _ e => nomatch e
theorem Sys2Proof.Laws.Ranges.chargeReport (h : Nat) : Statement (.chargeReport h) := fun w _ e => lt0 w e
theorem Sys2Proof.Laws.Ranges.powerOvershoot (watts : Nat) : Statement (.powerOvershoot watts) := fun _ _ e => nomatch e
theorem Sys2Proof.Laws.Ranges.thermalCheck (h : Nat) (eighths : Int) : Statement (.thermalCheck h eighths) := fun w _ e => lt0 w e
theorem Sys2Proof.Laws.Ranges.thermalShutdown (h : Nat) : Statement (.thermalShutdown h) := fun w _ e => lt0 w e
theorem Sys2Proof.Laws.Ranges.mantelOvertemp : Statement .mantelOvertemp := fun _ _ e => nomatch e
theorem Sys2Proof.Laws.Ranges.clockStepChange (h step : Nat) : Statement (.clockStepChange h step) := fun w _ e => lt1 w e
theorem Sys2Proof.Laws.Ranges.sensorUpdate (readings : List Reading) : Statement (.sensorUpdate readings) := fun _ _ e => nomatch e
theorem Sys2Proof.Laws.Ranges.cellInject (h t ch : Nat) : Statement (.cellInject h t ch) := fun w _ e => lt2 w e
theorem Sys2Proof.Laws.Ranges.linkCreditReturn (h t : Nat) (word : BitVec 20) : Statement (.linkCreditReturn h t word) := fun w _ e => lt1 w e
theorem Sys2Proof.Laws.Ranges.eqRequest (h t : Nat) (word : BitVec 20) : Statement (.eqRequest h t word) := fun w _ e => lt1 w e
theorem Sys2Proof.Laws.Ranges.codewordUncorrectable (h t cells : Nat) : Statement (.codewordUncorrectable h t cells) := fun w _ e => lt1 w e
theorem Sys2Proof.Laws.Ranges.resyncRequest (h t : Nat) : Statement (.resyncRequest h t) := fun w _ e => lt1 w e
theorem Sys2Proof.Laws.Ranges.resyncReport (h t : Nat) (word : BitVec 20) : Statement (.resyncReport h t word) := fun w _ e => lt1 w e
theorem Sys2Proof.Laws.Ranges.laneEvent (h t lane cause margin : Nat) : Statement (.laneEvent h t lane cause margin) := fun w _ e => lt2 w e
theorem Sys2Proof.Laws.Ranges.laneRetrainComplete (h t lane : Nat) (ok : Bool) : Statement (.laneRetrainComplete h t lane ok) := fun w _ e => lt2 w e
theorem Sys2Proof.Laws.Ranges.laneChange (h t : Nat) (lanesFar : BitVec 4) : Statement (.laneChange h t lanesFar) := fun w _ e => lt1 w e
theorem Sys2Proof.Laws.Ranges.linkTrainingComplete (h t : Nat) (lanes lanesFar : BitVec 4) : Statement (.linkTrainingComplete h t lanes lanesFar) := fun w _ e => lt1 w e
theorem Sys2Proof.Laws.Ranges.linkTrainingTimeout (h t : Nat) : Statement (.linkTrainingTimeout h t) := fun w _ e => lt1 w e
theorem Sys2Proof.Laws.Ranges.flueDownDrainEnd (h t : Nat) : Statement (.flueDownDrainEnd h t) := fun w _ e => lt1 w e
theorem Sys2Proof.Laws.Ranges.flueRefclkLoss : Statement .flueRefclkLoss := fun _ _ e => nomatch e
theorem Sys2Proof.Laws.Ranges.flueRefclkHoldoverExpiry : Statement .flueRefclkHoldoverExpiry := fun _ _ e => nomatch e
theorem Sys2Proof.Laws.Ranges.transitCell (h t : Nat) (c : Cell) : Statement (.transitCell h t c) := fun w _ e => lt1 w e
theorem Sys2Proof.Laws.Ranges.write (h t : Nat) (c : Cell) : Statement (.write h t c) := fun w _ e => lt1 w e
theorem Sys2Proof.Laws.Ranges.readReq (h t : Nat) (c : Cell) : Statement (.readReq h t c) := fun w _ e => lt1 w e
theorem Sys2Proof.Laws.Ranges.readReply (h t : Nat) (c : Cell) : Statement (.readReply h t c) := fun w _ e => lt1 w e
theorem Sys2Proof.Laws.Ranges.ack (h t : Nat) (c : Cell) : Statement (.ack h t c) := fun w _ e => lt1 w e
theorem Sys2Proof.Laws.Ranges.nack (h t : Nat) (c : Cell) : Statement (.nack h t c) := fun w _ e => lt1 w e
theorem Sys2Proof.Laws.Ranges.open (h t : Nat) (c : Cell) : Statement (.open h t c) := fun w _ e => lt1 w e
theorem Sys2Proof.Laws.Ranges.openAck (h t : Nat) (c : Cell) : Statement (.openAck h t c) := fun w _ e => lt1 w e
theorem Sys2Proof.Laws.Ranges.reset (h t : Nat) (c : Cell) : Statement (.reset h t c) := fun w _ e => lt1 w e
theorem Sys2Proof.Laws.Ranges.command (h t : Nat) (c : Cell) : Statement (.command h t c) := fun w _ e => lt1 w e
theorem Sys2Proof.Laws.Ranges.completion (h t : Nat) (c : Cell) : Statement (.completion h t c) := fun w _ e => lt1 w e
theorem Sys2Proof.Laws.Ranges.syncArrive (h t : Nat) (c : Cell) : Statement (.syncArrive h t c) := fun w _ e => lt1 w e
theorem Sys2Proof.Laws.Ranges.syncRelease (h t : Nat) (c : Cell) : Statement (.syncRelease h t c) := fun w _ e => lt1 w e
theorem Sys2Proof.Laws.Ranges.combine (h t : Nat) (c : Cell) : Statement (.combine h t c) := fun w _ e => lt1 w e
theorem Sys2Proof.Laws.Ranges.timeQuery (h t : Nat) (c : Cell) : Statement (.timeQuery h t c) := fun w _ e => lt1 w e
theorem Sys2Proof.Laws.Ranges.timeAnswer (h t : Nat) (c : Cell) : Statement (.timeAnswer h t c) := fun w _ e => lt1 w e
theorem Sys2Proof.Laws.Ranges.signature (h t : Nat) (c : Cell) : Statement (.signature h t c) := fun w _ e => lt1 w e
theorem Sys2Proof.Laws.Ranges.telemetry (h t : Nat) (c : Cell) : Statement (.telemetry h t c) := fun w _ e => lt1 w e
theorem Sys2Proof.Laws.Ranges.token (h t : Nat) (c : Cell) : Statement (.token h t c) := fun w _ e => lt1 w e
theorem Sys2Proof.Laws.Ranges.credit (h t : Nat) (c : Cell) : Statement (.credit h t c) := fun w _ e => lt1 w e
theorem Sys2Proof.Laws.Ranges.writeDone (h t : Nat) (c : Cell) : Statement (.writeDone h t c) := fun w _ e => lt1 w e
theorem Sys2Proof.Laws.Ranges.accessFault (h t : Nat) (c : Cell) : Statement (.accessFault h t c) := fun w _ e => lt1 w e
theorem Sys2Proof.Laws.Ranges.dropped (h t : Nat) (c : Cell) : Statement (.dropped h t c) := fun w _ e => lt1 w e
theorem Sys2Proof.Laws.Ranges.ackDelayExpiry (h ctx : Nat) : Statement (.ackDelayExpiry h ctx) := fun w _ e => lt1 w e
theorem Sys2Proof.Laws.Ranges.resendTimeout (h ctx : Nat) : Statement (.resendTimeout h ctx) := fun w _ e => lt1 w e
theorem Sys2Proof.Laws.Ranges.writeDoneTimer (h i : Nat) : Statement (.writeDoneTimer h i) := fun w _ e => lt0 w e
theorem Sys2Proof.Laws.Ranges.damperLevelFall (h t : Nat) : Statement (.damperLevelFall h t) := fun w _ e => lt1 w e
theorem Sys2Proof.Laws.Ranges.scheduleSlotOpen (h e slot : Nat) : Statement (.scheduleSlotOpen h e slot) := fun w _ e => lt2 w e
theorem Sys2Proof.Laws.Ranges.timeExchangeTick : Statement .timeExchangeTick := fun _ _ e => nomatch e
theorem Sys2Proof.Laws.Ranges.timeUnlockExpiry : Statement .timeUnlockExpiry := fun _ _ e => nomatch e
theorem Sys2Proof.Laws.Ranges.signatureForwardTick : Statement .signatureForwardTick := fun _ _ e => nomatch e
theorem Sys2Proof.Laws.Ranges.endpointTokenSend (h e : Nat) : Statement (.endpointTokenSend h e) := fun w _ e => lt1 w e
theorem Sys2Proof.Laws.Ranges.putTag (h e : Nat) : Statement (.putTag h e) := fun w _ e => lt1 w e
theorem Sys2Proof.Laws.Ranges.getTag (h e : Nat) : Statement (.getTag h e) := fun w _ e => lt1 w e
theorem Sys2Proof.Laws.Ranges.contributeTag (h e : Nat) : Statement (.contributeTag h e) := fun w _ e => lt1 w e
theorem Sys2Proof.Laws.Ranges.endpointCombineSum (h e tag : Nat) : Statement (.endpointCombineSum h e tag) := fun w _ e => lt2 w e
theorem Sys2Proof.Laws.Ranges.tokenArrival (h : Nat) (snd : UnitRef) (out : Nat) : Statement (.tokenArrival h snd out) := fun w _ e => lt2 w e
theorem Sys2Proof.Laws.Ranges.tokenAdmit (h v n : Nat) : Statement (.tokenAdmit h v n) := fun w _ e => lt2 w e
theorem Sys2Proof.Laws.Ranges.streamCredit (h : Nat) (snd : UnitRef) (out : Nat) : Statement (.streamCredit h snd out) := fun w _ e => lt2 w e
theorem Sys2Proof.Laws.Ranges.combiningContribution (h : Nat) (snd : UnitRef) (out : Nat) : Statement (.combiningContribution h snd out) := fun w _ e => lt2 w e
theorem Sys2Proof.Laws.Ranges.combiningSumComplete (h v n tag : Nat) : Statement (.combiningSumComplete h v n tag) := fun w _ e => lt3 w e
theorem Sys2Proof.Laws.Ranges.mma (h v slot tag : Nat) : Statement (.mma h v slot tag) := fun w _ e => lt3 w e
theorem Sys2Proof.Laws.Ranges.emit (h v slot tag : Nat) : Statement (.emit h v slot tag) := fun w _ e => lt3 w e
theorem Sys2Proof.Laws.Ranges.wload (h v slot tag : Nat) : Statement (.wload h v slot tag) := fun w _ e => lt3 w e
theorem Sys2Proof.Laws.Ranges.vfma (h v slot tag : Nat) : Statement (.vfma h v slot tag) := fun w _ e => lt3 w e
theorem Sys2Proof.Laws.Ranges.vbin (h v slot tag : Nat) : Statement (.vbin h v slot tag) := fun w _ e => lt3 w e
theorem Sys2Proof.Laws.Ranges.sfu (h v slot tag : Nat) : Statement (.sfu h v slot tag) := fun w _ e => lt3 w e
theorem Sys2Proof.Laws.Ranges.reduce (h v slot tag : Nat) : Statement (.reduce h v slot tag) := fun w _ e => lt3 w e
theorem Sys2Proof.Laws.Ranges.steer (h v slot tag : Nat) : Statement (.steer h v slot tag) := fun w _ e => lt3 w e
theorem Sys2Proof.Laws.Ranges.move (h v slot tag : Nat) : Statement (.move h v slot tag) := fun w _ e => lt3 w e
theorem Sys2Proof.Laws.Ranges.syncOpArrive (h v slot tag : Nat) : Statement (.syncOpArrive h v slot tag) := fun w _ e => lt3 w e
theorem Sys2Proof.Laws.Ranges.syncOpWait (h v slot tag : Nat) : Statement (.syncOpWait h v slot tag) := fun w _ e => lt3 w e
theorem Sys2Proof.Laws.Ranges.syncOpIncrement (h v slot tag : Nat) : Statement (.syncOpIncrement h v slot tag) := fun w _ e => lt3 w e
theorem Sys2Proof.Laws.Ranges.syncOpDecrement (h v slot tag : Nat) : Statement (.syncOpDecrement h v slot tag) := fun w _ e => lt3 w e
theorem Sys2Proof.Laws.Ranges.firingEnd (h v cycles : Nat) : Statement (.firingEnd h v cycles) := fun w _ e => lt2 w e
theorem Sys2Proof.Laws.Ranges.bankLoadComplete (h v bank : Nat) : Statement (.bankLoadComplete h v bank) := fun w _ e => lt2 w e
theorem Sys2Proof.Laws.Ranges.hsyncBatch (h obj n : Nat) : Statement (.hsyncBatch h obj n) := fun w _ e => lt1 w e
theorem Sys2Proof.Laws.Ranges.syncGrantArrival (h : Nat) (unit : UnitRef) (slot : Nat) : Statement (.syncGrantArrival h unit slot) := fun w _ e => lt1 w e
theorem Sys2Proof.Laws.Ranges.tagTimeout (h v n tag : Nat) : Statement (.tagTimeout h v n tag) := fun w _ e => lt3 w e
theorem Sys2Proof.Laws.Ranges.syncWaitTimeout (h : Nat) (unit : UnitRef) (slot : Nat) : Statement (.syncWaitTimeout h unit slot) := fun w _ e => lt1 w e
theorem Sys2Proof.Laws.Ranges.progressCountTrip (h : Nat) : Statement (.progressCountTrip h) := fun w _ e => lt0 w e
theorem Sys2Proof.Laws.Ranges.spillRoundComplete (h : Nat) : Statement (.spillRoundComplete h) := fun w _ e => lt0 w e
theorem Sys2Proof.Laws.Ranges.tileReset (h v : Nat) : Statement (.tileReset h v) := fun w _ e => lt1 w e
theorem Sys2Proof.Laws.Ranges.contextChange (h v c : Nat) : Statement (.contextChange h v c) := fun w _ e => lt2 w e
theorem Sys2Proof.Laws.Ranges.contextChangeComplete (h v : Nat) : Statement (.contextChangeComplete h v) := fun w _ e => lt1 w e
theorem Sys2Proof.Laws.Ranges.sampleTick (h : Nat) : Statement (.sampleTick h) := fun w _ e => lt0 w e
theorem Sys2Proof.Laws.Ranges.stokerLoadTag (h u : Nat) : Statement (.stokerLoadTag h u) := fun w _ e => lt1 w e
theorem Sys2Proof.Laws.Ranges.stokerStoreTag (h u : Nat) : Statement (.stokerStoreTag h u) := fun w _ e => lt1 w e
theorem Sys2Proof.Laws.Ranges.stokerRelayBatch (h u : Nat) : Statement (.stokerRelayBatch h u) := fun w _ e => lt1 w e
theorem Sys2Proof.Laws.Ranges.stokerCopyTag (h u : Nat) : Statement (.stokerCopyTag h u) := fun w _ e => lt1 w e
theorem Sys2Proof.Laws.Ranges.stokerTriggerTag (h u : Nat) : Statement (.stokerTriggerTag h u) := fun w _ e => lt1 w e
theorem Sys2Proof.Laws.Ranges.stokerWait (h u : Nat) : Statement (.stokerWait h u) := fun w _ e => lt1 w e
theorem Sys2Proof.Laws.Ranges.stokerPost (h u : Nat) : Statement (.stokerPost h u) := fun w _ e => lt1 w e
theorem Sys2Proof.Laws.Ranges.memoryRequest (h port : Nat) : Statement (.memoryRequest h port) := fun w _ e => lt1 w e
theorem Sys2Proof.Laws.Ranges.memoryReadReply (h : Nat) : Statement (.memoryReadReply h) := fun w _ e => lt0 w e
theorem Sys2Proof.Laws.Ranges.writeAck (h : Nat) : Statement (.writeAck h) := fun w _ e => lt0 w e
theorem Sys2Proof.Laws.Ranges.perBankRefresh (h sub bank : Nat) : Statement (.perBankRefresh h sub bank) := fun w _ e => lt2 w e
theorem Sys2Proof.Laws.Ranges.dqsTracking (h sub : Nat) : Statement (.dqsTracking h sub) := fun w _ e => lt1 w e
theorem Sys2Proof.Laws.Ranges.interfaceRetrain (h sub : Nat) (marginOk : Bool) : Statement (.interfaceRetrain h sub marginOk) := fun w _ e => lt1 w e
theorem Sys2Proof.Laws.Ranges.patrolScrub (h word : Nat) : Statement (.patrolScrub h word) := fun w _ e => lt0 w e
theorem Sys2Proof.Laws.Ranges.deferredRetirement (h : Nat) : Statement (.deferredRetirement h) := fun w _ e => lt0 w e
theorem Sys2Proof.Laws.Ranges.reshapeUnitMove (h : Nat) : Statement (.reshapeUnitMove h) := fun w _ e => lt0 w e
theorem Sys2Proof.Laws.Ranges.reshapeComplete (h : Nat) : Statement (.reshapeComplete h) := fun w _ e => lt0 w e
theorem Sys2Proof.Laws.Ranges.slotFill (h cls : Nat) : Statement (.slotFill h cls) := fun w _ e => lt1 w e
theorem Sys2Proof.Laws.Ranges.stepDispatch (h : Nat) : Statement (.stepDispatch h) := fun w _ e => lt0 w e
theorem Sys2Proof.Laws.Ranges.stepStartComplete (h : Nat) : Statement (.stepStartComplete h) := fun w _ e => lt0 w e
theorem Sys2Proof.Laws.Ranges.classPreempt (h : Nat) : Statement (.classPreempt h) := fun w _ e => lt0 w e
theorem Sys2Proof.Laws.Ranges.haltComplete (h : Nat) : Statement (.haltComplete h) := fun w _ e => lt0 w e
theorem Sys2Proof.Laws.Ranges.saveComplete (h : Nat) : Statement (.saveComplete h) := fun w _ e => lt0 w e
theorem Sys2Proof.Laws.Ranges.restoreComplete (h : Nat) : Statement (.restoreComplete h) := fun w _ e => lt0 w e
theorem Sys2Proof.Laws.Ranges.stepComplete (h : Nat) : Statement (.stepComplete h) := fun w _ e => lt0 w e
theorem Sys2Proof.Laws.Ranges.controlMismatch (h : Nat) (u : CtrlUnit) (inRetry : Bool) : Statement (.controlMismatch h u inRetry) := fun w _ e => lt1 w e
theorem Sys2Proof.Laws.Ranges.checkFlag (h : Nat) (site : CheckSite) : Statement (.checkFlag h site) := fun w _ e => lt1 w e
theorem Sys2Proof.Laws.Ranges.replayComplete (h : Nat) (value : W32) : Statement (.replayComplete h value) := fun w _ e => lt0 w e
theorem Sys2Proof.Laws.Ranges.refereeComplete (h : Nat) (value : W32) : Statement (.refereeComplete h value) := fun w _ e => lt0 w e
theorem Sys2Proof.Laws.Ranges.bucketLeak (h unit : Nat) : Statement (.bucketLeak h unit) := fun w _ e => lt0 w e
theorem Sys2Proof.Laws.Ranges.hearthFatal (h : Nat) (ev : FatalEvent) (permanent : Bool) : Statement (.hearthFatal h ev permanent) := fun w _ e => lt0 w e
theorem Sys2Proof.Laws.Ranges.scrubCfgVote (h : Nat) (votesAgree : Bool) : Statement (.scrubCfgVote h votesAgree) := fun w _ e => lt0 w e
theorem Sys2Proof.Laws.Ranges.ceSummary (h : Nat) : Statement (.ceSummary h) := fun w _ e => lt0 w e
theorem Sys2Proof.Laws.Ranges.hostPortFail : Statement .hostPortFail := fun _ _ e => nomatch e
theorem Sys2Proof.Laws.Ranges.failover : Statement .failover := fun _ _ e => nomatch e
theorem Sys2Proof.Laws.Ranges.commandProcessorsFail : Statement .commandProcessorsFail := fun _ _ e => nomatch e
theorem Sys2Proof.Laws.Ranges.alarm (source : AlarmSource) : Statement (.alarm source) := fun _ _ e => nomatch e
theorem Sys2Proof.Laws.Ranges.jtagInstruction (die ir : Nat) : Statement (.jtagInstruction die ir) := fun _ _ e => nomatch e
theorem Sys2Proof.Laws.Ranges.debugAccessExpiry : Statement .debugAccessExpiry := fun _ _ e => nomatch e
theorem Sys2Proof.Laws.Ranges.challengeExpiry : Statement .challengeExpiry := fun _ _ e => nomatch e
theorem Sys2Proof.Laws.Ranges.fruRead (offset : Nat) : Statement (.fruRead offset) := fun _ _ e => nomatch e
theorem Sys2Proof.Laws.Ranges.mctpControl (msg : List Byte) : Statement (.mctpControl msg) := fun _ _ e => nomatch e
theorem Sys2Proof.Laws.Ranges.setEndpointId (eid : Byte) : Statement (.setEndpointId eid) := fun _ _ e => nomatch e
theorem Sys2Proof.Laws.Ranges.pldmBase (msg : List Byte) : Statement (.pldmBase msg) := fun _ _ e => nomatch e
theorem Sys2Proof.Laws.Ranges.getPdrRepositoryInfo : Statement .getPdrRepositoryInfo := fun _ _ e => nomatch e
theorem Sys2Proof.Laws.Ranges.getPdr (handle : Nat) : Statement (.getPdr handle) := fun _ _ e => nomatch e
theorem Sys2Proof.Laws.Ranges.getSensorReading (id : Nat) : Statement (.getSensorReading id) := fun _ _ e => nomatch e
theorem Sys2Proof.Laws.Ranges.setNumericSensorEnable (id state : Nat) : Statement (.setNumericSensorEnable id state) := fun _ _ e => nomatch e
theorem Sys2Proof.Laws.Ranges.loadComplete (h ns : Nat) : Statement (.loadComplete h ns) := fun w _ e => lt0 w e
theorem Sys2Proof.Laws.Ranges.fwSwitchComplete (ok : Bool) : Statement (.fwSwitchComplete ok) := fun _ _ e => nomatch e
theorem Sys2Proof.Laws.Ranges.restoreTestComplete (h : Nat) (pass : Bool) : Statement (.restoreTestComplete h pass) := fun w _ e => lt0 w e
theorem Sys2Proof.Laws.Ranges.flueRefclkReturn : Statement .flueRefclkReturn := fun _ _ e => nomatch e
theorem Sys2Proof.Laws.Ranges.powerControllerFailure : Statement .powerControllerFailure := fun _ _ e => nomatch e
theorem Sys2Proof.Laws.Ranges.identityEngineFailure : Statement .identityEngineFailure := fun _ _ e => nomatch e
theorem Sys2Proof.Laws.Ranges.verificationEngineFailure : Statement .verificationEngineFailure := fun _ _ e => nomatch e
theorem Sys2Proof.Laws.Ranges.sidebandEndpointFailure : Statement .sidebandEndpointFailure := fun _ _ e => nomatch e
theorem Sys2Proof.Laws.Ranges.chimneyFault (h v : Nat) : Statement (.chimneyFault h v) := fun w _ e => lt1 w e
end

