-- ==== Sys2Proof/Machine/TileRegs.lean ====
section
/-! DEFINITION. The register window of a compute tile (R63, Tables 2-10 to 2-27): every register as a word, and what a read
or a write of the management path does. No command of the table is such an access. -/

namespace Sys2Proof.Machine

/-! ### Registers as words -/

/-- The good physical columns of a row among some, rising. -/
def goodCols (bad : Nat) (cols : List Nat) : List Nat := cols.filter (fun c => !nbit bad c)

/-- The physical column of a virtual column of a row (R20, R21). -/
def physCol (bad vcol : Nat) : Nat :=
  if vcol = 0 then (goodCols bad [0, 7]).headD 0
  else if vcol = 7 then 7
  else (goodCols bad [1, 2, 3, 4, 5, 6]).getD (vcol - 1) 0

/-- JD_TILE_ID (Table 2-11). -/
def regTileId (h : Nat) (hh : Hearth) (v : Nat) : Nat :=
  let row := v % 48 / 8
  let bad := nbits (dieOf hh (v / 48)).bad.toNat (8 * row + 7) (8 * row)
  (if isFn v then 2 else 1) * 2 ^ 60 + h * 2 ^ 56 + v / 48 * 2 ^ 52 + row * 2 ^ 48 + v % 8 * 2 ^ 44
    + physCol bad (v % 8) * 2 ^ 40

/-- JD_TILE_CTX (Table 2-12). -/
def regTileCtx (t : Tile) : Nat := t.valid.toNat * 2 ^ 8 + t.view % 4 * 2 ^ 4 + b2n t.switching.isSome * 2 ^ 2 + t.active % 4

/-- Tile states as codes (Table 2-14). -/
def tileCode : TileState → Nat
  | .idle => 0 | .configured => 1 | .running => 2 | .frozen => 3 | .resetting => 4 | .retired => 5

/-- What a condition of R74 that a slot lacks shows as (Table 2-13): a group or a bank that a check holds back shows as
retained for it (log 115). -/
def waitOf (t : Tile) (slot : Nat) (tag : W16) : Missing → Nat
  | .group n => if flaggedAt t n tag then 6 else 1
  | .credits _ => 2
  | .sync => 3
  | .bank => if (bankOfTile t (slotBank t slot)).release then 6 else 4
  | .order => 1

/-- WAIT: why no firing is in progress (Table 2-13). A firing whose outputs a flag holds is retained for its check. Of a tile
whose slots wait, the slot that R76 would choose first tells it. -/
def waitCode (hh : Hearth) (v : Nat) : Nat :=
  let t := tileAt hh v
  match t.cur with
  | some f => if f.resolved && t.flags != [] then 6 else 0
  | none =>
    if t.state = .frozen then 5 else
    match tileStep hh v with
    | none => 1
    | some st =>
      match chooseSlot (baseTag t st) (candidates t st) with
      | none => 1
      | some c => ((missing v t c.1 c.2).map (waitOf t c.1 c.2)).getD 1

/-- Tile cycles of a firing so far, at the step it runs at (R28, R29). -/
def fireCycles (hh : Hearth) (f : Firing) : Nat := sat 16 ((hh.timeBase - f.began) * f.clk / 16)

/-- JD_TILE_STATUS (Table 2-13). -/
def regTileStatus (hh : Hearth) (v : Nat) : Nat :=
  let t := tileAt hh v
  let (slot, tag, cyc) := match t.cur with
    | some f => (f.slot, f.tag.toNat, fireCycles hh f)
    | none => (0xFF, 0, 0)
  tileCode t.state * 2 ^ 61 + slot * 2 ^ 48 + tag * 2 ^ 32 + cyc * 2 ^ 16 + waitCode hh v

/-- JD_TILE_FAULT (Table 2-15). -/
def regTileFault (t : Tile) : Nat := t.fault.toNat % 1024 / 2 * 2

/-- Weight-bank states as codes (Table 2-5). -/
def bankCode : BankState → Nat
  | .empty => 0 | .loading => 1 | .ready => 2 | .inUse => 3

/-- One bank's half of JD_WBANK. -/
def bankHalf (b : Bank) : Nat := bankCode b.st * 2 ^ 30 + b.fmt.toNat * 2 ^ 27 + b.lines

/-- JD_WBANK (Table 2-18). -/
def regWbank (t : Tile) : Nat := bankHalf t.bank1 * 2 ^ 32 + bankHalf t.bank0

/-- The oldest entry of the match store: the first of the earliest arrival time. -/
def oldestMatch (t : Tile) : Option MatchEntry :=
  t.matches_.find? (fun m => t.matches_.all (fun q => decide (m.since ≤ q.since)))

/-- JD_MATCH_STATE (Table 2-19). -/
def regMatchState (hh : Hearth) (t : Tile) : Nat :=
  let old := match oldestMatch t with
    | some m => m.inp * 2 ^ 60 + m.tok.tag.toNat * 2 ^ 44 + sat 10 ((hh.timeBase - m.since) / 1000) * 2 ^ 32
    | none => 0
  old + t.highWater * 2 ^ 16 + t.matches_.length

/-- JD_IN_STATE[n] (Table 2-23). -/
def regInState (hh : Hearth) (v n : Nat) : Nat :=
  let x := inLive (tileAt hh v) n
  b2n x.closed * 2 ^ 63 + x.epoch.toNat * 2 ^ 59 + min 8 (x.queue.length - spilledQ hh v n) * 2 ^ 55
    + ((x.queue.head?.map (fun k : Tok => k.tag)).getD 0).toNat * 2 ^ 39 + x.opened.length * 2 ^ 32 + x.dropped

/-- JD_SYNC_STATE[n] (Table 2-25). -/
def regSyncState (t : Tile) (n : Nat) : Nat :=
  let o := mget {} t.syncs n
  o.gen.toNat * 2 ^ 48 + o.value * 2 ^ 32 + o.waiters * 2 ^ 24

/-! ### The window -/

/-- A per-context register of a configuration by its offset in the window (Table 2-10). Checker registers of a matrix tile
read zero. -/
def ctxReg (v : Nat) (c : TileCfg) (off : Nat) : Nat :=
  if 0x100 ≤ off ∧ off < 0x180 then (mget inReset c.ins ((off - 0x100) / 8)).toNat
  else if 0x180 ≤ off ∧ off < 0x200 then (mget 0 c.outs ((off - 0x180) / 8)).toNat
  else if 0x300 ≤ off ∧ off < 0x480 then (mget syncReset c.syncs ((off - 0x300) / 8)).toNat
  else if 0x600 ≤ off ∧ off < 0x700 then (mget 0 c.ops ((off - 0x600) / 8)).toNat
  else if 0x800 ≤ off ∧ off < 0x1000 then
    nbits (mget 0 c.params ((off - 0x800) / 64)).toNat (8 * (off % 64) + 63) (8 * (off % 64))
  else if isFn v ∧ 0x1000 ≤ off ∧ off < 0x1080 then (mget limReset c.lim ((off - 0x1000) / 8)).toNat
  else if isFn v ∧ 0x1080 ≤ off ∧ off < 0x1100 then (mget ctlReset c.ctl ((off - 0x1080) / 8)).toNat
  else 0

/-- The 64 bits at an 8-byte aligned offset of tile v's window: a register of the tile, or one of the context that VIEW names
(R63); reserved offsets read zero. -/
def tileReg (h : Nat) (hh : Hearth) (v off : Nat) : Nat :=
  let t := tileAt hh v
  match off with
  | 0x00 => regTileId h hh v
  | 0x08 => regTileCtx t
  | 0x10 => regTileStatus hh v
  | 0x18 => regTileFault t
  | 0x20 => t.fireCount
  | 0x28 => t.busyCycles
  | 0x30 => if isFn v then regMatchState hh t else regWbank t
  | _ =>
    if 0x200 ≤ off ∧ off < 0x280 then regInState hh v ((off - 0x200) / 8)
    else if 0x480 ≤ off ∧ off < 0x600 then regSyncState t ((off - 0x480) / 8)
    else ctxReg v (mget {} t.cfg t.view) off

/-- A read of the window: its value, and the hearth after it: a read of JD_MATCH_STATE clears HIGH_WATER (Table 2-19). -/
def tileRead (h : Nat) (hh : Hearth) (v off : Nat) : Nat × Hearth :=
  (tileReg h hh v off, if off = 0x30 ∧ isFn v then updTile hh v (fun t => { t with highWater := 0 }) else hh)

/-- A write of a register that is not per context, under its access codes: VIEW and ACTIVE of JD_TILE_CTX are RW, the bits of
JD_TILE_FAULT W1C, the others RO. -/
def tileWrite (hh : Hearth) (v off : Nat) (w : W64) : Hearth :=
  match off with
  | 0x08 =>
    writeActive (updTile hh v (fun t => { t with view := nbits w.toNat 5 4 })) v (nbits w.toNat 1 0)
  | 0x18 => updTile hh v (fun t => { t with fault := t.fault &&& ~~~(w.extractLsb' 0 16) })
  | _ => hh

end Sys2Proof.Machine
end

