-- ==== Sys2Proof/Tests/Slice0.lean ====
section
/-! SUPPORT. Tests: ill-formed commands that the check refuses, values that the spec states, and for every statement with
hypotheses a concrete state and operands that meet them together. -/

set_option Elab.async false

namespace Sys2Proof.Tests

open Sys2Proof.Machine

/-! ### Small states and packets -/

/-- Parameter bytes of a packet: (offset, value) pairs. -/
def par (l : List (Nat × Nat)) : BitVec 8064 :=
  BitVec.ofNat 8064 (l.foldl (fun a x => a + x.2 * 2 ^ (8 * (x.1 - 16))) 0)

/-- A packet at the head of ring 0. -/
def pk (l : List (Nat × Nat)) (hearths : W16 := 0) (flags : Byte := 0) (src : Src := .ring 0) : Pkt :=
  { src := src, flags := flags, slots := 1, hostTag := 7, hearths := hearths, workload := 5, rsvd := 0, par := par l }

/-- A module in OPERATIONAL with hearth 0 as given, ring pair 0 enabled with four unread slots, and one window. -/
def modul (hh : Hearth) : State :=
  { State.reset with
    mod := .operational, ringsOn := true
    power := { State.reset.power with perst := false, booted := true }
    regs :=
      { linkUp := true, cfgOk := true, cxl := true, sq := [(0, { base := 1, enable := true, tail := 4 })]
        cq := [(0, { base := 2, enable := true })], winBase := [(0, 1)], winLimit := [(0, 0xFFFFFFF000)] }
    trust := { State.reset.trust with engineOn := true }
    accounts := [(5, { known := true })]
    hearths := [(0, hh)] }

/-- A hearth in READY. -/
def ready : Hearth := { st := .ready, rail := true, clkStep := 64, everReady := true }

/-- The module with hearth 0 READY. -/
def host : State := modul ready

/-- A host buffer, as a command names it. -/
def buf : Nat := 0x100000

/-- Whether a command passes, as one Boolean. -/
def passes (s : State) (c : CmdSpec) (p : Pkt) : Bool :=
  startable s c.code p && slotsInWindow s p && (checks (takeSlots s p) c p (overruns s p)).isNone

/-- What passes is accepted. -/
theorem accepted_of_passes {s : State} {c : CmdSpec} {p : Pkt} (h : passes s c p = true) : Accepted s c p := by
  unfold passes at h
  cases h1 : startable s c.code p <;> cases h2 : slotsInWindow s p <;>
    cases h3 : checks (takeSlots s p) c p (overruns s p) <;> simp_all [Accepted]

/-! ### Command packets -/

theorem witness_nop : Accepted host nopSpec (pk []) := accepted_of_passes (by decide +kernel)

theorem witness_pad : startable host 2 (pk []) = true ∧ slotsInWindow host (pk []) = true ∧ overruns host (pk []) = false ∧
    1 ≤ (pk []).slots.toNat ∧ (pk []).slots.toNat ≤ 16 := by decide +kernel

theorem witness_identify : Accepted host identifySpec (pk []) := accepted_of_passes (by decide +kernel)

theorem witness_getHealth :
    Accepted host (getHealthSpec (pk [(0x10, buf), (0x18, 16448)] 1)) (pk [(0x10, buf), (0x18, 16448)] 1) ∧
    (let p := pk [(0x10, buf), (0x18, 16464), (0x1C, 1), (0x24, 1)] 1
     Accepted host (getHealthSpec p) p ∧ fld p 0x1C 1 % 2 = 1) :=
  ⟨accepted_of_passes (by decide +kernel), accepted_of_passes (by decide +kernel), by decide +kernel⟩

theorem witness_readCensus : Accepted host (readCensusSpec (pk [(0x10, buf), (0x18, 160)] 1)) (pk [(0x10, buf), (0x18, 160)] 1) :=
  accepted_of_passes (by decide +kernel)

theorem witness_readSignatures :
    Accepted host (readSignaturesSpec (pk [(0x10, buf), (0x18, 512), (0x20, 1)] 1)) (pk [(0x10, buf), (0x18, 512), (0x20, 1)] 1) :=
  accepted_of_passes (by decide +kernel)

theorem witness_clearSignatures : Accepted host clearSignaturesSpec (pk [(0x10, 1)] 1) := accepted_of_passes (by decide +kernel)

theorem witness_readLoadReport :
    Accepted host (readLoadReportSpec (pk [(0x18, buf), (0x20, 64)] 1)) (pk [(0x18, buf), (0x20, 64)] 1) :=
  accepted_of_passes (by decide +kernel)

theorem witness_auditLedgers :
    Accepted host (auditLedgersSpec (pk [(0x10, buf), (0x18, 384), (0x1C, 0xFF)] 1)) (pk [(0x10, buf), (0x18, 384), (0x1C, 0xFF)] 1) :=
  accepted_of_passes (by decide +kernel)

/-- A context that holds one section. -/
def ctx1 : CtxInfo := { valid := true, sections := [{}], region := { dieMask := 1, sliceGroups := 1, hsyncCount := 4, epCount := 4 } }

/-- A step of workload 5 on section 0 of context 0, with number 1, of four tags from 0. -/
def stepIn (st : StepState) : Step :=
  { id := 1, waiter := 90, report := 0x100000, workload := 5, ctx := 0, sec := 0, ran := 0, first := 0, n := 4, state := st }

/-- A configured tile of section 0. -/
def tile1 : Tile := { cfg := [(0, { section_ := 0, ops := [(31, 0)] })], valid := 1, state := .configured }

/-- A hearth with context 0 loaded. -/
def loaded : Hearth := { ready with st := .loaded, ctxs := [(0, ctx1)], tiles := [(0, tile1)] }

/-- A snapshot with nothing in it. -/
def snap0 : Snapshot :=
  { step := 1, tiles := [], threads := [], hsync := [], eps := [], cal := [], slices := [], spill := [], syncWords := [] }

/-- A hearth whose step is frozen by the host. -/
def frozenH : Hearth :=
  { loaded with st := .frozen, steps := [{ stepIn .frozen with byHost := true }], snap := some snap0 }

/-- A hearth whose step runs, with this tile at position 0. -/
def running (t : Tile) : Hearth :=
  { loaded with st := .running, steps := [stepIn .running], tiles := [(0, { t with state := .running })] }

theorem witness_fwStage_rejected :
    let p := pk [(0x10, buf), (0x18, 512)]
    Accepted host (fwStageSpec p) p ∧ host.trust.verifyFailed = false ∧
      ∃ bs, bufRead (begun host (fwStageSpec p) p) buf 512 = some bs ∧
        verifyImage (bufTouch (begun host (fwStageSpec p) p) buf 512) bs 0 = some 1 :=
  ⟨accepted_of_passes (by decide +kernel), rfl, _, rfl, by decide +kernel⟩

theorem witness_fwStage_failed :
    let s := { host with trust := { host.trust with verifyFailed := true } }
    let p := pk [(0x10, buf), (0x18, 512)]
    Accepted s (fwStageSpec p) p ∧ (begun s (fwStageSpec p) p).trust.verifyFailed = true :=
  ⟨accepted_of_passes (by decide +kernel), by decide +kernel⟩

theorem witness_fwActivate :
    let s := { host with flash := { host.flash with hearthStaged := true } }
    Accepted s (fwActivateSpec (pk [(0x10, 1)] 1) s) (pk [(0x10, 1)] 1) ∧ s.flash.writable = true ∧
      (begun s (fwActivateSpec (pk [(0x10, 1)] 1) s) (pk [(0x10, 1)] 1)).flash.writable = true :=
  ⟨accepted_of_passes (by decide +kernel), rfl, by decide +kernel⟩

/-- LOAD_IMAGE of hearth 0 from address 0. -/
def loadPk (n : Nat) : Pkt := pk [(0x12, 1), (0x15, 1), (0x28, n)] 1

/-- The four bytes of MAGIC and the format version of an image at address 0. -/
def withImage : Hearth := hWrite ready 0 [0x48, 0x59, 0x4B, 0x44, 2]

theorem witness_loadImage_fatal : Accepted host (loadImageSpec (loadPk 256) host) (loadPk 256) ∧ named (loadPk 256) = [0] ∧
    fatalLoad (seenAt (hearthOf host 0) 0) 0 256 = some 2 :=
  ⟨accepted_of_passes (by decide +kernel), by decide +kernel, by decide +kernel⟩

theorem witness_loadImage : Accepted (modul withImage) (loadImageSpec (loadPk 256) (modul withImage)) (loadPk 256) ∧
    fatalLoad (seenAt (hearthOf (modul withImage) 0) 0) 0 256 = none :=
  ⟨accepted_of_passes (by decide +kernel), by decide +kernel⟩

theorem witness_dropImage : Accepted host (dropImageSpec (pk [] 1) host) (pk [] 1) := accepted_of_passes (by decide +kernel)

/-- LAUNCH_STEP of four tags in hearth 0. -/
def launchPk : Pkt := pk [(0x18, 4), (0x20, buf), (0x28, 128)] 1

theorem witness_launchStep : Accepted (modul loaded) (launchStepSpec launchPk (modul loaded)) launchPk ∧ named launchPk = [0] :=
  ⟨accepted_of_passes (by decide +kernel), by decide +kernel⟩

theorem witness_preemptStep : Accepted (modul (running tile1)) (preemptSpec (pk [] 1) (modul (running tile1))) (pk [] 1) ∧
    fld (pk [] 1) 0x10 1 ≠ 1 ∧ fld (pk [] 1) 0x10 1 ≠ 2 :=
  ⟨accepted_of_passes (by decide +kernel), by decide +kernel, by decide +kernel⟩

/-- A PREEMPT_STEP of a round, as a child receives it in COMMAND cells. -/
def roundPk (r : Nat) : Pkt := pk [(0x10, r)] 1 0 .parent

/-- The module with that command in its tree hearth's cells. -/
def childOf (hh : Hearth) (code : Nat) (p : Pkt) : State :=
  let b := pktBytes code p
  { modul hh with
    role := { State.reset.role with treeHearth := 0 }
    regs := { (modul hh).regs with sq := [] }
    cmdCells := [(0, [BitVec.ofNat 256 (ofLE (b.take 32)), BitVec.ofNat 256 (ofLE ((b.drop 32).take 32))])] }

theorem witness_preemptStepHalt :
    let s := childOf (running tile1) 0x41 (roundPk 1)
    Accepted s (preemptSpec (roundPk 1) s) (roundPk 1) ∧ fld (roundPk 1) 0x10 1 = 1 :=
  ⟨accepted_of_passes (by decide +kernel), by decide +kernel⟩

theorem witness_preemptStepSave :
    let s := childOf (running tile1) 0x41 (roundPk 2)
    Accepted s (preemptSpec (roundPk 2) s) (roundPk 2) ∧ fld (roundPk 2) 0x10 1 = 2 :=
  ⟨accepted_of_passes (by decide +kernel), by decide +kernel⟩

theorem witness_resumeStep : Accepted (modul frozenH) (resumeStepSpec (pk [] 1) (modul frozenH)) (pk [] 1) :=
  accepted_of_passes (by decide +kernel)

theorem witness_abortStep : Accepted host abortStepSpec (pk [] 1) := accepted_of_passes (by decide +kernel)

/-- SAVE_STATE and RESTORE_STATE of hearth 0. -/
def savePk : Pkt := pk [(0x10, buf), (0x18, saveBytes)] 1

theorem witness_saveState : Accepted (modul frozenH) (saveStateSpec savePk (modul frozenH)) savePk ∧
    hostFrozen (hearthOf (modul frozenH) 0) 5 = some { stepIn .frozen with byHost := true } ∧
    (hearthOf (modul frozenH) 0).snap = some snap0 ∧ inWindow (modul frozenH).regs (hostAddr buf) saveBytes = true :=
  ⟨accepted_of_passes (by decide +kernel), by decide +kernel, rfl, by decide +kernel⟩

/-- What a save of that step left, with every byte of its buffer free. -/
def saved : SaveImage :=
  { serial := 0, hearth := 0, census := census loaded, ctx := 0, digest := 0, step := stepIn .frozen, snap := snap0
    wild := [(0, saveBytes, 3)] }

theorem witness_restoreState :
    let s := { modul loaded with saves := [(buf, saved)], hostWild := [(buf, buf + saveBytes, 3)] }
    Accepted s (restoreStateSpec savePk s) savePk ∧ savedIn (begun s (restoreStateSpec savePk s) savePk) buf = some saved :=
  ⟨accepted_of_passes (by decide +kernel), by decide +kernel⟩

theorem witness_copy : Accepted host (copySpec (pk [(0x10, buf), (0x18, 2 ^ 63 + 4096), (0x20, 64)]))
    (pk [(0x10, buf), (0x18, 2 ^ 63 + 4096), (0x20, 64)]) := accepted_of_passes (by decide +kernel)

theorem witness_copy_remote :
    let p := pk [(0x10, 2 ^ 63), (0x18, 4096), (0x20, 32), (0x28, 2 ^ 31 + 9)]
    Accepted host (copySpec p) p ∧ nbit (fld p 0x28 4) 31 = true :=
  ⟨accepted_of_passes (by decide +kernel), by decide +kernel⟩

theorem witness_fill : Accepted host (fillSpec (pk [(0x10, buf), (0x18, 3), (0x20, 0xAB)])) (pk [(0x10, buf), (0x18, 3), (0x20, 0xAB)]) :=
  accepted_of_passes (by decide +kernel)

theorem witness_fillOfHostMemory : spaceOf buf = false ∧ Memory.wf host.hostMem = true := by decide +kernel

theorem witness_setClassPolicy : Accepted host (setClassPolicySpec (pk [(0x10, 1)]) host) (pk [(0x10, 1)]) :=
  accepted_of_passes (by decide +kernel)

theorem witness_setShares : Accepted host (setSharesSpec (pk [(0x12, 7)]) host) (pk [(0x12, 7)]) ∧ fld (pk [(0x12, 7)]) 0x10 1 ≠ 1 :=
  ⟨accepted_of_passes (by decide +kernel), by decide +kernel⟩

theorem witness_setSharesRemove : Accepted host (setSharesRemoveSpec (pk [(0x10, 1)]) host) (pk [(0x10, 1)]) ∧
    fld (pk [(0x10, 1)]) 0x10 1 = 1 :=
  ⟨accepted_of_passes (by decide +kernel), by decide +kernel⟩

theorem witness_setRole : Accepted host (setRoleSpec (pk [(0x10, 1), (0x1A, 1)]) host) (pk [(0x10, 1), (0x1A, 1)]) :=
  accepted_of_passes (by decide +kernel)

theorem witness_setRoutes :
    let p := pk [(0x10, 1), (0x14, 2 ^ 31 + 9)] 1
    let q := pk [(0x10, 4), (0x20, 1000), (0x22, 1)] 1
    Accepted host (setRoutesSpec p host) p ∧ nbit (fld p 0x10 1) 0 = true ∧
      Accepted host (setRoutesSpec q host) q ∧ nbit (fld q 0x10 1) 2 = true :=
  ⟨accepted_of_passes (by decide +kernel), by decide +kernel, accepted_of_passes (by decide +kernel), by decide +kernel⟩

/-- A command whose own check finds nothing passes when it passes without that check. -/
theorem passes_of_own {s : State} {c : CmdSpec} {p : Pkt} (h : passes s { c with own := none } p = true) (o : c.own = none) :
    passes s c p = true := by
  cases c
  simp only at o
  subst o
  exact h

/-- A host buffer that nothing has written holds zeros. -/
theorem host_zero (a n : Nat) : ∀ b ∈ hostBytes host a n, b = 0 := by
  intro b hb
  unfold hostBytes rdBytes at hb
  obtain ⟨i, -, rfl⟩ := List.mem_map.mp hb
  rfl

/-- Bytes of zero are the number zero. -/
theorem ofLE_zero (l : List Byte) (h : ∀ b ∈ l, b = 0) : ofLE l = 0 := by
  induction l with
  | nil => rfl
  | cons b l ih =>
    show b.toNat + 256 * ofLE l = 0
    rw [h b (by simp), ih (fun x hx => h x (by simp [hx]))]
    rfl

theorem witness_flueUp : Accepted host (flueSpec 0x72 (pk [(0x10, 1)] 1)) (pk [(0x10, 1)] 1) := accepted_of_passes (by decide +kernel)

theorem witness_flueDown : Accepted host (flueSpec 0x73 (pk [(0x10, 1)] 1)) (pk [(0x10, 1)] 1) := accepted_of_passes (by decide +kernel)

theorem witness_syncTimeSet : Accepted host (timeSpec host (pk [(0x18, 99)]) 0) (pk [(0x18, 99)]) ∧ fld (pk [(0x18, 99)]) 0x10 1 ≠ 1 :=
  ⟨accepted_of_passes (by decide +kernel), by decide +kernel⟩

theorem witness_syncTimeSlew : Accepted host (timeSpec host (pk [(0x10, 1), (0x18, 99)]) 1) (pk [(0x10, 1), (0x18, 99)]) ∧
    fld (pk [(0x10, 1), (0x18, 99)]) 0x10 1 = 1 :=
  ⟨accepted_of_passes (by decide +kernel), by decide +kernel⟩

theorem witness_retireUnit :
    let p := pk [(0x10, 1)] 1
    let out := modul { ready with dies := [(0, { down := true })] }
    Accepted host (retireUnitSpec p host) p ∧
      isOut (hearthOf (begun host (retireUnitSpec p host) p) (named1 p)) (unitRefOf p) = false ∧
      Accepted out (retireUnitSpec p out) p ∧
      isOut (hearthOf (begun out (retireUnitSpec p out) p) (named1 p)) (unitRefOf p) = true :=
  ⟨accepted_of_passes (by decide +kernel), by decide +kernel, accepted_of_passes (by decide +kernel), by decide +kernel⟩

/-- A hearth whose slice group 3 is retired. -/
def sliceGone : Hearth := { ready with slicesOut := (List.range 16).map (48 + ·) }

theorem witness_restoreUnit :
    let p := pk [(0x10, 3), (0x14, 50)] 1
    Accepted (modul sliceGone) (restoreUnitSpec p (modul sliceGone)) p :=
  accepted_of_passes (by decide +kernel)

theorem witness_restoreUnit_hearth :
    let hh : Hearth := { ready with st := .retired, retiredWhole := true }
    Accepted (modul hh) (restoreUnitSpec (pk [] 1) (modul hh)) (pk [] 1) ∧ unitRefOf (pk [] 1) = .hearth :=
  ⟨accepted_of_passes (by decide +kernel), by decide +kernel⟩

theorem witness_resetHearth : Accepted host (resetHearthSpec (pk [] 1)) (pk [] 1) := accepted_of_passes (by decide +kernel)

theorem witness_moduleWarmReset : Accepted host (moduleWarmResetSpec (pk [(0x10, 1)])) (pk [(0x10, 1)]) :=
  accepted_of_passes (by decide +kernel)

theorem witness_setPowerCap : Accepted host (setPowerCapSpec (pk [(0x10, 1500)])) (pk [(0x10, 1500)]) ∧
    Accepted host (setPowerCapSpec (pk [(0x10, 4800)])) (pk [(0x10, 4800)]) :=
  ⟨accepted_of_passes (by decide +kernel), accepted_of_passes (by decide +kernel)⟩

theorem witness_sampleStart : Accepted host (sampleSpec (pk [(0x11, 8)] 1) 0) (pk [(0x11, 8)] 1) ∧ fld (pk [(0x11, 8)] 1) 0x10 1 = 0 :=
  ⟨accepted_of_passes (by decide +kernel), by decide +kernel⟩

theorem witness_sampleStop : Accepted host (sampleSpec (pk [(0x10, 1)] 1) 1) (pk [(0x10, 1)] 1) ∧ fld (pk [(0x10, 1)] 1) 0x10 1 = 1 :=
  ⟨accepted_of_passes (by decide +kernel), by decide +kernel⟩

theorem witness_sampleRead :
    let p := pk [(0x10, 2), (0x18, 1), (0x20, buf), (0x28, 64)] 1
    Accepted host (sampleSpec p 2) p ∧ fld p 0x10 1 = 2 :=
  ⟨accepted_of_passes (by decide +kernel), by decide +kernel⟩

theorem witness_calibrationRead : Accepted host (calSpec (pk [] 1) 0) (pk [] 1) ∧ fld (pk [] 1) 0x10 1 = 0 :=
  ⟨accepted_of_passes (by decide +kernel), by decide +kernel⟩

theorem witness_calibrationWrite :
    let p := pk [(0x10, 1), (0x14, 1), (0x18, 0x0060000000000000)] 1
    Accepted host (calibrationWriteSpec p host) p ∧ fld p 0x10 1 = 1 :=
  ⟨accepted_of_passes (by decide +kernel), by decide +kernel⟩

theorem witness_calibrationReset :
    let p := pk [(0x10, 2), (0x14, 1)] 1
    Accepted host (calSpec p 2) p ∧ fld p 0x10 1 = 2 :=
  ⟨accepted_of_passes (by decide +kernel), by decide +kernel⟩

/-- ATTEST with a buffer of the length of a statement. -/
def attestPk : Pkt := pk [(0x30, buf), (0x38, 8280)]

theorem witness_attest :
    let s := { host with trust := { host.trust with engineOn := false } }
    Accepted host (attestSpec attestPk) attestPk ∧ (begun host (attestSpec attestPk) attestPk).trust.engineOn = true ∧
      Accepted s (attestSpec attestPk) attestPk ∧ (begun s (attestSpec attestPk) attestPk).trust.engineOn = false ∧
      (begun s (attestSpec attestPk) attestPk).trust.engineFailed = false ∧
      (begun s (attestSpec attestPk) attestPk).fuses.kill = false :=
  ⟨accepted_of_passes (by decide +kernel), by decide +kernel, accepted_of_passes (by decide +kernel), by decide +kernel⟩

/-- An authorised command whose block lies at the buffer. -/
def authPk (l : List (Nat × Nat)) : Pkt := pk ([(0x18, buf), (0x20, 5500)] ++ l)

/-- Host memory with the MAGIC, OPCODE and DURATION of an authorisation block at the buffer, for device 0 and the challenge 0. -/
def authMem (opcode dur : Nat) : State := hostWrite host buf (leBytes 4 0x55415948 ++ leBytes 2 opcode ++ zeros 26 ++ leBytes 4 dur)

/-- The module for which that block's key is the root's, with the challenge 0 live. -/
def authHost (opcode dur : Nat) : State :=
  { authMem opcode dur with
    fuses := { host.fuses with rootHash := Config.sha256 (cut (hostBytes (authMem opcode dur) buf 5500) 0x28 60) }
    trust := { host.trust with challenge := some 0 } }

/-- An authorisation holds when its block has its form, its key is the root's, its signature verifies, it names the command and
the device, and it answers the live challenge. -/
theorem auth_holds {s : State} {bs : List Byte} {op : Nat} {scope : Option Nat} {timed : Bool} {c : BitVec 128}
    (m : cutNum bs 0 4 = 0x55415948) (z1 : cutNum bs 0x24 4 = 0) (z2 : cutNum bs 0x64 4 = 0)
    (sc : (match scope with | some x => cutNum bs 6 2 == x | none => decide (cutNum bs 6 2 < 1024)) = true)
    (du : (if timed then decide (1 ≤ cutNum bs 0x20 4) && decide (cutNum bs 0x20 4 ≤ 86400) else cutNum bs 0x20 4 == 0) = true)
    (h2 : s.fuses.ownerEn = false) (h3 : Config.sha256 (cut bs 0x28 60) = s.fuses.rootHash)
    (h4 : Config.hssVerify (cut bs 0x28 60) (bs.take 0x68) (cut bs 0x68 5396) = true)
    (h5 : cutNum bs 4 2 = op) (h6 : cutNum bs 8 8 = s.fuses.serial.toNat) (h7 : s.trust.challenge = some c)
    (h8 : cutNum bs 0x10 16 = c.toNat) : authFails s bs op scope timed = none := by
  unfold authFails
  cases scope <;> cases timed <;> simp_all

/-- A buffer in host memory that lies in a window is read from it. -/
theorem host_read {s b : State} {w a n : Nat} (h0 : hostAddr w = a) (h1 : spaceOf w = false) (h2 : inWindow b.regs a n = true)
    (h3 : b.hostMem = s.hostMem) (h4 : b.hostWild = s.hostWild) : bufRead b w n = some (hostBytes s a n) := by
  unfold bufRead hostBytes
  rw [h0, h1, h2, h3, h4]
  rfl

/-- Reading a buffer in host memory changes nothing. -/
theorem host_touch {w : Nat} (s : State) (n : Nat) (h : spaceOf w = false) : bufTouch s w n = s := by
  unfold bufTouch copyRead
  simp [h]

theorem witness_setRoutes_tables :
    let q := pk [(0x10, 2), (0x18, buf)] 1
    Accepted host (setRoutesSpec q host) q ∧ nbit (fld q 0x10 1) 1 = true := by
  refine ⟨accepted_of_passes (passes_of_own (by decide +kernel) ?_), by decide +kernel⟩
  have f : fld (pk [(0x10, 2), (0x18, buf)] 1) 0x10 1 = 2 := by decide +kernel
  have r : bufRead host (fld (pk [(0x10, 2), (0x18, buf)] 1) 0x18 8) 65792 = some (hostBytes host buf 65792) :=
    host_read (by decide +kernel) (by decide +kernel) (by decide +kernel) rfl rfl
  have t : nbit 2 1 = true := by decide
  simp only [setRoutesSpec, f, r, t, if_true, Option.map_eq_none_iff, List.findIdx?_eq_none_iff, List.mem_map]
  rintro x ⟨i, -, rfl⟩
  rw [ofLE_zero _ fun b hb => host_zero _ _ b (List.mem_of_mem_drop (List.mem_of_mem_take hb))]
  decide

/-- The root's digest in that module. -/
theorem auth_root (opcode dur : Nat) :
    (authHost opcode dur).fuses.rootHash = Config.sha256 (cut (hostBytes (authMem opcode dur) buf 5500) 0x28 60) := rfl

/-- The signature of the block in that module verifies. The cryptography is uninterpreted (log 9), so this is a premise. -/
def Signed (opcode dur : Nat) : Prop :=
  let bs := hostBytes (authMem opcode dur) buf 5500
  Config.hssVerify (cut bs 0x28 60) (bs.take 0x68) (cut bs 0x68 5396) = true

theorem witness_setAlarmPolicy (hv : Signed 0xA1 0) :
    let s := authHost 0xA1 0
    let p := authPk []
    let b := begun s (setAlarmPolicySpec p s) p
    Accepted s (setAlarmPolicySpec p s) p ∧ ∃ bs, bufRead b (fld p 0x18 8) 5500 = some bs ∧
      authFails (bufTouch b (fld p 0x18 8) 5500) bs 0x00A1 (some (fld p 0x10 1)) false = none := by
  refine ⟨accepted_of_passes (by decide +kernel), hostBytes (authMem 0xA1 0) buf 5500, host_read (by decide +kernel)
    (by decide +kernel) (by decide +kernel) (by decide +kernel) (by decide +kernel), ?_⟩
  rw [host_touch _ _ (by decide +kernel)]
  exact auth_holds (c := 0) (by decide +kernel) (by decide +kernel) (by decide +kernel) (by decide +kernel) (by decide +kernel)
    (by decide +kernel) (by rw [(begun_keeps _ _ _).2.1]; exact (auth_root _ _).symm) hv
    (by decide +kernel) (by decide +kernel) (by decide +kernel) (by decide +kernel)

theorem witness_setAlarmPolicy_rejected :
    let s := authHost 0xA1 1
    let p := authPk []
    let b := begun s (setAlarmPolicySpec p s) p
    Accepted s (setAlarmPolicySpec p s) p ∧ ∃ bs, bufRead b (fld p 0x18 8) 5500 = some bs ∧
      authFails (bufTouch b (fld p 0x18 8) 5500) bs 0x00A1 (some (fld p 0x10 1)) false = some 1 :=
  ⟨accepted_of_passes (by decide +kernel), hostBytes (authMem 0xA1 1) buf 5500, host_read (by decide +kernel)
    (by decide +kernel) (by decide +kernel) (by decide +kernel) (by decide +kernel), by decide +kernel⟩

/-- ZEROIZE with its guard word. -/
def zeroizePk : Pkt := authPk [(0x10, 0x5A45524F495A4521)]

theorem witness_zeroize (hv : Signed 0xA3 0) :
    let s := authHost 0xA3 0
    let p := zeroizePk
    let b := begun s (zeroizeSpec p) p
    Accepted s (zeroizeSpec p) p ∧ ∃ bs, bufRead b (fld p 0x18 8) 5500 = some bs ∧
      authFails (bufTouch b (fld p 0x18 8) 5500) bs 0x00A3 (some 0) false = none := by
  refine ⟨accepted_of_passes (by decide +kernel), hostBytes (authMem 0xA3 0) buf 5500, host_read (by decide +kernel)
    (by decide +kernel) (by decide +kernel) (by decide +kernel) (by decide +kernel), ?_⟩
  rw [host_touch _ _ (by decide +kernel)]
  exact auth_holds (c := 0) (by decide +kernel) (by decide +kernel) (by decide +kernel) (by decide +kernel) (by decide +kernel)
    (by decide +kernel) (by rw [(begun_keeps _ _ _).2.1]; exact (auth_root _ _).symm) hv
    (by decide +kernel) (by decide +kernel) (by decide +kernel) (by decide +kernel)

theorem witness_zeroize_rejected :
    let s := host
    let p := zeroizePk
    let b := begun s (zeroizeSpec p) p
    Accepted s (zeroizeSpec p) p ∧ ∃ bs, bufRead b (fld p 0x18 8) 5500 = some bs ∧
      authFails (bufTouch b (fld p 0x18 8) 5500) bs 0x00A3 (some 0) false = some 1 :=
  ⟨accepted_of_passes (by decide +kernel), hostBytes (host) buf 5500, host_read (by decide +kernel) (by decide +kernel)
    (by decide +kernel) (by decide +kernel) (by decide +kernel), by decide +kernel⟩

theorem witness_debugUnlockResponse (hv : Signed 0xA2 60) :
    let s := authHost 0xA2 60
    let p := authPk [(0x10, 1)]
    let b := begun s (debugSpec p true) p
    Accepted s (debugSpec p true) p ∧ fld p 0x10 1 = 1 ∧ ∃ bs, bufRead b (fld p 0x18 8) 5500 = some bs ∧
      authFails (bufTouch b (fld p 0x18 8) 5500) bs 0x00A2 none true = none := by
  refine ⟨accepted_of_passes (by decide +kernel), by decide +kernel, hostBytes (authMem 0xA2 60) buf 5500, host_read
    (by decide +kernel) (by decide +kernel) (by decide +kernel) (by decide +kernel) (by decide +kernel), ?_⟩
  rw [host_touch _ _ (by decide +kernel)]
  exact auth_holds (c := 0) (by decide +kernel) (by decide +kernel) (by decide +kernel) (by decide +kernel) (by decide +kernel)
    (by decide +kernel) (by rw [(begun_keeps _ _ _).2.1]; exact (auth_root _ _).symm) hv
    (by decide +kernel) (by decide +kernel) (by decide +kernel) (by decide +kernel)

theorem witness_debugUnlockResponse_rejected :
    let s := host
    let p := authPk [(0x10, 1)]
    let b := begun s (debugSpec p true) p
    Accepted s (debugSpec p true) p ∧ fld p 0x10 1 = 1 ∧ ∃ bs, bufRead b (fld p 0x18 8) 5500 = some bs ∧
      authFails (bufTouch b (fld p 0x18 8) 5500) bs 0x00A2 none true = some 1 :=
  ⟨accepted_of_passes (by decide +kernel), by decide +kernel, hostBytes (host) buf 5500, host_read (by decide +kernel)
    (by decide +kernel) (by decide +kernel) (by decide +kernel) (by decide +kernel), by decide +kernel⟩

theorem witness_debugUnlockChallenge : Accepted host (debugSpec (pk []) false) (pk []) ∧ fld (pk []) 0x10 1 ≠ 1 :=
  ⟨accepted_of_passes (by decide +kernel), by decide +kernel⟩

/-- A digest and the bytes of a firmware image for the module with an empty body: MAGIC, then the body's digest. -/
def imageDigest : Nat := (Config.sha256 []).toNat

/-- The module with that image at the buffer, and the image's root key. -/
def imageHost : State :=
  let s := { host with hostMem := [(buf, 0x48), (buf + 1, 0x59), (buf + 2, 0x46), (buf + 3, 0x57)]
    ++ (List.range 32).map (fun i => (buf + 16 + i, (leBytes 32 imageDigest).getD i 0)) }
  { s with fuses := { s.fuses with rootHash := Config.sha256 (hostBytes s (buf + 0x30) 60) } }

/-- FW_STAGE of that image. -/
def imagePk : Pkt := pk [(0x10, buf), (0x18, 5652)]

/-- Part of a run of host bytes. -/
theorem cut_hostBytes (s : State) (a n lo k : Nat) (h : lo + k ≤ n) : cut (hostBytes s a n) lo k = hostBytes s (a + lo) k := by
  unfold cut hostBytes rdBytes
  apply List.ext_getElem
  · simp; omega
  · intro i h1 h2
    simp [Nat.add_assoc]

/-- A little-endian number reads back. -/
theorem ofLE_leBytes (n v : Nat) : ofLE (leBytes n v) = v % 256 ^ n := by
  induction n generalizing v with
  | zero => simp [leBytes, ofLE, Nat.mod_one]
  | succ n ih =>
    show (BitVec.ofNat 8 v).toNat + 256 * ofLE (leBytes n (v / 256)) = _
    rw [ih, BitVec.toNat_ofNat, (Nat.pow_succ' : 256 ^ (n + 1) = 256 * 256 ^ n), Nat.mod_mul]

/-- The digest in that image is its body's. -/
theorem image_digest : ofLE (hostBytes imageHost (buf + 0x10) 32) = imageDigest := by
  have h : hostBytes imageHost (buf + 0x10) 32 = leBytes 32 imageDigest := rfl
  rw [h, ofLE_leBytes]
  exact Nat.mod_eq_of_lt (Config.sha256 []).isLt

/-- An image verifies that has its form, the root's key and signature, its body's digest, and no owner to satisfy. -/
theorem image_holds {s : State} {bs : List Byte} {t : Nat} (h1 : headerOk bs t = true) (h2 : s.fuses.ownerEn = false)
    (h3 : Config.sha256 (cut bs 0x30 60) = s.fuses.rootHash)
    (h4 : Config.hssVerify (cut bs 0x30 60) (cut bs 0 256) (cut bs 256 5396) = true)
    (h5 : Config.sha256 (cut bs (bodyAt bs) (cutNum bs 0x0C 4)) = BitVec.ofNat 256 (cutNum bs 0x10 32))
    (h6 : s.fuses.rollbackModule = 0 ∧ s.fuses.rollbackHearth = 0) : verifyImage s bs t = none := by
  unfold verifyImage
  simp [h1, h2, h3, h4, h5, h6]

/-- The image at the buffer in that module verifies, where its signature does. -/
theorem image_verifies {s : State} (h : s.fuses = imageHost.fuses) (hv : Config.hssVerify (hostBytes imageHost (buf + 0x30) 60)
      (hostBytes imageHost buf 256) (hostBytes imageHost (buf + 256) 5396) = true) :
    verifyImage s (hostBytes imageHost buf 5652) 0 = none := by
  have z : cutNum (hostBytes imageHost buf 5652) 0x0C 4 = 0 := by
    unfold cutNum; rw [cut_hostBytes _ _ _ _ _ (by omega)]; decide +kernel
  refine image_holds (by decide +kernel) (by rw [h]; rfl) ?_ ?_ ?_ (by rw [h]; exact ⟨rfl, rfl⟩)
  · rw [h, cut_hostBytes _ _ _ _ _ (by omega)]; rfl
  · rw [cut_hostBytes _ _ _ _ _ (by omega), cut_hostBytes _ _ _ _ _ (by omega), cut_hostBytes _ _ _ _ _ (by omega)]
    exact hv
  · rw [z]
    unfold cutNum
    rw [cut_hostBytes _ _ _ 0x10 32 (by omega), image_digest]
    show Config.sha256 (List.take 0 _) = _
    rw [List.take_zero]
    exact (BitVec.ofNat_toNat _ _).symm ▸ rfl

theorem witness_fwStage (hv : Config.hssVerify (hostBytes imageHost (buf + 0x30) 60) (hostBytes imageHost buf 256)
      (hostBytes imageHost (buf + 256) 5396) = true) :
    let s := imageHost
    let b := begun s (fwStageSpec imagePk) imagePk
    let r := bufTouch b (fld imagePk 0x10 8) (fld imagePk 0x18 4)
    Accepted s (fwStageSpec imagePk) imagePk ∧ b.trust.verifyFailed = false ∧
      (clearSig r).activation.any (fun a => a.target == fld imagePk 0x1C 1) = false ∧
      (clearSig r).flash.writable = true ∧ ∃ bs, bufRead b (fld imagePk 0x10 8) (fld imagePk 0x18 4) = some bs ∧
        verifyImage r bs (fld imagePk 0x1C 1) = none := by
  refine ⟨accepted_of_passes (by decide +kernel), by decide +kernel, by decide +kernel, by decide +kernel,
    hostBytes imageHost buf 5652, ?_, ?_⟩
  · rw [show fld imagePk 0x18 4 = 5652 by decide +kernel]
    exact host_read (by decide +kernel) (by decide +kernel) (by decide +kernel) rfl (by decide +kernel)
  · rw [host_touch _ _ (by decide +kernel), show fld imagePk 0x1C 1 = 0 by decide +kernel]
    exact image_verifies (begun_keeps _ _ _).2.1 hv

theorem witness_fwStage_waits (hv : Config.hssVerify (hostBytes imageHost (buf + 0x30) 60) (hostBytes imageHost buf 256)
      (hostBytes imageHost (buf + 256) 5396) = true) :
    let s := { imageHost with activation := [{ cmd := 1, target := 0, left := [0], switched := 0 }] }
    let b := begun s (fwStageSpec imagePk) imagePk
    let r := bufTouch b (fld imagePk 0x10 8) (fld imagePk 0x18 4)
    Accepted s (fwStageSpec imagePk) imagePk ∧ b.trust.verifyFailed = false ∧
      (clearSig r).activation.any (fun a => a.target == fld imagePk 0x1C 1) = true ∧
      (clearSig r).flash.writable = true ∧ ∃ bs, bufRead b (fld imagePk 0x10 8) (fld imagePk 0x18 4) = some bs ∧
        verifyImage r bs (fld imagePk 0x1C 1) = none := by
  refine ⟨accepted_of_passes (by decide +kernel), by decide +kernel, by decide +kernel, by decide +kernel,
    hostBytes imageHost buf 5652, ?_, ?_⟩
  · rw [show fld imagePk 0x18 4 = 5652 by decide +kernel]
    exact host_read (by decide +kernel) (by decide +kernel) (by decide +kernel) rfl (by decide +kernel)
  · rw [host_touch _ _ (by decide +kernel), show fld imagePk 0x1C 1 = 0 by decide +kernel]
    exact image_verifies (begun_keeps _ _ _).2.1 hv

/-! ### Commands that are turned away -/

theorem witness_alarmLocked :
    let s := { host with mod := .alarm }
    s.mod = .alarm ∧ nopSpec.alarm = false ∧ startable s nopSpec.code (pk []) = true ∧ slotsInWindow s (pk []) = true := by
  decide +kernel

/-- A reserved parameter byte that is not zero is rejected with its offset (Table 12-5). -/
theorem test_reservedByte : startable host nopSpec.code (pk [(0x13, 1)]) = true ∧ slotsInWindow host (pk [(0x13, 1)]) = true ∧
    checks (takeSlots host (pk [(0x13, 1)])) nopSpec (pk [(0x13, 1)]) (overruns host (pk [(0x13, 1)])) =
      some (.rejectedParameter, 0x10) := by decide +kernel

/-! ### The host port -/

/-- The ring pair 1 as reset leaves it. -/
theorem witness_doorbell : 0 < 8 ∧ barOk host = true ∧ (sqOf host 0).enable = true ∧
    (15#64).toNat % 65536 < 2 ^ (sqOf host 0).log2 ∧ 2 ^ (sqOf host 0).log2 ≤ (16#64).toNat % 65536 := by decide +kernel

theorem witness_ringStopped : (sqOf host 1).enable = false ∧ (pk [] 0 0 (.ring 1)).src = .ring 1 := by decide +kernel

/-- The module with three records in completion ring 0. -/
def withRecords : State := { host with regs := { host.regs with cq := [(0, { base := 2, enable := true, tail := 3 })] } }

theorem witness_cqHead : barOk withRecords = true ∧
    (let q := cqOf withRecords 0
     let size := 2 ^ q.log2
     (3 < size ∧ (3 + size - q.head) % size ≤ (q.tail + size - q.head) % size) ∧
       ¬(4 < size ∧ (4 + size - q.head) % size ≤ (q.tail + size - q.head) % size) ∧
       ¬(16 < size ∧ (16 + size - q.head) % size ≤ (q.tail + size - q.head) % size)) := by decide +kernel

theorem witness_cqStopped : (cqOf { host with regs := { host.regs with cq := [(0, { error := true })] } } 0).error = true := by
  decide +kernel

theorem witness_ringFits : barOk host = true ∧ (sqOf host 1).enable = false ∧ (cqOf host 1).enable = false ∧
    ringFits host (sqOf host 1).base 4 64 ∧ ¬ringFits host (sqOf host 1).base 3 64 ∧
    ringFits host (cqOf host 1).base 16 32 ∧ ¬ringFits host (cqOf host 1).base 17 32 := by
  unfold ringFits; decide +kernel

theorem witness_ringsEnabled : (sqOf host 0).enable = true ∧ (cqOf host 0).enable = true ∧ (cqOf host 1).enable = false := by
  decide +kernel

theorem witness_ringFull :
    let s := { host with regs := { host.regs with cq := [(0, { base := 2, enable := true, tail := 15 })] } }
    2 ^ (cqOf s 0).log2 - 1 < ((cqOf s 0).tail + 2 ^ (cqOf s 0).log2 - (cqOf s 0).head) % 2 ^ (cqOf s 0).log2 + [[(0 : Byte)]].length := by
  decide +kernel

theorem witness_powerCap : barOk host = true ∧
    (1500 ≤ (0x05DC000000000000#64).toNat / 2 ^ 48 ∧ (0x05DC000000000000#64).toNat / 2 ^ 48 ≤ 4800) ∧
    (1500 ≤ (0x12C0000000000000#64).toNat / 2 ^ 48 ∧ (0x12C0000000000000#64).toNat / 2 ^ 48 ≤ 4800) ∧
    (0x05DB000000000000#64).toNat / 2 ^ 48 < 1500 ∧ 4800 < (0x12C1000000000000#64).toNat / 2 ^ 48 := by decide +kernel

theorem witness_registers : barOk host = true ∧ host.regs.cxl = true ∧ 35 < 36 ∧ 0x2000 % 8 = 0 := by decide +kernel

/-! ### CXL.mem and memory -/

/-- The module with a hearth whose memory CXL serves. -/
theorem witness_cxl : cxlUp host = true ∧ cxlLocal host (4096 / 64 * 64) = some (0, 4096) ∧
    cxlLocal host (0x4000000000 / 64 * 64) = none := by decide +kernel

theorem witness_hostBias :
    let s := { host with regs := { host.regs with bias := [(0, 0xFFFFFFFFFFFFFFFF)] } }
    cxlUp s = true ∧ cxlServed (hearthOf s 0) = true ∧ hostBias s 0 (128 / 64 * 64) = true ∧
      128 / 64 * 64 < topOf (hearthOf s 0) := by decide +kernel

theorem witness_hearthWrite : Memory.wf ready.mem = true ∧ ready.errs = [] := by decide

/-- The example of R413: the check byte of the word that holds 1.0, and the syndrome of its bit 27. -/
theorem test_checkByte : checkByte 0x000000003F800000 = 0x2F ∧ errSyndrome (0x08000000, 0) = 0x19 ∧
    syndromeMeaning 0x19 = .data 27 := by decide +kernel

/-! ### Events at the port, resets and power -/

theorem witness_portEvents : host.regs.linkUp = true := rfl

theorem witness_training :
    let s := { host with regs := { host.regs with linkUp := false } }
    s.power.mantelOn = true ∧ s.power.perst = false ∧ s.regs.linkUp = false ∧ s.hostPortFailed = false := by decide

theorem witness_powerUp : { State.reset with power := { State.reset.power with inputOk := false } }.power.inputOk = false := rfl

theorem witness_perstRelease : State.reset.power.mantelOn = true ∧ State.reset.power.perst = true ∧
    State.reset.power.booted = false ∧ State.reset.mod ≠ .alarm ∧ State.reset.flash.writable = true := by decide

/-- The module while it boots. -/
def booting : State := startBoot State.reset

theorem witness_moduleBoot : booting.mod = .boot ∧ booting.power.booted = true ∧ booting.ringsOn = false ∧
    booting.romEngine = false ∧ booting.pairsFailed = false ∧ (moduleImage booting).isSome = true := by decide +kernel

theorem witness_bootRom :
    let s := { booting with flash := { booting.flash with modSlots := [] } }
    s.mod = .boot ∧ s.power.booted = true ∧ s.ringsOn = false ∧ moduleImage s = none := by decide +kernel

theorem witness_hearthPowerOn :
    let s := modul {}
    s.mod = .operational ∧ s.ringsOn = true ∧ (hearthOf s 0).st = .absent ∧ lowerWaits s 0 = false := by decide +kernel

theorem witness_hearthBoot :
    let s := modul { ready with st := .booting }
    (hearthOf s 0).st = .booting ∧ (hearthOf s 0).restoring = [] ∧ (hearthImage s).isSome = true := by decide +kernel

theorem witness_hearthBoot_restored :
    let s := modul { ready with st := .booting, restoring := [(.hearth, 4)] }
    (hearthOf s 0).st = .booting ∧ (hearthOf s 0).restoring.find? (fun x => x.1 == .hearth) = some (.hearth, 4) ∧
      (hearthImage s).isSome = true := by decide +kernel

theorem witness_identityEngine :
    let s := { host with trust := {} }
    s.trust.engineOn = false ∧ s.trust.engineFailed = false ∧ s.fuses.kill = false ∧ s.mod ≠ .alarm ∧
      s.power.booted = true ∧ s.ringsOn = true := by decide

theorem witness_mantelUnits : host.trust.engineFailed = false ∧ host.trust.verifyFailed = false ∧
    host.power.controllerFailed = false ∧ host.power.mantelOn = true ∧ host.sidebandFailed = false ∧
    host.hostPortFailed = false ∧ host.pairsFailed = false ∧ host.power.perst = false := by decide

theorem witness_failover : { host with standbyOk := true }.standbyOk = true ∧ { host with standbyOk := true }.pairsFailed = false := by
  decide

/-- Debug access open to the dies of hearth 2. -/
def debugOpen : State := { host with trust := { host.trust with debug := [(4, 100)] } }

theorem witness_jtag : host.power.mantelOn = true ∧ (debugScope debugOpen.trust).getLsbD (scopeBit 25) = true ∧
    (debugScope host.trust).getLsbD (scopeBit 25) = false ∧ debugOpen.trust.debug = [(4, 100)] := by decide

/-- A module whose hearth 0 draws tokens, with a budget that the pool and the hearth hold. -/
def drawing : State :=
  { modul { ready with tokens := 5 } with power := { host.power with budget := tokenBudget host, pool := tokenBudget host - 5 } }

theorem witness_tokenShare : drawing.power.controllerFailed = false ∧ drawing.mod ≠ .boot ∧
    drawing.power.budget ≤ tokenBudget drawing ∧ smapWf ({} : Hearth) drawing.hearths = true ∧
    ∃ t, exec (.tokenShare [1, 0, 0, 0, 0, 0, 0, 0, 0]) drawing = .next t :=
  ⟨rfl, by decide, by decide +kernel, by decide +kernel, _, rfl⟩

theorem witness_clocks : (hearthOf host 0).rail = true ∧ readyFrozen (hearthOf host 0).st = true ∧
    min host.regs.capW host.fuses.fusedW * 105 < 5041 * 100 ∧ host.power.controllerFailed = false := by decide +kernel

theorem witness_sensor : host.power.mantelOn = true ∧ host.power.perst = false ∧ sensorDefined 9 = true ∧
    sensorOff host 9 = false := by decide +kernel

/-! ### Flue links -/

/-- A port tile whose link is UP with credits. -/
def upPort : FPort := { st := .up, lanes := 15, lanesFar := 15, txCredits := [(0, 5), (1, 5), (2, 5), (3, 5)] }

/-- A hearth of module 9 with port tile 0 UP. -/
def linkH (p : FPort) : Hearth := { ready with moduleId := 9, idValid := true, ports := [(0, p)] }

/-- A cell that waits: not sequenced, for module 8. -/
def waits : QCell := { cell := ⟨1, 0, 0⟩, dstModule := 8, dstHearth := 1 }

theorem witness_cellInject :
    let hh := linkH { upPort with inj := [(0, [waits])] }
    chanTurn 0 hh 0 0 = true ∧ mget [] (fport hh 0).transit 0 = [] ∧ (injNext 0 hh 0 0).isSome = true := by decide +kernel

theorem witness_cellInject_transit :
    let hh := linkH { upPort with transit := [(1, [waits])] }
    chanTurn 0 hh 0 1 = true ∧ mget [] (fport hh 0).transit 1 = waits :: [] ∧ flueForwards hh = true ∧
      linkTakes hh 0 1 = true ∧ injNext 0 hh 0 1 = none := by decide +kernel

theorem witness_cellInject_both :
    let hh := linkH { upPort with inj := [(2, [waits])], transit := [(2, [waits])], altTransit := [(2, true)] }
    chanTurn 0 hh 0 2 = true ∧ mget [] (fport hh 0).transit 2 = waits :: [] ∧ mget false (fport hh 0).altTransit 2 = true ∧
      (injNext 0 hh 0 2).isSome = true ∧ flueForwards hh = true ∧ linkTakes hh 0 2 = true := by decide +kernel

/-- LINK_CREDIT_RETURN of three credits on channel 1. -/
def creditWord : BitVec 20 := BitVec.ofNat 20 (1 * 2 ^ 18 + 3 * 2 ^ 10)

theorem witness_linkCreditReturn : linkUp (linkH upPort) 0 = true ∧ creditWord.toNat % 16 ≠ 14 ∧
    mget 0 (fport (linkH upPort) 0).txCredits (creditWord.toNat / 2 ^ 18) + creditWord.toNat / 2 ^ 10 % 2 ^ 8 ≤
      rxSlots 0 (creditWord.toNat / 2 ^ 18) ∧
    smapWf ({} : FPort) (linkH upPort).ports = true ∧ smapWf 0 (fport (linkH upPort) 0).txCredits = true := by decide +kernel

/-- Hearths 0 and 1 with these ends of the on-package link between them. -/
def pairS (p q : FPort) : State :=
  { host with hearths := [(0, { ready with ports := [(6, p)] }), (1, { ready with ports := [(6, q)] })] }

/-- The far end owes three slots of channel 0, and its next word says so. -/
theorem witness_linkCreditReturn_onPackage :
    let s := pairS upPort { upPort with owed := [(0, 3)] }
    let w := nextWord s (farHearth 0 6) (linkTile (farHearth 0 6) 0)
    linkUp (hearthOf s 0) 6 = true ∧ w.toNat % 16 ≠ 14 ∧ w.toNat / 2 ^ 10 % 2 ^ 8 = 3 ∧
      mget 0 (fport (hearthOf s 0) 6).txCredits (w.toNat / 2 ^ 18) + 3 ≤ rxSlots 6 (w.toNat / 2 ^ 18) := by decide +kernel

theorem witness_lanes : linkUp (linkH upPort) 0 = true ∧ (fport (linkH { st := .training }) 0).st = .training ∧
    (1 : BitVec 20).toNat / 4 % 4 ≠ 3 ∧ (1 : BitVec 20).toNat % 4 = 1 ∧ (2 : BitVec 20).toNat % 4 = 2 ∧
    nbit (fport (linkH upPort) 0).lanes.toNat 3 = true ∧
    nbit (fport (linkH { upPort with training := 8 }) 0).training.toNat 3 = true ∧
    (linkH upPort).lanesOut.contains 3 = false ∧ (linkH upPort).portsOut.contains 0 = false := by decide +kernel

theorem witness_codeword : linkUp (linkH upPort) 0 = true ∧ linkUp (hearthOf (pairS upPort upPort) 0) 6 = true ∧ 15 ≤ 15 := by
  decide +kernel

/-- An on-package link whose far end is in resynchronisation, and has yet to ask for it. -/
theorem witness_resyncRequest_onPackage :
    let s := pairS upPort { upPort with st := .resync }
    linkUp (hearthOf s 0) 6 = true ∧ (farPort s 0 6).st = .resync ∧ (farPort s 0 6).asked = false ∧
      (farPort s 0 6).reports = [] := by decide +kernel

/-- RESYNC_REPORT of 100 free slots of channel 2. -/
def resyncWord : BitVec 20 := BitVec.ofNat 20 (2 * 2 ^ 18 + 100 * 2 ^ 6 + 14)

theorem witness_resyncReport :
    let hh := linkH { upPort with st := .resync }
    (fport hh 0).st = .resync ∧ resyncWord.toNat % 16 = 14 ∧
      resyncWord.toNat / 2 ^ 6 % 2 ^ 12 ≤ rxSlots 0 (resyncWord.toNat / 2 ^ 18) ∧ linkUp hh 0 = true := by decide +kernel

/-- The far end of an on-package link has the report of channel 3 to send. -/
theorem witness_resyncReport_onPackage :
    let s := pairS { upPort with st := .resync, report := [0, 1, 2] } { upPort with reports := [3] }
    let w := nextWord s (farHearth 0 6) (linkTile (farHearth 0 6) 0)
    (fport (hearthOf s 0) 6).st = .resync ∧ w.toNat % 16 = 14 ∧ w.toNat / 2 ^ 18 = 3 ∧
      w.toNat / 2 ^ 6 % 2 ^ 12 ≤ rxSlots 6 (w.toNat / 2 ^ 18) ∧ smapWf ({} : FPort) (hearthOf s 0).ports = true ∧
      smapWf 0 (fport (hearthOf s 0) 6).txCredits = true ∧ ((fport (hearthOf s 0) 6).report ++ [3]).length = 4 := by decide +kernel

theorem witness_linkTraining :
    let hh := linkH { st := .training }
    (fport hh 0).st = .training ∧ portIn hh 0 = true ∧ host.power.flueRef ≠ 2 ∧ (3#4) ≠ 0 ∧
      (3#4).toNat &&& lanesIn hh 0 = (3#4).toNat := by decide +kernel

theorem witness_linkTraining_onPackage :
    let s := pairS { st := .training } { st := .training }
    let b := pairS { st := .training } upPort
    (fport (hearthOf s 0) 6).st = .training ∧ portIn (hearthOf s 0) 6 = true ∧ (farPort s 0 6).st = .training ∧
      (fport (hearthOf b 0) 6).st = .training ∧ portIn (hearthOf b 0) 6 = true ∧ (farPort b 0 6).st = .up := by decide +kernel

theorem witness_flueDownDrainEnd : (fport (linkH { upPort with draining := true }) 0).draining = true := rfl

theorem witness_damper :
    let hh := linkH { upPort with damper := 1 }
    0 < (fport hh 0).damper ∧ injCount (fport hh 0) < damperLeave (fport hh 0).damper := by decide +kernel

theorem witness_flueReference : host.power.mantelOn = true ∧ host.power.flueRef = 0 ∧
    { host with power := { host.power with flueRef := 1 } }.power.flueRef = 1 := by decide

/-! ### Cells -/

/-- A cell from hearth 1 of module 8 for hearth 0 of module 9, with its CRC. -/
def mk (ty net cls len seq : Nat) (payload : BitVec 256) (ep : Nat := 0) (dst : Nat := 0) : Cell :=
  let hd : Hdr :=
    { dstModule := 9, dstHearth := dst, dstEp := ep, srcModule := 8, srcHearth := 1, net := net, cls := cls, type := ty,
      len := len, seq := seq, epoch := 0 }
  let c : Cell := ⟨packHdr hd, payload, 0⟩
  { c with crc := cellCrc c none }

/-- The hearth with the contexts of module 8, hearth 1 OPEN on channels 0 to 3. -/
def openH : Hearth :=
  let p : PeerCtx := { peerModule := 8, peerHearth := 1, st := .open, expect := 4 }
  { linkH upPort with peers := [(ctxIndex 8 1 0, p), (ctxIndex 8 1 1, p), (ctxIndex 8 1 2, p), (ctxIndex 8 1 3, p)] }

/-- A cell that comes in at port tile 0 of hearth 0 on this row is taken, and its context delivers it. -/
def delivers (row : Nat) (hh : Hearth) (c : Cell) : Bool :=
  match arrive row (modul hh) 0 0 c with
  | some (b, true) =>
    let (i, m, d) := cellCtx (hearthOf b 0) 0 c
    (acceptSeq (envOf b 0) (hearthOf b 0) i m d c).2 == [c]
  | _ => false

/-- What delivers meets the premises of a delivery. -/
theorem delivers_spec {row : Nat} {hh : Hearth} {c : Cell} (h : delivers row hh c = true) :
    ∃ b i m d hh', arrive row (modul hh) 0 0 c = some (b, true) ∧ cellCtx (hearthOf b 0) 0 c = (i, m, d) ∧
      acceptSeq (envOf b 0) (hearthOf b 0) i m d c = (hh', [c]) := by
  unfold delivers at h
  split at h
  · rename_i b hb
    refine ⟨b, _, _, _, _, hb, rfl, Prod.ext rfl ?_⟩
    exact eq_of_beq h
  · simp at h

theorem witness_transit :
    let s := modul (linkH upPort)
    let c := mk 0 0 0 8 0 0 0 3
    (takeOff s 0 0 c).isSome = true ∧ addressedHere 0 (hearthOf s 0) (hdrOf c) = false ∧ flueForwards (hearthOf s 0) = true ∧
      transitPort 0 (hearthOf s 0) (hdrOf c) (!comesForeign s 0 0 (chanOf (hdrOf c))) = none := by decide +kernel

theorem witness_transit_forwarded :
    let s := modul { linkH upPort with ports := [(0, upPort), (8, upPort)] }
    let c := mk 0 0 0 8 0 0 0 3
    (takeOff s 0 0 c).isSome = true ∧ addressedHere 0 (hearthOf s 0) (hdrOf c) = false ∧
      transitPort 0 (hearthOf s 0) (hdrOf c) (!comesForeign s 0 0 (chanOf (hdrOf c))) = some 8 := by decide +kernel

theorem witness_write : delivers 0 openH (mk 0 0 0 3 4 0) = true := by decide +kernel
theorem witness_readReq : delivers 1 openH (mk 1 0 1 4 4 0) = true := by decide +kernel
theorem witness_readReply : delivers 2 openH (mk 2 1 0 8 4 0) = true := by decide +kernel
theorem witness_command : delivers 4 openH (mk 4 0 1 8 4 0) = true := by decide +kernel
theorem witness_completion : delivers 5 openH (mk 5 1 1 8 4 0) = true := by decide +kernel
theorem witness_syncArrive : delivers 6 openH (mk 6 0 1 1 4 0) = true := by decide +kernel
theorem witness_syncRelease : delivers 7 openH (mk 7 1 1 1 4 0) = true := by decide +kernel
theorem witness_combine : delivers 8 openH (mk 8 0 0 8 4 0) = true := by decide +kernel
theorem witness_signature : delivers 10 openH (mk 10 0 0 8 4 0) = true := by decide +kernel
theorem witness_telemetry : delivers 11 openH (mk 11 0 0 8 4 0) = true := by decide +kernel
theorem witness_credit : delivers 48 openH (mk 13 1 1 4 4 0) = true := by decide +kernel
theorem witness_writeDone : delivers 49 openH (mk 13 1 1 4 4 (BitVec.ofNat 256 (1 * 2 ^ 60))) = true := by decide +kernel
theorem witness_accessFault : delivers 50 openH (mk 13 1 1 4 4 (BitVec.ofNat 256 (2 * 2 ^ 60))) = true := by decide +kernel
theorem witness_dropped : delivers 51 openH (mk 13 1 1 4 4 (BitVec.ofNat 256 (3 * 2 ^ 60))) = true := by decide +kernel

/-- A 112-byte record body of a stoker descriptor or an endpoint from (offset, value) pairs. -/
def bdy (l : List (Nat × Nat)) : BitVec 896 := BitVec.ofNat 896 (l.foldl (fun a x => a + x.2 * 2 ^ (8 * x.1)) 0)

/-- The hearth with a running step whose section has this endpoint, number 2, at home tile 0. -/
def epH (body : BitVec 896) (x : EpLive) : Hearth :=
  { openH with
    st := .running, steps := [stepIn .running], tiles := [(0, { tile1 with state := .running })]
    ctxs := [(0, { ctx1 with eps := [(2, { body := body })] })], eps := [(2, x)] }

/-- A RECEIVE endpoint whose sender is endpoint 3 of hearth 1 of module 8. -/
def receiveEp : BitVec 896 := bdy [(0, 2), (8, 8), (0x0C, 1), (0x0E, 3), (0x10, 8)]

theorem witness_token :
    let hd : Hdr :=
      { dstModule := 9, dstHearth := 0, dstEp := 2, srcModule := 0, srcHearth := 0, net := 0, cls := 0, type := 12, len := 0, seq := 4 }
    let c : Cell := ⟨tokenHdr hd 0, 0, 0⟩
    delivers 12 (epH receiveEp {}) { c with crc := cellCrc c (some (identityOf 8 1 3)) } = true := by decide +kernel

theorem witness_sequenced :
    let p := peerOf openH (ctxIndex 8 1 0)
    ctxFree p 8 1 = true ∧ p.st = .open ∧ (hdrOf (mk 0 0 0 3 4 0)).epoch = p.rxEpoch ∧
      BitVec.ofNat 16 (hdrOf (mk 0 0 0 3 4 0)).seq = p.expect ∧ p.rxmap = 0 ∧ p.sinceAck < 63 := by decide +kernel

theorem witness_sequenced_ahead :
    let p := peerOf openH (ctxIndex 8 1 0)
    BitVec.ofNat 16 (hdrOf (mk 0 0 0 3 5 0)).seq = p.expect + BitVec.ofNat 16 1 ∧
      BitVec.ofNat 16 (hdrOf (mk 0 0 0 3 36 0)).seq = p.expect + BitVec.ofNat 16 32 ∧ nbit p.rxmap.toNat 0 = false ∧
      nbit p.rxmap.toNat 31 = false ∧ openH.reorder.length < 4096 := by decide +kernel

/-- An ACK record of channel 0 of that kind arrives, and its context is in this state. -/
def ackArrives (row : Nat) (st : PeerState) : Bool :=
  let p : PeerCtx := { peerModule := 8, peerHearth := 1, st := st, send := 7, ack := 2 }
  let s := modul { linkH upPort with peers := if st = .closed then [] else [(ctxIndex 8 1 0, p)] }
  let c := mk 3 1 1 2 0 (BitVec.ofNat 256 ((row - 16) * 2 ^ 60))
  match arrive row s 0 0 c with
  | some (b, true) =>
    let (i, m, d) := ackCtx 0 c
    (peerOf (hearthOf b 0) i).st == st && (serves (peerOf (hearthOf b 0) i) m d || st == .closed)
      && ctxFree (peerOf (hearthOf b 0) i) m d
  | _ => false

theorem witness_ack : ackArrives 16 .open = true := by decide +kernel
theorem witness_nack : ackArrives 17 .open = true := by decide +kernel
theorem witness_open : ackArrives 18 .closed = true ∧ ackArrives 18 .open = true := by decide +kernel
theorem witness_openAck : ackArrives 19 .opening = true := by decide +kernel
theorem witness_reset : ackArrives 20 .open = true ∧ ackArrives 20 .opening = true := by decide +kernel

theorem witness_contextTimers :
    let p : PeerCtx := { st := .open, send := 7, ack := 2, sinceAck := 1 }
    let hh := { linkH upPort with
      peers := [(1, p), (2, { p with retry := 8 }), (3, { p with st := .opening }), (4, { p with st := .opening, retry := 8 })]
      performed := [(8, 1, 0, 5)] }
    flueOn hh = true ∧ (peerOf hh 1).sinceAck ≠ 0 ∧ (peerOf hh 1).st = .open ∧ (peerOf hh 1).ack ≠ (peerOf hh 1).send ∧
      (peerOf hh 1).retry < 8 ∧ (peerOf hh 2).st = .open ∧ (peerOf hh 2).ack ≠ (peerOf hh 2).send ∧ 8 ≤ (peerOf hh 2).retry ∧
      (peerOf hh 3).st = .opening ∧ (peerOf hh 3).retry < 8 ∧ (peerOf hh 4).st = .opening ∧ 8 ≤ (peerOf hh 4).retry ∧
      hh.performed[0]? = some (8, 1, 0, 5) := by decide +kernel

/-- A TIME cell of a network arrives at the tree hearth of a module whose parent is hearth 1 of module 8. -/
def timeArrives (net : Nat) : Bool :=
  let s := { modul (linkH upPort) with role := { State.reset.role with parent := some (8, 1) } }
  match arrive (32 + net) s 0 0 (mk 9 net 1 8 0 0) with
  | some (b, true) => b.role.treeHearth == 0 && b.role.parent == some (8, 1)
  | _ => false

theorem witness_time : timeArrives 0 = true ∧ timeArrives 1 = true := by decide +kernel

theorem witness_timeTicks :
    let s := { modul (linkH upPort) with
      role := { State.reset.role with parent := some (8, 1) }, time := { State.reset.time with ns := 100000000 } }
    s.role.parent = some (8, 1) ∧ flueOn (hearthOf s s.role.treeHearth) = true ∧
      s.time.lastExchange + 100000000 ≤ s.time.ns := by decide +kernel

/-! ### Endpoints -/

theorem witness_endpointTokenSend :
    let hh := epH (bdy [(0, 1), (8, 8), (0x0C, 1), (0x0E, 3)]) { buf := [{}], peerCredits := 1 }
    (∃ st home d, issuingEp hh 2 = some (st, home, d) ∧ d.kind = 1) ∧ (epAt hh 2).buf = {} :: [] ∧ (epAt hh 2).peerCredits ≠ 0 ∧
      ({} : Tok).last = false :=
  ⟨⟨stepIn .running, 0, _, rfl, by decide +kernel⟩, by decide +kernel, by decide +kernel, rfl⟩

theorem witness_putTag :
    let hh := epH (bdy [(0, 3), (8, 8), (0x0C, 1)]) { writes := [(0, [1, 2, 3, 4])] }
    (∃ st home d, issuingEp hh 2 = some (st, home, d) ∧ d.kind = 3) ∧ (epAt hh 2).writes ≠ [] :=
  ⟨⟨stepIn .running, 0, _, rfl, by decide +kernel⟩, by decide +kernel⟩

theorem witness_putTag_groups :
    let b := bdy [(0, 3), (8, 8), (0x0C, 1), (0x38, 32), (0x3C, 1)]
    let part (l : List Tok) := (takeEpPart (epAt (epH b { buf := l }) 2)).part
    (∃ st home d, issuingEp (epH b {}) 2 = some (st, home, d) ∧ d.kind = 3 ∧ groupSize d.lay.rows d.lay.elems = 2) ∧
      part [{}, { last := true }] = [{}, { last := true }] ∧ part [{}] = [{}] ∧ part [{ last := true }] = [{ last := true }] ∧
      part [{}, {}] = [{}, {}] ∧ part [{}, {}, { last := true }] = [{}, {}, { last := true }] :=
  ⟨⟨stepIn .running, 0, _, rfl, by decide +kernel, by decide +kernel⟩, by decide +kernel⟩

theorem witness_getTag :
    let b := bdy [(0, 4), (8, 8), (0x0C, 1), (0x38, 16), (0x3C, 1)]
    (∃ st home d, issuingEp (epH b {}) 2 = some (st, home, d) ∧ d.kind = 4 ∧ mayIssue (epH b {}) st (epAt (epH b {}) 2).next = true) ∧
      (epAt (epH b {}) 2).toSend = [] ∧ (epAt (epH b {}) 2).fetching = false ∧
      (epAt (epH b { fetching := true, want := [(0, 64)] }) 2).fetching = true ∧
      (epAt (epH b { fetching := true, want := [(0, 64)] }) 2).want ≠ [] ∧
      (epAt (epH b { fetching := true }) 2).want = [] ∧ (epAt (epH b { fetching := true }) 2).reads = [] :=
  ⟨⟨stepIn .running, 0, _, rfl, by decide +kernel, by decide +kernel⟩, by decide +kernel⟩

theorem witness_contributeTag :
    let hh (last : Bool) := epH (bdy [(0, 5), (8, 8), (0x0C, 1)]) { buf := [{ last := last }], peerCredits := 1 }
    (∃ st home d, issuingEp (hh true) 2 = some (st, home, d) ∧ d.kind = 5) ∧
      (∃ st home d, issuingEp (hh false) 2 = some (st, home, d) ∧ d.kind = 5) ∧
      (∀ last, (epAt (hh last) 2).buf = { last := last } :: []) ∧ ∀ last, (epAt (hh last) 2).peerCredits ≠ 0 :=
  ⟨⟨stepIn .running, 0, _, rfl, by decide +kernel⟩, ⟨stepIn .running, 0, _, rfl, by decide +kernel⟩, by decide +kernel,
    by decide +kernel⟩

/-- A COMBINE root with two senders. -/
def rootEp : BitVec 896 := bdy [(0, 6), (1, 4), (0x12, 1), (0x16, 1)]

theorem witness_endpointCombineSum :
    let hh := epH rootEp { contrib := [(0, 0, {}), (0, 1, {})] }
    let d := epOf rootEp
    let lines (hh : Hearth) := (List.range (d.senders + 1)).flatMap (fun i => badWords hh (combineAddr d i (BitVec.ofNat 16 0)) 64)
    (∃ st home, issuingEp hh 2 = some (st, home, d)) ∧ d.kind = 6 ∧ d.root = true ∧
      (List.range (d.senders + 1)).all (fun i => (epAt hh 2).contrib.any (fun c => c.1 == BitVec.ofNat 16 0 && c.2.1 == i)) = true ∧
      lines hh = [] ∧
      lines { hh with errs := [(combineAddr d 0 (BitVec.ofNat 16 0), poisonErr)] } ≠ [] :=
  ⟨⟨stepIn .running, 0, rfl⟩, by decide +kernel⟩

/-- A COMBINE that is no root, with two senders. -/
def branchEp : BitVec 896 := bdy [(0, 6), (8, 8), (0x0C, 1), (0x12, 1), (0x16, 1)]

theorem witness_endpointCombineSum_branch :
    let hh := epH branchEp { contrib := [(0, 0, {}), (0, 1, {})], peerCredits := 1 }
    let d := epOf branchEp
    (∃ st home, issuingEp hh 2 = some (st, home, d)) ∧ d.kind = 6 ∧ d.root = false ∧ (epAt hh 2).peerCredits ≠ 0 ∧
      (List.range (d.senders + 1)).all (fun i => (epAt hh 2).contrib.any (fun c => c.1 == BitVec.ofNat 16 0 && c.2.1 == i)) = true ∧
      (List.range (d.senders + 1)).flatMap (fun i => badWords hh (combineAddr d i (BitVec.ofNat 16 0)) 64) = [] :=
  ⟨⟨stepIn .running, 0, rfl⟩, by decide +kernel⟩

/-- A schedule of one slot of two cells at 100 ns of a period of 1,000 ns. -/
def sched1 : BitVec 896 := bdy [(0, 1000), (4, 1), (0x10, 100), (0x14, 2)]

theorem witness_scheduleSlotOpen :
    let cfg : EpCfg := { body := bdy [(0, 1)], sched := some sched1 }
    let hh := { epH 0 {} with ctxs := [(0, { ctx1 with eps := [(2, cfg)] })], timeBase := 2150 }
    (∃ st home d, liveEp hh 2 = some (st, home, d) ∧ slotTime sched1 st.launchTime hh.timeBase 0 = some 2100 ∧
      ∀ k u, k < 12 → slotTime sched1 st.launchTime hh.timeBase k = some u → u ≤ 2100) ∧
      (mget {} hh.ctxs 0).eps.find? (fun x => x.1 == 2) = some (2, cfg) ∧ (epAt hh 2).schedAt = none ∧
      0 < bodyNum sched1 4 1 ∧ 0 < bodyNum sched1 0x14 2 ∧ 0 < bodyNum sched1 0 4 := by
  refine ⟨⟨stepIn .running, 0, _, rfl, by decide +kernel, ?_⟩, by decide +kernel⟩
  intro k u hk
  have h : ∀ k < 12, (slotTime sched1 (stepIn .running).launchTime 2150 k).all (fun u => decide (u ≤ 2100)) = true := by decide +kernel
  intro e
  have h := h k hk
  rw [show slotTime sched1 (stepIn .running).launchTime 2150 k = some u from e] at h
  simpa using h

/-! ### Streams -/

/-- A hearth whose step runs on this tile at position v. -/
def tileH (v : Nat) (t : Tile) : Hearth := { running tile1 with tiles := [(v, { t with valid := 1, state := .running })] }

/-- A tile configuration with one operation in slot 0: code, IN_MASK, OUT_MASK and its parameter block. -/
def opCfg (code ins outs : Nat) (l : List (Nat × Nat)) : TileCfg :=
  { ops := [(0, BitVec.ofNat 64 (2 ^ 63 + code * 2 ^ 56 + ins * 2 ^ 32 + outs * 2 ^ 16))]
    params := [(0, BitVec.ofNat 512 (l.foldl (fun a x => a + x.2 * 2 ^ (8 * x.1)) 0))] }

/-- JD_IN_STREAM of an enabled input: TYPE, SENDERS − 1 and the source tile's position. -/
def inWord (type senders src : Nat) : W64 :=
  BitVec.ofNat 64 (2 ^ 63 + type * 2 ^ 61 + 3 * 2 ^ 55 + senders * 2 ^ 38 + 1 * 2 ^ 35 + src * 2 ^ 19)

/-- A token from tile 1, output 0, to input 0 of a unit. -/
def flightTo (rcv : UnitRef) : Flight := { snd := tileRef 1, out := 0, rcv := rcv, inp := 0, tok := { last := true } }

theorem witness_tokenArrival :
    (let hh := { tileH 0 { cfg := [(0, { ins := [(0, inWord 0 0 1)] })] } with flights := [flightTo (tileRef 0)] }
     headFlight hh (tileRef 1) 0 = some (0, flightTo (tileRef 0)) ∧ combining hh (flightTo (tileRef 0)) = false ∧
       (tileRef 0).kind.toNat = 1 ∧ tileOfId (tileRef 0).id.toNat = some 0) ∧
    (let hh := { tileH 0 {} with flights := [flightTo (threadRef 3)] }
     headFlight hh (tileRef 1) 0 = some (0, flightTo (threadRef 3)) ∧ combining hh (flightTo (threadRef 3)) = false ∧
       (threadRef 3).kind.toNat = 2) ∧
    (let hh := { tileH 0 {} with flights := [flightTo (epRef 0 2)] }
     headFlight hh (tileRef 1) 0 = some (0, flightTo (epRef 0 2)) ∧ combining hh (flightTo (epRef 0 2)) = false ∧
       (epRef 0 2).kind.toNat = 4) := by decide +kernel

theorem witness_tokenAdmit :
    let hh := tileH 0 { cfg := [(0, { ins := [(0, inWord 0 0 1)] })], ins := [(0, { closed := false, queue := [{}] })] }
    nbit (inReg (tileAt hh 0) 0).toNat 63 = true ∧ (inLive (tileAt hh 0) 0).closed = false ∧ (tileAt hh 0).state = .running := by
  decide +kernel

theorem witness_streamCredit :
    let hh := { tileH 0 {} with creditFlights := [⟨tileRef 0, 0, 0, 2⟩, ⟨tileRef 0, 1, 3, 2⟩] }
    hh.creditFlights.findIdx? (fun c => c.snd == tileRef 0 && c.out == 0) = some 0 ∧
      hh.creditFlights.findIdx? (fun c => c.snd == tileRef 0 && c.out == 1) = some 1 ∧
      (sndLive hh (tileRef 0) 0).epoch = 0 ∧ (3 : BitVec 4) ≠ (sndLive hh (tileRef 0) 1).epoch := by decide +kernel

/-- A hearth with tile 1 as the one sender of the combining input 0 of tile 0, and its contribution on the way. -/
def combineH (x : InLive) (tok : Tok := { last := true }) : Hearth :=
  { tileH 0 {} with
    tiles := [(0, { cfg := [(0, { ins := [(0, inWord 2 0 1)] })], ins := [(0, x)], valid := 1, state := .running }),
      (1, { cfg := [(0, { outs := [(0, BitVec.ofNat 64 (2 ^ 63 + 2 ^ 60))] })], valid := 1, state := .running })]
    flights := [{ flightTo (tileRef 0) with tok := tok }] }

theorem witness_combiningSum :
    let hh := combineH { closed := false, opened := [0], contrib := [(0, 0, { last := true })] }
    (inLive (tileAt hh 0) 0).closed = false ∧ inType (tileAt hh 0) 0 = 2 ∧
      (inLive (tileAt hh 0) 0).sums.any (fun k => k.tag == BitVec.ofNat 16 0) = false ∧
      flaggedAt (tileAt hh 0) 0 (BitVec.ofNat 16 0) = false ∧
      (allContrib (inLive (tileAt hh 0) 0) (inSenders (tileAt hh 0) 0) (BitVec.ofNat 16 0)).isSome = true := by decide +kernel

theorem witness_combiningContribution :
    let hh := combineH { closed := false }
    let f := flightTo (tileRef 0)
    headFlight hh (tileRef 1) 0 = some (0, f) ∧ combining hh f = true ∧ tileOfId f.rcv.id.toNat = some 0 ∧ tileReason hh 0 f = 0 ∧
      f.tok.last = true ∧ f.tok.seq = 0 ∧ f.tok.payload = 0 ∧ (inLive (tileAt hh 0) 0).flags = [] ∧
      senderIdx hh (tileAt hh 0).active 0 f.inp (tileRef 1) 0 = some 0 ∧
      (inLive (tileAt hh 0) 0).contrib.any (fun c => c.1 == f.tok.tag && c.2.1 == 0) = false ∧
      admits (inWindowOf (tileAt hh 0) 0) (inLive (tileAt hh 0) 0).opened f.tok.tag = true ∧
      tileReason (combineH { closed := true }) 0 f = 2 := by decide +kernel

theorem witness_combiningContribution_second :
    let hh := combineH { closed := false, opened := [0], contrib := [(0, 0, { last := true })] }
    let hl := combineH { closed := false } {}
    let f := flightTo (tileRef 0)
    headFlight hh (tileRef 1) 0 = some (0, f) ∧ combining hh f = true ∧ tileReason hh 0 f = 0 ∧
      senderIdx hh (tileAt hh 0).active 0 f.inp (tileRef 1) 0 = some 0 ∧
      (inLive (tileAt hh 0) 0).contrib.any (fun c => c.1 == f.tok.tag && c.2.1 == 0) = true ∧
      headFlight hl (tileRef 1) 0 = some (0, { f with tok := {} }) ∧ combining hl { f with tok := {} } = true ∧
      tileReason hl 0 { f with tok := {} } = 0 ∧ ({} : Tok).last = false := by decide +kernel

/-- The tile 0 of that hearth with a checker that allows values up to 1.0. -/
def checkedH (tok : Tok) : Hearth :=
  let hh := combineH { closed := false } tok
  updTile hh 0 (fun t => { t with
    cfg := [(0, { ins := [(0, inWord 2 0 1)], lim := [(0, 0x3F800000BF800000)], ctl := [(0, 0x7F800000FFFF8081)] })] })

theorem witness_takeContrib :
    let f (tok : Tok) : Flight := { flightTo (tileRef 0) with tok := tok }
    let low : Tok := { last := true, data := 0x3F800000 }
    let high : Tok := { last := true, data := 0x40000000 }
    checksFrom (combineH { closed := false }) 0 (f { last := true }) = false ∧
      checksFrom (checkedH low) 0 (f low) = true ∧ arrivalFlags (checkedH low) 0 (f low) 0 = [] ∧
      checksFrom (checkedH high) 0 (f high) = true ∧ arrivalFlags (checkedH high) 0 (f high) 0 ≠ [] ∧
      low.payload = 0 ∧ high.payload = 0 := by decide +kernel

/-! ### Firings -/

/-- Slot 0 of a tile starts its firing for tag 0, as one Boolean. -/
def starts (v : Nat) (t : Tile) (code : Nat) : Bool :=
  let hh := tileH v t
  match tileStep hh v with
  | some st => mayStart (tileAt hh v) st && opCode (tileAt hh v) 0 == code && nextFiring v (tileAt hh v) st == some (0, 0)
      && (shortGroup v (tileAt hh v) 0 0).isNone
  | none => false

/-- What starts meets the premise of a firing. -/
theorem starts_spec {v : Nat} {t : Tile} {code : Nat} (h : starts v t code = true) : Starts (tileH v t) v 0 0 code := by
  unfold starts at h
  dsimp only at h
  split at h
  · rename_i st hs
    simp only [Bool.and_eq_true, beq_iff_eq, Option.isNone_iff_eq_none] at h
    exact ⟨st, hs, h.1.1.1, h.1.1.2, h.1.2, h.2⟩
  · simp at h

/-- A tile with one operation whose operands are lines of its local store. -/
def opTile (code : Nat) (l : List (Nat × Nat)) : Tile := { cfg := [(0, opCfg code 0 0 l)] }

theorem witness_mma : Starts (tileH 1 { opTile 1 [(2, 1)] with bank0 := { st := .ready } }) 1 0 0 0x01 := starts_spec (by decide +kernel)
theorem witness_emit : Starts (tileH 1 { opTile 2 [(2, 1)] with emits := [(0, 0, 0)] }) 1 0 0 0x02 := starts_spec (by decide +kernel)
theorem witness_wload : Starts (tileH 1 (opTile 3 [(2, 1)])) 1 0 0 0x03 := starts_spec (by decide +kernel)
theorem witness_vfma : Starts (tileH 0 (opTile 0x10 [(0, 0x8000), (2, 0x8001), (4, 0x8002), (8, 1)])) 0 0 0 0x10 :=
  starts_spec (by decide +kernel)
theorem witness_vbin : Starts (tileH 0 (opTile 0x11 [(2, 0x8000), (4, 0x8001), (8, 1)])) 0 0 0 0x11 := starts_spec (by decide +kernel)
theorem witness_sfu : Starts (tileH 0 (opTile 0x12 [(2, 0x8000), (8, 1)])) 0 0 0 0x12 := starts_spec (by decide +kernel)
theorem witness_reduce : Starts (tileH 0 (opTile 0x13 [(2, 0x8000), (8, 1)])) 0 0 0 0x13 := starts_spec (by decide +kernel)
theorem witness_steer : Starts (tileH 0 (opTile 0x14 [(8, 1)])) 0 0 0 0x14 := starts_spec (by decide +kernel)

theorem witness_move_line : Starts (tileH 0 (opTile 0x15 [(0, 1), (8, 1)])) 0 0 0 0x15 ∧
    param (tileAt (tileH 0 (opTile 0x15 [(0, 1), (8, 1)])) 0) 0 0 1 = 1 := ⟨starts_spec (by decide +kernel), by decide +kernel⟩

/-- MOVE of a group of one token from input 0 to the local store. -/
def moveIn : Tile :=
  { cfg := [(0, { opCfg 0x15 1 0 [(8, 1)] with ins := [(0, inWord 0 0 1)] })]
    ins := [(0, { closed := false, opened := [0] })], matches_ := [{ inp := 0, tok := { last := true } }] }

theorem witness_move_stream : Starts (tileH 0 moveIn) 0 0 0 0x15 ∧ param (tileAt (tileH 0 moveIn) 0) 0 0 1 ≠ 1 :=
  ⟨starts_spec (by decide +kernel), by decide +kernel⟩

/-- A SYNC slot of this action on the tile's counter 0, which holds 1. -/
def syncTile (action : Nat) : Tile :=
  { cfg := [(0, { opCfg 0x20 0 0 [(0, action)] with syncs := [(0, BitVec.ofNat 64 (2 * 2 ^ 62))] })], syncs := [(0, { value := 1 })] }

theorem witness_sync : Starts (tileH 0 (syncTile 0)) 0 0 0 0x20 ∧ Starts (tileH 0 (syncTile 1)) 0 0 0 0x20 ∧
    Starts (tileH 0 (syncTile 2)) 0 0 0 0x20 ∧ Starts (tileH 0 (syncTile 3)) 0 0 0 0x20 :=
  ⟨starts_spec (by decide +kernel), starts_spec (by decide +kernel), starts_spec (by decide +kernel), starts_spec (by decide +kernel)⟩

theorem witness_syncWait : missing 0 (tileAt (tileH 0 (syncTile 1)) 0) 0 0 ≠ some .sync ∧
    ∀ action : Nat, action < 4 → param (tileAt (tileH 0 (syncTile action)) 0) 0 0 1 = action := by decide +kernel

/-- A tile whose slot 0 reads two tokens of input 0, of which the group has one. -/
def shortTile (code : Nat) (l : List (Nat × Nat)) : Tile :=
  { cfg := [(0, { opCfg code 1 0 ([(8, 2)] ++ l) with ins := [(0, inWord 0 0 1)] })]
    ins := [(0, { closed := false, opened := [0] })], matches_ := [{ inp := 0, tok := { last := true } }] }

/-- That tile's slot ends the step in place of a firing, as one Boolean. -/
def short (code : Nat) (l : List (Nat × Nat) := []) : Bool :=
  let hh := tileH 0 (shortTile code l)
  tileStep hh 0 == some (stepIn .running) && mayStart (tileAt hh 0) (stepIn .running)
    && nextFiring 0 (tileAt hh 0) (stepIn .running) == some (0, 0) && opCode (tileAt hh 0) 0 == code
    && shortGroup 0 (tileAt hh 0) 0 0 == some (0, 2, 1)

theorem witness_shortGroup : short 0x10 [(2, 0x8000), (4, 0x8001)] = true ∧ short 0x11 [(4, 0x8000)] = true ∧ short 0x12 = true ∧
    short 0x13 = true ∧ short 0x15 = true := by decide +kernel

/-- A firing of slot 0 for tag 0 with nothing to deliver. -/
def ffl (op : Nat) : Firing := { slot := 0, tag := 0, op := op }

/-- A tile in a firing of two cycles. -/
def firing (f : Firing) : Hearth := tileH 0 { opTile 0x11 [] with cur := some f }

theorem witness_firingEnd : (tileAt (firing (ffl 0x11)) 0).cur = some (ffl 0x11) ∧
    runStep (firing (ffl 0x11)) = some (stepIn .running) ∧
    (tileAt (firing (ffl 0x11)) 0).state = .running ∧ syncState (stepIn .running) = true ∧ (ffl 0x11).len ≤ 2 ∧ 2 ≤ 1024 ∧
    (ffl 0x11).resolved = false ∧ firingFlags (firing (ffl 0x11)) 0 (ffl 0x11) = [] := by
  decide +kernel

/-- A firing that makes 2.0 on an output whose checker allows values up to 1.0. -/
def overLimit : Firing := { slot := 0, tag := 0, op := 0x11, outs := [(0, [{ last := true, data := 0x40000000 }])] }

/-- The tile in that firing. -/
def overH (f : Firing) (l : List Flag) : Hearth :=
  tileH 0 { cfg := [(0, { opCfg 0x11 0 1 [] with lim := [(0, 0x3F800000BF800000)], ctl := [(0, 0x7F800000FFFF8081)] })]
            cur := some f, flags := l }

theorem witness_firingEnd_flagged : overLimit.resolved = false ∧ firingFlags (overH overLimit []) 0 overLimit ≠ [] ∧
    overLimit.len ≤ 1024 ∧ (tileAt (overH { overLimit with resolved := true } []) 0).flags = [] ∧
    (tileAt (overH { overLimit with resolved := true } [{ site := .fnOut 0, producer := tileRef 0 }]) 0).flags ≠ [] := by
  decide +kernel

/-- A bank that waits for two lines from address 0. -/
def loadingH : Hearth := tileH 1 { bank0 := { st := .loading, want := 2 } }

theorem witness_bankLoad : (bankOfTile (tileAt loadingH 1) 0).st = .loading ∧ tileEnabled loadingH 1 = true ∧
    (tileAt loadingH 1).cur.any (fun f => f.op == 0x03 && slotBank (tileAt loadingH 1) f.slot == 0) = false ∧
    extentAny loadingH (bankOfTile (tileAt loadingH 1) 0).src (64 * (bankOfTile (tileAt loadingH 1) 0).want) = true ∧
    (runStep loadingH).any (fun st => tileInSec loadingH st.ctx st.ran 1 && syncState st) = true ∧
    (runStep { loadingH with steps := [] }).any (fun st => tileInSec loadingH st.ctx st.ran 1 && syncState st) = false ∧
    extentAny (tileH 1 { bank0 := { st := .loading, want := 2, src := 2 ^ 40 } }) (2 ^ 40) 128 = false := by decide +kernel

/-! ### Sync, progress and tiles -/

theorem witness_hsyncBatch :
    let hh := { tileH 0 {} with hsync := [(3, { inbox := [⟨tileRef 0, 0, 0, 0, 1⟩] })] }
    runStep hh = some (stepIn .running) ∧ syncState (stepIn .running) = true ∧ (hsyncAt hh 3).inbox.take 1 ≠ [] := by decide +kernel

theorem witness_syncGrantArrival :
    let hh := { tileH 0 {} with grants := [(threadRef 5, 0xFF, 0), (tileRef 0, 2, 0)] }
    (threadRef 5).kind.toNat = 2 ∧ hh.grants.findIdx? (fun g => g.1 == threadRef 5 && g.2.1 == 0xFF) = some 0 ∧
      (tileRef 0).kind.toNat = 1 ∧ tileOfId (tileRef 0).id.toNat = some 0 ∧
      hh.grants.findIdx? (fun g => g.1 == tileRef 0 && g.2.1 == 2) = some 1 := by decide +kernel

/-- A tile whose slot 0 waits on its counter 0, which holds 0. -/
def waitTile : Tile := { syncTile 1 with syncs := [] }

theorem witness_syncWait_registers :
    let hh := tileH 0 waitTile
    let st := stepIn .running
    tileStep hh 0 = some st ∧ opCode (tileAt hh 0) 0 = 0x20 ∧ param (tileAt hh 0) 0 0 1 = 1 ∧
      missing 0 (tileAt hh 0) 0 (BitVec.ofNat 16 0) = some .sync ∧ (tileAt hh 0).state = .running ∧ st.state = .running ∧
      (candTags (tileAt hh 0) st 0).contains (BitVec.ofNat 16 0) = true ∧
      (tileAt hh 0).waitSlots.any (fun x => x.1 == 0 && x.2.1 == BitVec.ofNat 16 0) = false := by decide +kernel

theorem witness_tagTimeout :
    let hh := tileH 0 { ins := [(0, { closed := false, opened := [7] })] }
    let hc := combineH { closed := false, opened := [7] }
    runStep hh = some (stepIn .running) ∧ tileInSec hh 0 0 0 = true ∧ (inLive (tileAt hh 0) 0).closed = false ∧
      (inLive (tileAt hh 0) 0).opened.contains (BitVec.ofNat 16 7) = true ∧ inType (tileAt hh 0) 0 ≠ 2 ∧
      runStep hc = some (stepIn .running) ∧ tileInSec hc 0 0 0 = true ∧ (inLive (tileAt hc 0) 0).closed = false ∧
      (inLive (tileAt hc 0) 0).opened.contains (BitVec.ofNat 16 7) = true ∧ inType (tileAt hc 0) 0 = 2 := by decide +kernel

/-- A hearth whose step's section has thread 3 with this descriptor. -/
def thrH (body : BitVec 896) (t : Thread) : Hearth :=
  { tileH 0 {} with ctxs := [(0, { ctx1 with threads := [(3, { body := body })] })], threads := [(3, t)] }

/-- A descriptor: the mode, one row of 16 Flue32 elements at address 4096, no sync objects, and more. -/
def stkB (mode : Nat) (l : List (Nat × Nat) := []) : BitVec 896 :=
  bdy ([(0, mode), (1, 0x88), (0x14, 16), (0x18, 1), (0x20, 4096), (0x30, 64), (0x5A, 0xFFFF)] ++ l ++
    if l.any (fun x => x.1 == 0x58) then [] else [(0x58, 0xFFFF)])

theorem witness_syncWaitTimeout :
    let hh := thrH (stkB 0 [(0x58, 2)]) { waiting := true }
    runStep hh = some (stepIn .running) ∧ (threadRef 3).kind.toNat = 2 ∧ unitInSec hh 0 0 (threadRef 3) = true ∧
      (threadAt hh (threadRef 3).id.toNat).waiting = true ∧ (threadDesc hh 0 (threadRef 3).id.toNat).isSome = true := by decide +kernel

/-- A tile whose slot 0 waits on this object. -/
def waitsOn (obj : Nat) : Hearth :=
  tileH 0 { cfg := [(0, { opCfg 0x20 0 0 [(0, 1), (2, obj)] with
    syncs := [(obj, BitVec.ofNat 64 (2 * 2 ^ 62))] })], waitSlots := [(0, 0, false)] }

theorem witness_syncWaitTimeout_tile :
    (let n := syncObj (tileAt (waitsOn 0) 0) 0
     n < 0x100 ∧ waitOk (tileAt (waitsOn 0) 0) 0 0 = false) ∧ 0x100 ≤ syncObj (tileAt (waitsOn 0x102) 0) 0 ∧
      [waitsOn 0, waitsOn 0x102].all (fun hh =>
        (tileAt hh 0).waitSlots.find? (fun x => x.1 == 0 && !x.2.2) == some (0, 0, false) && unitInSec hh 0 0 (tileRef 0)) = true := by
  decide +kernel

/-- A tile that holds a token, with no operation that waits for it. -/
def holdsTok : Tile := { ins := [(0, { closed := false, queue := [{}] })] }

theorem witness_progress_remote :
    let hh := tileH 0 holdsTok
    let late := { stepIn .running with streak := 8 }
    let hl := { hh with steps := [late] }
    runStep hh = some (stepIn .running) ∧ hh.spilling = false ∧ hh.arb = none ∧ tokensHeld hh (stepIn .running) = true ∧
      (secTiles hh 0 0).any (fun v => (tileAt hh v).cur.isSome) = false ∧ stuck hh (stepIn .running) = none ∧
      (stepIn .running).streak < 8 ∧ runStep hl = some late ∧ tokensHeld hl late = true ∧ stuck hl late = none ∧ 8 ≤ late.streak := by
  decide +kernel

/-- A tile whose one operation lacks the rest of a group from its own output, with eight tokens in its queue: it waits on itself. -/
def waitsOnItself : Tile :=
  { cfg := [(0, { opCfg 0x11 1 0 [(2, 0x8000), (4, 0x8001), (8, 1)] with ins := [(0, inWord 0 0 0)] })]
    ins := [(0, { closed := false, opened := [0], queue := (List.range 8).map (fun i => { seq := BitVec.ofNat 8 i }) })]
    matches_ := [{ inp := 0, tok := {} }] }

theorem witness_progress_stuck :
    let hh := tileH 0 waitsOnItself
    let st := stepIn .running
    let full := { hh with spillFree := 0 }
    tokensHeld hh st = true ∧ (stuck hh st).isSome = true ∧ st.streak < 8 ∧ (spillSet hh st).length = 4 ∧
      128 * (spillSet hh st).length ≤ hh.spillFree ∧
      (stuck { hh with steps := [{ st with streak := 8 }] } { st with streak := 8 }).isSome = true ∧
      (stuck full st).isSome = true ∧ full.spillFree < 128 * (spillSet full st).length := by decide +kernel

theorem witness_spillRound :
    let hh := { tileH 0 waitsOnItself with spilling := true }
    runStep hh = some (stepIn .running) ∧ hh.spilling = true ∧ syncState (stepIn .running) = true ∧
      (spillSet hh (stepIn .running)).length = 4 := by decide +kernel

theorem witness_tileEvents : tileEnabled loaded 0 = true ∧ present loaded.st = true ∧ (tileAt loaded 0).state = .configured ∧
    nbit (tileAt loaded 0).valid.toNat 0 = true ∧ (tileAt loaded 0).switching = none := by decide +kernel

theorem witness_contextChangeComplete :
    let hh := { loaded with tiles := [(0, { tile1 with switching := some 0 })] }
    let hx := { loaded with tiles := [(0, { tile1 with switching := some 3 })] }
    (tileAt hh 0).switching = some 0 ∧ tileEnabled hh 0 = true ∧ (tileAt hh 0).state = .configured ∧
      nbit (tileAt hh 0).valid.toNat 0 = true ∧ (tileAt hx 0).switching = some 3 ∧ nbit (tileAt hx 0).valid.toNat 3 = false := by
  decide +kernel

theorem witness_sampleTick : { loaded with sampling := some 8 }.sampling = some 8 ∧ readyFaulted loaded.st = true := by decide

/-! ### Stoker threads -/

/-- The address of a slice, beyond the address that stkB gives. -/
def inSlice : List (Nat × Nat) := [(0x20, 0xF000000000 - 4096)]

/-- An address that no memory has, likewise. -/
def nowhere : List (Nat × Nat) := [(0x20, 0xFFFFFF0000 - 4096)]

theorem witness_stokerLoad :
    (liveThread (thrH (stkB 0) { toSend := [{}] }) 3).isSome = true ∧ (stkOf (stkB 0)).mode = 0 ∧
    fetched { fetch := some ([], []) } = some [] ∧ fetched { fetch := some ([256], []) } = none ∧
    (let hh := thrH (stkB 0) {}
     let st := stepIn .running
     liveThread hh 3 = some (st, stkOf (stkB 0)) ∧ startsNext hh st (stkOf (stkB 0)) (threadAt hh 3) = some 0 ∧
       waitedFor (stkOf (stkB 0)) (threadAt hh 3) = true ∧
       fetched (threadAt (startFetch (envOf host 0) hh st 3 (stkOf (stkB 0))) 3) = none) ∧
    (let d := stkOf (stkB 0 inSlice)
     let hh := thrH (stkB 0 inSlice) {}
     let asked := startFetch (envOf host 0) hh (stepIn .running) 3 d
     liveThread hh 3 = some (stepIn .running, d) ∧ startsNext hh (stepIn .running) d (threadAt hh 3) = some 0 ∧
       fetched (threadAt asked 3) = some [] ∧ runStep asked = some (stepIn .running)) := by decide +kernel

theorem witness_stokerStore :
    let go (l : List (Nat × Nat)) (buf : List Tok) : Option (Nat × Bool × Bool) :=
      let d := stkOf (stkB 1 l)
      let hh := thrH (stkB 1 l) { buf := buf }
      let t := takePart (threadAt hh 3)
      let hx := updThread hh 3 (fun _ => t)
      if (liveThread hh 3).isSome && (threadAt hh 3).held.isNone && waitedFor d (threadAt hh 3) && d.mode == 1
        && groupSize d.mem.rows d.mem.elems == 2
      then some (t.part.length, t.part.any (·.last), (badRange hx ((List.range d.mem.rows).flatMap (rowRanges d.mem
        (slotIdx d.mem (posNear hx (stepIn .running) t.curTag))))).isNone) else none
    go [(0x14, 16)] [{}, { last := true }] = some (2, true, true) ∧
      go ((0x14, 16) :: nowhere) [{}, { last := true }] = some (2, true, false) ∧ go [(0x14, 16)] [{}, {}] = some (2, false, true) ∧
      go [(0x14, 16)] [{}, {}, { last := true }] = some (3, true, true) ∧ go [(0x14, 16)] [{ last := true }] = some (1, true, true) ∧
      go [(0x14, 16)] [{}] = some (1, false, true) := by decide +kernel

theorem witness_stokerHeld :
    let hh := thrH (stkB 1) { held := some { tag := 0, pos := 0, writes := [] } }
    let hc := thrH (stkB 3) { held := some { tag := 0, pos := 0, writes := [] } }
    (liveThread hh 3).isSome = true ∧ (threadAt hh 3).held.isSome = true ∧ (liveThread hc 3).isSome = true ∧
      (threadAt hc 3).held.isSome = true ∧ (stkOf (stkB 3)).mode = 3 := by decide +kernel

theorem witness_stokerRelay :
    let b := stkB 2 [(0x1E, 1)]
    let d := stkOf b
    let taken (t : Thread) := relayIn (envOf host 0) (thrH b t) 3 d
    let ready := taken { donePre := 1, ring := [(0, 1)] }
    let next (hh : Hearth) := issueReads (updThread hh 3 (fun t => { t with
      fetch := some (unitsOf hh (readRanges d t t.next), []) })) 3
    d.mode = 2 ∧ (liveThread (thrH b {}) 3).isSome = true ∧
      liveThread (taken { buf := [{}, { last := true }] }) 3 = none ∧ (liveThread (taken { toSend := [{}] }) 3).isSome = true ∧
      (threadAt (taken { toSend := [{}] }) 3).toSend ≠ [] ∧ fetched (threadAt (taken { fetch := some ([], []) }) 3) = some [] ∧
      (threadAt (taken { fetch := some ([256], []) }) 3).toSend = [] ∧ fetched (threadAt (taken { fetch := some ([256], []) }) 3) = none ∧
      liveThread ready 3 = some (stepIn .running, d) ∧ (threadAt ready 3).toSend = [] ∧ (threadAt ready 3).fetch = none ∧
      mayIssue ready (stepIn .running) (threadAt ready 3).next = true ∧
      batchReady d (stepIn .running) (threadAt ready 3) (threadAt ready 3).next = true ∧ (threadAt ready 3).held = none ∧
      (threadAt ready 3).unacked.any (fun x => x.1 == (threadAt ready 3).next) = false ∧
      fetched (threadAt (next ready) 3) = none := by decide +kernel

/-- A ring in a slice, whose reads are there at once. -/
theorem witness_stokerRelay_slice :
    let b := stkB 2 ([(0x1E, 1)] ++ inSlice)
    let d := stkOf b
    let hh := relayIn (envOf host 0) (thrH b { donePre := 1, ring := [(0, 1)] }) 3 d
    liveThread hh 3 = some (stepIn .running, d) ∧ fetched (threadAt (issueReads (updThread hh 3 (fun t => { t with
      fetch := some (unitsOf hh (readRanges d t t.next), []) })) 3) 3) = some [] := by decide +kernel

theorem witness_stokerCopy :
    let d := stkOf (stkB 3)
    let hh := thrH (stkB 3) {}
    let st := stepIn .running
    liveThread hh 3 = some (st, d) ∧ d.mode = 3 ∧ (threadAt hh 3).held = none ∧ (threadAt hh 3).fetch = none ∧
      startsNext hh st d (threadAt hh 3) = some 0 ∧ waitedFor d (threadAt hh 3) = true ∧
      fetched (threadAt (startFetch (envOf host 0) hh st 3 d) 3) = none ∧
      (let d := stkOf (stkB 3 inSlice)
       let hh := thrH (stkB 3 inSlice) {}
       let asked := startFetch (envOf host 0) hh st 3 d
       liveThread hh 3 = some (st, d) ∧ startsNext hh st d (threadAt hh 3) = some 0 ∧ fetched (threadAt asked 3) = some [] ∧
         runStep asked = some st) ∧
      (threadAt (thrH (stkB 3) { fetch := some ([], []) }) 3).held = none ∧
      (liveThread (thrH (stkB 3) { fetch := some ([], []) }) 3).isSome = true := by decide +kernel

theorem witness_stokerTrigger :
    let hh := thrH (stkB 4) {}
    let st := stepIn .running
    liveThread hh 3 = some (st, stkOf (stkB 4)) ∧ (stkOf (stkB 4)).mode = 4 ∧ (threadAt hh 3).toSend = [] ∧
      startsNext hh st (stkOf (stkB 4)) (threadAt hh 3) = some 0 ∧ waitedFor (stkOf (stkB 4)) (threadAt hh 3) = true ∧
      (liveThread (thrH (stkB 4) { toSend := [{}] }) 3).isSome = true := by decide +kernel

theorem witness_stokerWait :
    let b := stkB 0 [(0x58, 2)]
    let hh := thrH b {}
    liveThread hh 3 = some (stepIn .running, stkOf b) ∧ (stkOf b).waitObj ≠ 0xFFFF ∧ (threadAt hh 3).waited = false ∧
      (threadAt hh 3).waiting = false ∧ startsNext hh (stepIn .running) (stkOf b) (threadAt hh 3) = some 0 := by decide +kernel

theorem witness_stokerPost :
    let b := bdy [(0, 1), (0x5A, 2), (0x58, 0xFFFF)]
    let hh := thrH b { donePre := 1 }
    let hb := { hh with ctxs := [(0, { ctx1 with
      threads := [(3, { body := b })], hsync := [(2, BitVec.ofNat 64 (2 ^ 62))] })] }
    liveThread hh 3 = some (stepIn .running, stkOf b) ∧ postDue (stkOf b) (stepIn .running) (threadAt hh 3) = true ∧
      hsyncMode hh 0 (stkOf b).postObj ≠ 1 ∧ liveThread hb 3 = some (stepIn .running, stkOf b) ∧
      postDue (stkOf b) (stepIn .running) (threadAt hb 3) = true ∧ hsyncMode hb 0 (stkOf b).postObj = 1 := by decide +kernel

/-! ### The memory system -/

/-- A hearth with a read and a write that wait at port 0. -/
def requests (w : Option (List (Nat × Byte))) : Hearth := { ready with reqs := [⟨threadRef 3, 0, 4096, w⟩] }

theorem witness_memoryRequest :
    (requests none).reqs.findIdx? (fun r => subOf (requests none) r.unitAddr / 2 == 0) = some 0 ∧
      (requests none).reqs[0]? = some ⟨threadRef 3, 0, 4096, none⟩ ∧ (requests none).errs = [] ∧
      (requests (some [(4096, 1)])).reqs[0]? = some ⟨threadRef 3, 0, 4096, some ((4096, 1) :: [])⟩ := by decide +kernel

theorem witness_replies :
    let hh := { thrH (stkB 1) {} with replies := [⟨threadRef 3, 0, 4096, 0, []⟩], acks := [(threadRef 3, 0)] }
    hh.replies = ⟨threadRef 3, 0, 4096, 0, []⟩ :: [] ∧ hh.acks = (threadRef 3, 0) :: [] ∧
      ownerOf { hh with acks := [] } (threadRef 3) = some (stepIn .running) ∧ ownerOf ready (threadRef 3) = none := by decide +kernel

/-- The module with sub-channel 0's device at 30 °C, where its last training was at 20 °C. -/
def warmed : State := { modul { ready with lastTrain := [(0, 160)] } with sensors := [(96, { value := 240 })] }

theorem witness_memoryCare : memOn ready = true ∧ ready.subsOut.contains 0 = false ∧ ready.errs = [] ∧ runStep ready = none ∧
    trainingDue warmed 0 0 = true ∧ deviceTemp warmed 0 0 = 240 := by decide +kernel

theorem witness_patrolScrub : scrubbed ready (8 * 4) = true ∧ scrubbed ready (8 * 0x1F00000000) = false ∧ memOn ready = true ∧
    ({ ready with errs := [(32, poisonErr)] } : Hearth).errs ≠ [] := by decide +kernel

theorem witness_reshape :
    let out := { ready with reshape := some ⟨1, true, 4096⟩ }
    let back := { ready with reshape := some ⟨1, false, 4096⟩ }
    out.reshape = some ⟨1, true, 4096⟩ ∧ back.reshape = some ⟨1, false, 4096⟩ ∧ 4096 < (subsIn back).length * 2 ^ 24 := by
  decide +kernel

/-! ### Steps -/

theorem witness_slotFill :
    let s := modul { loaded with steps := [stepIn .pending] }
    s.pairsFailed = false ∧ (hearthOf s 0).slotBest = none ∧ nextWorkload s 0 false = some 5 ∧
      nextPending (hearthOf s 0) 5 = some (stepIn .pending) := by decide +kernel

theorem witness_slotFill_latency :
    let s := { modul { loaded with steps := [stepIn .pending] } with accounts := [(5, { known := true, latency := true })] }
    (hearthOf s 0).slotLat = none ∧ nextWorkload s 0 true = some 5 := by decide +kernel

theorem witness_stepDispatch :
    let lat := { loaded with steps := [stepIn .held], slotLat := some 1 }
    let froz := { loaded with steps := [stepIn .frozen], snap := some snap0 }
    let best := { loaded with steps := [stepIn .held], slotBest := some 1 }
    let both := { frozenH with steps := frozenH.steps ++ [{ stepIn .held with id := 2, workload := 6 }], slotBest := some 2 }
    runStep lat = none ∧ lat.slotLat = some 1 ∧ runStep froz = none ∧ froz.slotLat = none ∧
      frozenStep froz = some (stepIn .frozen) ∧ (stepIn .frozen).byHost = false ∧
      runStep best = none ∧ best.slotLat = none ∧ frozenStep best = none ∧ best.slotBest = some 1 ∧
      runStep both = none ∧ both.slotLat = none ∧ frozenStep both = some { stepIn .frozen with byHost := true } ∧
      both.slotBest = some 2 := by decide +kernel

theorem witness_stepStart :
    let hh := { loaded with steps := [stepIn .starting] }
    runStep hh = some (stepIn .starting) ∧ (secTiles hh 0 0).any (fun v => (tileAt hh v).state == .resetting) = false := by decide +kernel

theorem witness_classPreempt :
    let l := { stepIn .held with id := 2, latency := true, preempting := true }
    let hh := { running tile1 with steps := [stepIn .running, l], slotLat := some 2 }
    runStep hh = some (stepIn .running) ∧ hh.slotLat = some 2 ∧ hh.steps.find? (fun y => y.id == 2) = some l ∧
      l.preempting = true ∧ preempts hh l = true := by decide +kernel

theorem witness_haltComplete :
    let hh := { loaded with steps := [stepIn .halting] }
    let x : Started := { id := 1, org := { src := .ring 0, opcode := 0x41, hostTag := 0, sqHead := 0 }
                         wait := some (.preempt [(0, 1)] true none) }
    runStep hh = some (stepIn .halting) ∧ (stepIn .halting).treeHold = false ∧ halted hh (stepIn .halting) = true ∧
      haltRound (modul hh) 0 1 = false ∧ haltRound { modul hh with started := [x] } 0 1 = true := by decide +kernel

theorem witness_stepComplete :
    let x := { stepIn .running with n := 0 }
    let hh := { loaded with steps := [x] }
    runStep hh = some x ∧ syncState x = true ∧ stepFinished hh x = true := by decide +kernel

theorem witness_save_restore :
    let sv := { loaded with steps := [stepIn .saving] }
    let rs := { loaded with steps := [stepIn .restoring], snap := some { snap0 with census := census loaded } }
    let ls := { rs with dies := [(0, { retired := 2 })] }
    runStep sv = some (stepIn .saving) ∧ runStep rs = some (stepIn .restoring) ∧ rs.snap = some { snap0 with census := census loaded } ∧
      lostTile rs (stepIn .restoring) = false ∧ lostTile ls (stepIn .restoring) = true := by decide +kernel

/-! ### Faults and late completions -/

/-- A flag of a function tile's output. -/
def flag0 : Flag := { site := .fnOut 0, producer := tileRef 0, orig := 5 }

theorem witness_arbitration :
    let hh := { running tile1 with arb := some { flag := flag0, referee := false } }
    let hr := { running tile1 with arb := some { flag := flag0, referee := true } }
    let hn := { running tile1 with arb := some { flag := { flag0 with bound := 3 }, referee := true } }
    runStep hh = some (stepIn .running) ∧ hh.arb = some { flag := flag0, referee := false } ∧
      hr.arb = some { flag := flag0, referee := true } ∧ flag0.replay = none ∧ flag0.bound ≠ 3 ∧
      hn.arb = some { flag := { flag0 with bound := 3 }, referee := true } ∧ { flag0 with bound := 3 }.bound = 3 ∧ (6 : W32) ≠ flag0.orig := by
  decide +kernel

theorem witness_faults : 2 / 1024 ≠ 10 ∧ (10 * 1024) / 1024 = 10 ∧ present ready.st = true ∧ tileEnabled ready 0 = true ∧
    readyFrozen ready.st = true ∧ FatalEvent.commandLink = .commandLink ∧
    scrubVote ready.scrubA ready.scrubB ready.scrubC = some (0, none) ∧ scrubVote 1 0 0 = some (0, some 0) ∧
    scrubVote 0 1 0 = some (0, some 1) ∧ scrubVote 0 0 1 = some (0, some 2) ∧ scrubVote 0 1 2 = none ∧
    CtrlUnit.hearthSync ≠ .cmdPair ∧ host.pairsFailed = false ∧ host.power.booted = true ∧
    (host.pairBucket ++ [host.time.ns]).length < 3 ∧
    3 ≤ ({ host with pairBucket := [1, 2] }.pairBucket ++ [host.time.ns]).length := by decide +kernel

theorem witness_loadComplete :
    let l : Load := { cmd := 1, ctx := 0, info := {}, tiles := [], first := [], idle := [], idleTiles := 0 }
    { ready with load := some l }.load = some l := rfl

theorem witness_fwSwitch :
    let a : Activation := { cmd := 1, target := 1, left := [0], switched := 0 }
    let s := { host with activation := [a, { a with cmd := 2, target := 0 }] }
    s.activation = a :: [{ a with cmd := 2, target := 0 }] ∧ a.left = 0 :: [] ∧ a.target ≠ 0 ∧ flueOn (hearthOf s 0) = true ∧
      ({ a with target := 0 } : Activation).left = 0 :: [] := by decide +kernel

theorem witness_restoreTest :
    let hh := { ready with restoring := [(.slice 3, 1)], slicesOut := [3] }
    let hx := { ready with restoring := [(.slice 3, 1)] }
    hh.restoring = (.slice 3, 1) :: [] ∧ UnitSel.slice 3 ≠ .hearth ∧ readyFaulted hh.st = true ∧ wholeOut hh (.slice 3) = true ∧
      containerOut hh (.slice 3) = false ∧ wholeOut hx (.slice 3) = false := by decide +kernel

/-! ### The sideband and the whole machine -/

theorem witness_sideband :
    let s := { host with sidebandOn := true }
    fruOk s = true ∧ 0 < 2048 ∧ mctpOk s = true ∧ sensorIds[1 - 1]? = some 1 ∧ sensorIndex 1 = some 0 ∧
      mctpOk { s with sidebandFailed := true } = false := by decide +kernel

theorem witness_hearthOnly : hearthOnly (.stepComplete 0) = some 0 ∧ hearthOnly (.hearthFatal 0 .railFault false) = some 0 ∧
    hearthOnly (.hearthFatal 0 .commandLink false) = none ∧ smapWf ({} : Hearth) host.hearths = true := by decide +kernel

theorem witness_tick : State.reset.pending = [] ∧ State.reset.time.slew = 0 ∧ State.reset.time.half = false := by decide

theorem witness_packet : 0x0010 < 65536 ∧ (Src.ring 0).wf = true ∧
    decodePacket (.ring 0) (pktBytes 0x0010 (pk [])) = some (.identify (pk [])) := by decide +kernel

theorem witness_rounding : isNan32 0x3F800000 = false ∧ isNan32 0x7F800001 = true ∧ 3 ≤ 3 ∧ 255 < 2 ^ (fmtOf 3).bits := by decide +kernel

theorem witness_fuses : ∃ t, step State.reset = .next t := ⟨_, rfl⟩

/-- A module in ALARM with its power on. -/
theorem witness_alarmHeld : AlarmHeld { host with mod := .alarm } ∧ coldResets .healthRead = false ∧ host.fuses.policySet = false ∧
    host.power.mantelOn = true ∧ host.power.perst = false := by
  unfold AlarmHeld; decide +kernel

theorem witness_canonical : Canonical host ∧ RoomHeld host := by unfold Canonical RoomHeld; decide +kernel

/-- A module with 256 started commands. -/
theorem witness_room :
    let x : Started := { id := 1, org := { src := .ring 0, opcode := 1, hostTag := 0, sqHead := 0 }, wait := none }
    outstanding { host with started := List.replicate 256 x } = 256 ∧ (pk []).src = .ring 0 ∧ (0x50 : Nat) ≠ 0x40 := by decide +kernel

/-! ### Ill-formed commands, one for each check -/

theorem test_wf_source : (Instr.nop (pk [] 0 0 (.ring 7))).wf = true ∧ (Instr.nop (pk [] 0 0 (.ring 8))).wf = false ∧
    (Instr.pad (pk [] 0 0 (.linkLocal 9 0))).wf = false ∧ (Instr.fill (pk [] 0 0 (.linkLocal 8 14))).wf = false ∧
    (Instr.copy (pk [] 0 0 .parent)).wf = true := by decide +kernel

theorem test_wf_selector : (Instr.preemptStep (pk [(0x10, 1)])).wf = false ∧ (Instr.preemptStepHalt (pk [(0x10, 2)])).wf = false ∧
    (Instr.preemptStepSave (pk [(0x10, 1)])).wf = false ∧ (Instr.setShares (pk [(0x10, 1)])).wf = false ∧
    (Instr.setSharesRemove (pk [])).wf = false ∧ (Instr.syncTimeSet (pk [(0x10, 1)])).wf = false ∧
    (Instr.syncTimeSlew (pk [])).wf = false ∧ (Instr.resetHearth (pk [(0x10, 1)])).wf = false ∧
    (Instr.moduleWarmReset (pk [])).wf = false ∧ (Instr.sampleStart (pk [(0x10, 2)])).wf = false ∧
    (Instr.sampleStop (pk [])).wf = false ∧ (Instr.sampleRead (pk [])).wf = false ∧
    (Instr.calibrationRead (pk [(0x10, 1)])).wf = false ∧ (Instr.calibrationWrite (pk [])).wf = false ∧
    (Instr.calibrationReset (pk [])).wf = false ∧ (Instr.debugUnlockChallenge (pk [(0x10, 1)])).wf = false ∧
    (Instr.debugUnlockResponse (pk [])).wf = false := by decide +kernel

theorem test_wf_port : (Instr.sqDoorbell 8 0).wf = false ∧ (Instr.cqHeadWrite 8 0).wf = false ∧ (Instr.biasWrite 36 0).wf = false ∧
    (Instr.hdmDecoderCommit 2 0 0 0 1).wf = false ∧ (Instr.registerWrite 65536 8 0).wf = false ∧ (Instr.registerWrite 0 2 0).wf = false ∧
    (Instr.cxlMemRead 32).wf = false ∧ (Instr.cxlMemWrite 32 0 0).wf = false ∧ (Instr.hostBiasAccess 0 32 0).wf = false ∧
    (Instr.cxlLinkTraining true 5 1).wf = false ∧ (Instr.cxlLinkTraining true 4 0).wf = false ∧ (Instr.cxlLinkTraining true 4 4).wf = false := by
  decide +kernel

theorem test_wf_places : (Instr.stepDispatch 9).wf = false ∧ (Instr.firingEnd 0 480 2).wf = false ∧ (Instr.firingEnd 0 0 1025).wf = false ∧
    (Instr.mma 0 0 32 0).wf = false ∧ (Instr.mma 0 0 0 65536).wf = false ∧ (Instr.tokenAdmit 0 0 16).wf = false ∧
    (Instr.cellInject 0 14 0).wf = false ∧ (Instr.cellInject 0 0 4).wf = false ∧ (Instr.laneEvent 0 6 0 0 0).wf = false ∧
    (Instr.laneEvent 0 0 4 0 0).wf = false ∧ (Instr.putTag 0 512).wf = false ∧ (Instr.scheduleSlotOpen 0 0 12).wf = false ∧
    (Instr.stokerPost 0 1024).wf = false ∧ (Instr.hsyncBatch 0 256 1).wf = false ∧ (Instr.ackDelayExpiry 0 262200).wf = false ∧
    (Instr.bankLoadComplete 0 0 2).wf = false ∧ (Instr.contextChange 0 0 4).wf = false ∧ (Instr.slotFill 0 2).wf = false ∧
    (Instr.memoryRequest 0 24).wf = false ∧ (Instr.perBankRefresh 0 48 0).wf = false ∧ (Instr.perBankRefresh 0 0 16).wf = false := by
  decide +kernel

theorem test_wf_units : (Instr.tokenArrival 0 ⟨1, 48⟩ 0).wf = false ∧ (Instr.tokenArrival 0 ⟨1, 640⟩ 0).wf = false ∧
    (Instr.tokenArrival 0 ⟨2, 1024⟩ 0).wf = false ∧ (Instr.tokenArrival 0 ⟨4, 7168⟩ 0).wf = false ∧ (Instr.tokenArrival 0 ⟨5, 0⟩ 0).wf = false ∧
    (Instr.tokenArrival 0 (tileRef 479) 16).wf = false ∧ (Instr.tokenArrival 0 (tileRef 479) 15).wf = true ∧
    (Instr.checkFlag 0 (.fnIn 0 16)).wf = false ∧ (Instr.checkFlag 0 (.writePath 1024)).wf = false ∧
    (Instr.controlMismatch 0 (.tile 480) true).wf = false ∧ (Instr.controlMismatch 0 (.portRoute 14) true).wf = false := by decide +kernel

theorem test_wf_rest : (Instr.tokenShare [1]).wf = false ∧ (Instr.clockStepChange 0 15).wf = false ∧ (Instr.clockStepChange 0 65).wf = false ∧
    (Instr.sensorUpdate [⟨880, 0, 0⟩]).wf = false ∧ (Instr.jtagInstruction 100 0).wf = false ∧ (Instr.fruRead 4096).wf = false ∧
    (Instr.combiningSumComplete 0 0 0 65536).wf = false ∧ (Instr.chimneyFault 0 480).wf = false := by decide +kernel

/-! ### Values that the spec works out -/

/-- The link tiles of the example after R15. -/
theorem test_linkTile : linkTile 4 2 = 8 ∧ linkTile 4 7 = 12 ∧ linkTile 2 4 = 9 := by decide

/-- A Glow4 block from its 64-bit word and its Scale8 code. -/
def glowBlock (w sc : Nat) : List XVal × List Nat :=
  ((List.range 16).map (fun i => decodeVal 1 (w / 16 ^ i % 16)), [sc])

/-- The reduction unit that the spec carries to 40.546875. -/
theorem test_unitResult : unitResult 1 0 (glowBlock 0xB76952F43C6017A5 0x9E) (glowBlock 0xE75417AC4623F546 0xA5) = 0x42223000#32 := by
  decide +kernel

/-- Table 4-11: the tree answers 1.5, where a sequential sum would answer 0.5. -/
theorem test_tree : tree32 [0x4B800000, 0x3F800000, 0x3F800000, 0xCB800000, 0x3F000000] = 0x3FC00000#32 := by decide +kernel

/-- The values of Table 4-9. -/
def table49 : List XVal :=
  [0x40A80000, 0xC0440000, 0x3E600000, 0x3F280000, 0x400C0000, 0x408C0000, 0xBD800000, 0x3F800000, 0x3FA80000, 0xBFE00000, 0x3EE00000,
    0x40280000, 0, 0xC0A80000, 0x40600000, 0xBF600000].map (decodeVal flue)

/-- A narrowing control with every bit clear but rotation as given. -/
def plain (rot : Bool) : Narrow :=
  { rot := rot, ember := false, calibrated := false, shadow := false, shadowFmt := 0, stream := 0, signs := 0, emberBase := 0 }

/-- Table 4-9, codes and scale. -/
theorem test_narrow : (narrowRow 1 0x3F800000 (plain false) 0 table49 []).codes.foldr (fun x a => x + 16 * a) 0 = 0xA6F051C3206420E7 ∧
    (narrowRow 1 0x3F800000 (plain false) 0 table49 []).scales = [0xA3] := by decide +kernel

/-- The block with one outlier, with rotation (the example on random signs and rotation). -/
theorem test_rotate :
    let x := narrowRow 1 0x3F800000 (plain true) 0 (decodeVal flue 0x41400000 :: List.replicate 15 (decodeVal flue 0x3E800000)) []
    x.codes.foldr (fun x a => x + 16 * a) 0 = 0x6666666666666667 ∧ x.scales = [0xA2] := by decide +kernel

/-- The place of address 0x3000 of hearth 3, with 48 sub-channels and without sub-channel 5 (the example after R250). -/
theorem test_subChannel : dramOf {} 0x3000 = ⟨32, 11, 10, 37⟩ ∧ dramOf { subsOut := [5] } 0x3000 = ⟨19, 2, 4, 38⟩ := by decide +kernel

/-- The peer contexts of module 131,200, hearth 5 (Table 9-4). -/
theorem test_ctxIndex : ctxIndex 131200 5 0 = 4628 ∧ ctxIndex 131200 5 1 = 4629 := by decide

/-- The way from hearth 1 of module 70,001 to hearth 5 of module 131,200 (the example after R320): by hearth 6 and its port 4 on
channel 0, and by hearth 3 on channel 1; a cell that is its module's own goes on so at the second hearth, another by MIN_PORT. -/
theorem test_route :
    let w : W64 := BitVec.ofNat 64 (2 ^ 63 + 23 * 2 ^ 55 + 40 * 2 ^ 49 + 5 * 2 ^ 45)
    let hh : Hearth := { ready with moduleId := 70001, idValid := true, routeGroup := [(4100, w)], modulePorts := 2 ^ 23 + 2 ^ 40
                                    ports := [(4, upPort), (8, upPort), (11, upPort)] }
    routeOf 1 hh 131200 5 0 true = some 11 ∧ routeOf 1 hh 131200 5 1 true = some 8 ∧
      routeOf 6 hh 131200 5 0 true = some 4 ∧ routeOf 6 hh 131200 5 0 false ≠ some 4 := by decide +kernel

end Sys2Proof.Tests
end

/-! The host port's rings (R369 to R371): what a write of a ring's registers does, case by case, which rings the mantel reads, and
when a completion ring drops its records. -/

namespace Sys2Proof.Machine

/-! ### Fields of a written word -/

/-- A bit of a number is the library's test of that bit. -/
theorem nbit_eq_testBit (x i : Nat) : nbit x i = x.testBit i := by
  rw [nbit, Nat.testBit_eq_decide_div_mod_eq]
  rfl

/-- The bits of a field. -/
theorem testBit_nbits (x hi lo i : Nat) :
    (nbits x hi lo).testBit i = (decide (i < hi + 1 - lo) && x.testBit (lo + i)) := by
  simp only [nbits, Nat.testBit_mod_two_pow, Nat.testBit_div_two_pow, Nat.add_comm]

/-- The word that sets ENABLE, bit 63, bit by bit. -/
theorem testBit_setEnable (v : W64) (i : Nat) :
    (v ||| 0x8000000000000000).toNat.testBit i = (v.toNat.testBit i || decide (63 = i)) := by
  rw [BitVec.toNat_or, Nat.testBit_or, show (0x8000000000000000 : W64).toNat = 2 ^ 63 from rfl, Nat.testBit_two_pow]

/-- The word that clears ENABLE, bit by bit. -/
theorem testBit_clearEnable (v : W64) (i : Nat) :
    (v &&& 0x7FFFFFFFFFFFFFFF).toNat.testBit i = (v.toNat.testBit i && decide (i < 63)) := by
  rw [BitVec.toNat_and, Nat.testBit_and, show (0x7FFFFFFFFFFFFFFF : W64).toNat = 2 ^ 63 - 1 from rfl,
    Nat.testBit_two_pow_sub_one]

/-- ENABLE is set in the word of SQ_ENABLE and CQ_ENABLE. -/
@[simp] theorem nbit_setEnable (v : W64) : nbit (v ||| 0x8000000000000000).toNat 63 = true := by
  rw [nbit_eq_testBit, testBit_setEnable, decide_eq_true rfl, Bool.or_true]

/-- ENABLE is clear in the word of SQ_DISABLE and CQ_DISABLE. -/
@[simp] theorem nbit_clearEnable (v : W64) : nbit (v &&& 0x7FFFFFFFFFFFFFFF).toNat 63 = false := by
  rw [nbit_eq_testBit, testBit_clearEnable, decide_eq_false (Nat.lt_irrefl 63), Bool.and_false]

/-- Setting ENABLE leaves the fields below bit 63. -/
theorem nbits_setEnable (v : W64) (hi lo : Nat) (h : hi < 63) :
    nbits (v ||| 0x8000000000000000).toNat hi lo = nbits v.toNat hi lo := by
  refine Nat.eq_of_testBit_eq fun i => ?_
  rw [testBit_nbits, testBit_nbits, testBit_setEnable]
  by_cases hi' : i < hi + 1 - lo
  · simp only [show ¬63 = lo + i by omega, decide_false, Bool.or_false]
  · simp only [hi', decide_false, Bool.false_and]

/-- Clearing ENABLE leaves the fields below bit 63. -/
theorem nbits_clearEnable (v : W64) (hi lo : Nat) (h : hi < 63) :
    nbits (v &&& 0x7FFFFFFFFFFFFFFF).toNat hi lo = nbits v.toNat hi lo := by
  refine Nat.eq_of_testBit_eq fun i => ?_
  rw [testBit_nbits, testBit_nbits, testBit_clearEnable]
  by_cases hi' : i < hi + 1 - lo
  · simp only [show lo + i < 63 by omega, decide_true, Bool.and_true]
  · simp only [hi', decide_false, Bool.false_and]

/-- LOG2_SLOTS of a size register. -/
theorem nbits_log2 (x : Nat) : nbits x 4 0 = x % 32 := by
  simp only [nbits, Nat.pow_zero, Nat.div_one, Nat.reduceAdd, Nat.sub_zero, Nat.reducePow]

/-- PRIORITY of a size register. -/
theorem nbits_priority (x : Nat) : nbits x 61 59 = x / 2 ^ 59 % 8 := rfl

/-- TAIL of a doorbell, HEAD of a completion ring. -/
theorem nbits_slot (x : Nat) : nbits x 15 0 = x % 65536 := by
  simp only [nbits, Nat.pow_zero, Nat.div_one, Nat.reduceAdd, Nat.sub_zero, Nat.reducePow]

/-! ### The check of R369 -/

/-- The condition under which a size register refuses ENABLE is that the ring does not fit. -/
theorem refused_iff_not_ringFits (s : State) (base : BitVec 52) (lg bytes : Nat) :
    (lg < 4 ∨ 16 < lg ∨ base.toNat * 4096 % max (2 ^ lg * bytes) 4096 ≠ 0 ∨
      (!inWindow s.regs (base.toNat * 4096) (2 ^ lg * bytes)) = true) ↔ ¬ringFits s base lg bytes := by
  simp only [ringFits, Classical.not_and_iff_not_or_not, Nat.not_le, Bool.not_eq_true, Bool.not_eq_true', ne_eq]

/-- A LOG2_SLOTS that is not 4 to 16 is cause 2. -/
theorem ringCheck_of_log2 (r : Regs) (base : BitVec 52) (lg bytes : Nat) (h : lg < 4 ∨ 16 < lg) :
    ringCheck r base lg bytes = 2 := by
  simp only [ringCheck, if_pos h]

/-- A ring of legal size and alignment outside every window is cause 1. -/
theorem ringCheck_of_outside (r : Regs) (base : BitVec 52) (lg bytes : Nat) (h4 : 4 ≤ lg) (h16 : lg ≤ 16)
    (ha : base.toNat * 4096 % max (2 ^ lg * bytes) 4096 = 0)
    (hw : inWindow r (base.toNat * 4096) (2 ^ lg * bytes) = false) : ringCheck r base lg bytes = 1 := by
  have hlg : ¬(lg < 4 ∨ 16 < lg) := by omega
  simp only [ringCheck, hlg, ha, hw, ne_eq, not_true_eq_false, Bool.not_false, if_true, if_false]

/-! ### The submission ring's registers -/

/-- A doorbell within an enabled ring moves TAIL. -/
theorem doorbell_of_lt (s : State) (n : Nat) (v : W64) (he : (sqOf s n).enable = true)
    (ht : v.toNat % 65536 < 2 ^ (sqOf s n).log2) :
    doorbell n v s = putSq s n { sqOf s n with tail := v.toNat % 65536 } := by
  simp only [doorbell, nbits_slot, he, if_neg (Nat.not_le.2 ht), Bool.not_true, Bool.false_eq_true, if_false]

/-- A doorbell beyond an enabled ring stops it. -/
theorem doorbell_of_le (s : State) (n : Nat) (v : W64) (he : (sqOf s n).enable = true)
    (ht : 2 ^ (sqOf s n).log2 ≤ v.toNat % 65536) :
    doorbell n v s = putSq s n { sqOf s n with error := true, cause := 3 } := by
  simp only [doorbell, nbits_slot, he, if_pos ht, Bool.not_true, Bool.false_eq_true, if_false]

/-- Clearing ENABLE of an enabled submission ring leaves LOG2_SLOTS. -/
theorem sqSize_clearEnable (s : State) (n : Nat) (v : W64) (he : (sqOf s n).enable = true) :
    sqSize n (v &&& 0x7FFFFFFFFFFFFFFF) s =
      putSq s n { sqOf s n with enable := false, priority := v.toNat / 2 ^ 59 % 8 } := by
  simp only [sqSize, nbit_clearEnable, nbits_clearEnable v 61 59 (by omega), nbits_priority, he, Bool.not_false, if_true]

/-- Setting ENABLE of an enabled submission ring takes PRIORITY alone. -/
theorem sqSize_setEnable_of_enabled (s : State) (n : Nat) (v : W64) (he : (sqOf s n).enable = true) :
    sqSize n (v ||| 0x8000000000000000) s = putSq s n { sqOf s n with priority := v.toNat / 2 ^ 59 % 8 } := by
  simp only [sqSize, nbit_setEnable, nbits_setEnable v 61 59 (by omega), nbits_priority, he, Bool.not_true,
    Bool.false_eq_true, if_false, if_true]

/-- Setting ENABLE of a disabled submission ring that fits enables it, empty. -/
theorem sqSize_setEnable_of_fits (s : State) (n : Nat) (v : W64) (he : (sqOf s n).enable = false)
    (hf : ringFits s (sqOf s n).base (v.toNat % 32) 64) :
    sqSize n (v ||| 0x8000000000000000) s = putSq s n { sqOf s n with
      enable := true, error := false, cause := 0, priority := v.toNat / 2 ^ 59 % 8, log2 := v.toNat % 32
      head := 0, tail := 0 } := by
  simp only [sqSize, nbit_setEnable, nbits_setEnable v 61 59 (by omega), nbits_setEnable v 4 0 (by omega), nbits_priority,
    nbits_log2, refused_iff_not_ringFits, he, hf, Bool.not_true, not_true, Bool.false_eq_true, if_false]

/-- Setting ENABLE of a disabled submission ring that does not fit leaves it disabled, with the check's cause. -/
theorem sqSize_setEnable_of_not_fits (s : State) (n : Nat) (v : W64) (he : (sqOf s n).enable = false)
    (hf : ¬ringFits s (sqOf s n).base (v.toNat % 32) 64) :
    sqSize n (v ||| 0x8000000000000000) s = putSq s n { sqOf s n with
      priority := v.toNat / 2 ^ 59 % 8, log2 := v.toNat % 32, error := true
      cause := ringCheck s.regs (sqOf s n).base (v.toNat % 32) 64 } := by
  simp only [sqSize, nbit_setEnable, nbits_setEnable v 61 59 (by omega), nbits_setEnable v 4 0 (by omega), nbits_priority,
    nbits_log2, refused_iff_not_ringFits, he, hf, Bool.not_true, not_false_eq_true, Bool.false_eq_true, if_false, if_true]

/-! ### The completion ring's registers -/

/-- A write of HEAD that marks only written records as consumed is taken. -/
theorem cqHead_of_accepted (s : State) (n : Nat) (v : W64)
    (h : v.toNat % 65536 < 2 ^ (cqOf s n).log2 ∧
      (v.toNat % 65536 + 2 ^ (cqOf s n).log2 - (cqOf s n).head) % 2 ^ (cqOf s n).log2 ≤
        ((cqOf s n).tail + 2 ^ (cqOf s n).log2 - (cqOf s n).head) % 2 ^ (cqOf s n).log2) :
    cqHead n v s = putCq s n { cqOf s n with head := v.toNat % 65536 } := by
  simp only [cqHead, nbits_slot, if_pos h]

/-- Any other write of HEAD stops the ring. -/
theorem cqHead_of_refused (s : State) (n : Nat) (v : W64)
    (h : ¬(v.toNat % 65536 < 2 ^ (cqOf s n).log2 ∧
      (v.toNat % 65536 + 2 ^ (cqOf s n).log2 - (cqOf s n).head) % 2 ^ (cqOf s n).log2 ≤
        ((cqOf s n).tail + 2 ^ (cqOf s n).log2 - (cqOf s n).head) % 2 ^ (cqOf s n).log2)) :
    cqHead n v s = putCq s n { cqOf s n with error := true, cause := 3 } := by
  simp only [cqHead, nbits_slot, if_neg h]

/-- Clearing ENABLE of an enabled completion ring leaves LOG2_SLOTS. -/
theorem cqSize_clearEnable (s : State) (n : Nat) (v : W64) (he : (cqOf s n).enable = true) :
    cqSize n (v &&& 0x7FFFFFFFFFFFFFFF) s = putCq s n { cqOf s n with enable := false } := by
  simp only [cqSize, nbit_clearEnable, he, Bool.not_false, if_true]

/-- Setting ENABLE of an enabled completion ring does nothing. -/
theorem cqSize_setEnable_of_enabled (s : State) (n : Nat) (v : W64) (he : (cqOf s n).enable = true) :
    cqSize n (v ||| 0x8000000000000000) s = s := by
  simp only [cqSize, nbit_setEnable, he, Bool.not_true, Bool.false_eq_true, if_false, if_true]

/-- Setting ENABLE of a disabled completion ring that fits enables it, empty and with PHASE 1. -/
theorem cqSize_setEnable_of_fits (s : State) (n : Nat) (v : W64) (he : (cqOf s n).enable = false)
    (hf : ringFits s (cqOf s n).base (v.toNat % 32) 32) :
    cqSize n (v ||| 0x8000000000000000) s = putCq s n { cqOf s n with
      enable := true, error := false, cause := 0, log2 := v.toNat % 32, head := 0, tail := 0, phase := true } := by
  simp only [cqSize, nbit_setEnable, nbits_setEnable v 4 0 (by omega), nbits_log2, refused_iff_not_ringFits, he, hf,
    Bool.not_true, not_true, Bool.false_eq_true, if_false]

/-- Setting ENABLE of a disabled completion ring that does not fit leaves it disabled, with the check's cause. -/
theorem cqSize_setEnable_of_not_fits (s : State) (n : Nat) (v : W64) (he : (cqOf s n).enable = false)
    (hf : ¬ringFits s (cqOf s n).base (v.toNat % 32) 32) :
    cqSize n (v ||| 0x8000000000000000) s = putCq s n { cqOf s n with
      log2 := v.toNat % 32, error := true, cause := ringCheck s.regs (cqOf s n).base (v.toNat % 32) 32 } := by
  simp only [cqSize, nbit_setEnable, nbits_setEnable v 4 0 (by omega), nbits_log2, refused_iff_not_ringFits, he, hf,
    Bool.not_true, not_false_eq_true, Bool.false_eq_true, if_false, if_true]

/-! ### The commands that write these registers

Each, with BAR 0 answering and a ring that exists, is the write of its register. -/

section
variable (s : State) (n : Nat) (v : W64) (hb : barOk s = true) (hn : n < 8)
include hb hn

theorem exec_sqDoorbell : exec (.sqDoorbell n v) s = .next (doorbell n v s) := by
  change execSqDoorbell n v s = _
  simp only [execSqDoorbell, nextOf, hb, hn, decide_true, Bool.and_self, if_true]

theorem exec_sqEnable : exec (.sqEnable n v) s = .next (sqSize n (v ||| 0x8000000000000000) s) := by
  change execSqEnable n v s = _
  simp only [execSqEnable, nextOf, hb, hn, decide_true, Bool.and_self, if_true]

theorem exec_sqDisable : exec (.sqDisable n v) s = .next (sqSize n (v &&& 0x7FFFFFFFFFFFFFFF) s) := by
  change execSqDisable n v s = _
  simp only [execSqDisable, nextOf, hb, hn, decide_true, Bool.and_self, if_true]

theorem exec_cqHeadWrite : exec (.cqHeadWrite n v) s = .next (cqHead n v s) := by
  change execCqHeadWrite n v s = _
  simp only [execCqHeadWrite, nextOf, hb, hn, decide_true, Bool.and_self, if_true]

theorem exec_cqEnable : exec (.cqEnable n v) s = .next (cqSize n (v ||| 0x8000000000000000) s) := by
  change execCqEnable n v s = _
  simp only [execCqEnable, nextOf, hb, hn, decide_true, Bool.and_self, if_true]

theorem exec_cqDisable : exec (.cqDisable n v) s = .next (cqSize n (v &&& 0x7FFFFFFFFFFFFFFF) s) := by
  change execCqDisable n v s = _
  simp only [execCqDisable, nextOf, hb, hn, decide_true, Bool.and_self, if_true]

end

/-- A write of 8 aligned bytes to a JD_ register acts as regWrite says (R362). -/
theorem exec_registerWrite_jd (s : State) (off : Nat) (v : W64) (hb : barOk s = true) (ha : off % 8 = 0)
    (ho : 0x2000 ≤ off) : exec (.registerWrite off 8 v) s = .next (regWrite off v s) := by
  change execRegisterWrite off 8 v s = _
  simp only [execRegisterWrite, nextOf, hb, ha, Bool.not_true, Bool.false_eq_true, Nat.reduceEqDiff, false_and, and_false,
    and_self, show ¬off < 0x1300 by omega, if_true, if_false]

/-- A write of 8 bytes to the register at offset r of ring pair n's 64 bytes (Table 11-14). -/
def ringWrite (n r : Nat) (v : W64) (s : State) : State :=
  match r with
  | 0x00 => if (sqOf s n).enable then s else putSq s n { sqOf s n with base := v.extractLsb' 12 52 }
  | 0x08 => sqSize n v s
  | 0x10 => doorbell n v s
  | 0x20 => if (cqOf s n).enable then s else putCq s n { cqOf s n with base := v.extractLsb' 12 52 }
  | 0x28 => cqSize n v s
  | 0x30 => cqHead n v s
  | _ => s

/-- A write in the ring registers acts on its ring pair and register. -/
theorem regWrite_ring (s : State) (n r : Nat) (v : W64) (hn : n < 8) (hr : r < 0x40) :
    regWrite (0x3000 + 0x40 * n + r) v s = ringWrite n r v s := by
  have hring : (0x3000 + 0x40 * n + r - 0x3000) / 0x40 = n := by omega
  have hreg : (0x3000 + 0x40 * n + r - 0x3000) % 0x40 = r := by omega
  unfold regWrite
  rw [if_neg (by omega), if_neg (by omega), if_neg (by omega), if_neg (by omega), if_neg (by omega), if_neg (by omega),
    if_pos (by omega), hring, hreg]
  rfl

/-- BASE of an enabled submission ring ignores writes. -/
theorem regWrite_sqBase_of_enabled (s : State) (n : Nat) (v : W64) (hn : n < 8) (he : (sqOf s n).enable = true) :
    regWrite (0x3000 + 0x40 * n) v s = s := by
  rw [← Nat.add_zero (0x3000 + 0x40 * n), regWrite_ring s n 0 v hn (by omega)]
  exact if_pos he

/-- BASE of an enabled completion ring ignores writes. -/
theorem regWrite_cqBase_of_enabled (s : State) (n : Nat) (v : W64) (hn : n < 8) (he : (cqOf s n).enable = true) :
    regWrite (0x3020 + 0x40 * n) v s = s := by
  rw [show 0x3020 + 0x40 * n = 0x3000 + 0x40 * n + 0x20 by omega, regWrite_ring s n 0x20 v hn (by omega)]
  exact if_pos he

/-! ### What is read and what is dropped -/

/-- A ring that is disabled or stopped has no command ready. -/
theorem ringReady_of_stopped (s : State) (n opcode flags slots mask : Nat)
    (h : (sqOf s n).enable = false ∨ (sqOf s n).error = true) : ringReady s n opcode flags slots mask = false := by
  unfold sqOf at h
  rcases h with he | he
  · simp only [ringReady, he, Bool.and_false, Bool.false_and]
  · simp only [ringReady, he, Bool.not_true, Bool.and_false, Bool.false_and]

/-- A ring without a ready command gives the mantel none to start. -/
theorem startable_of_not_ringReady (s : State) (code n : Nat) (p : Pkt) (hp : p.src = .ring n)
    (h : ringReady s n code p.flags.toNat p.slots.toNat p.hearths.toNat = false) : startable s code p = false := by
  simp only [startable, winner, hp, h, Bool.and_false, Bool.false_and]

/-- A completion ring that is disabled or stopped drops the records. -/
theorem writeCompletion_of_stopped (s : State) (n : Nat) (l : List (List Byte))
    (h : (cqOf s n).enable = false ∨ (cqOf s n).error = true) : writeCompletion s n l = dropRecords s l.length := by
  unfold cqOf at h
  rcases h with he | he
  · simp only [writeCompletion, he, Bool.not_false, Bool.true_or, if_true]
  · simp only [writeCompletion, he, Bool.or_true, Bool.true_or, if_true]

/-- A completion ring without room below the records not yet consumed drops the records. -/
theorem writeCompletion_of_full (s : State) (n : Nat) (l : List (List Byte))
    (h : 2 ^ (cqOf s n).log2 - 1 <
      ((cqOf s n).tail + 2 ^ (cqOf s n).log2 - (cqOf s n).head) % 2 ^ (cqOf s n).log2 + l.length) :
    writeCompletion s n l = dropRecords s l.length := by
  unfold cqOf at h
  have hpads : ∀ pads, 2 ^ (mget {} s.regs.cq n).log2 - 1 < ((mget {} s.regs.cq n).tail + 2 ^ (mget {} s.regs.cq n).log2
      - (mget {} s.regs.cq n).head) % 2 ^ (mget {} s.regs.cq n).log2 + pads + l.length := fun pads => by omega
  simp only [writeCompletion, if_pos (hpads _), ite_self]

/-- A completion of ring n goes to completion ring n, with its second record where it has one. -/
theorem post_ring (s : State) (o : Origin) (st : Status) (det r0 r1 n : Nat) (two : Option (Nat × Nat × Nat × Nat))
    (h : o.src = .ring n) : post s o st det r0 r1 two = writeCompletion s n
      (record1 o st det r0 r1 :: (two.map fun (a, b, c, d) => record2 a b c d).toList) := by
  unfold post
  rw [h]
  cases two <;> rfl

/-! ### The obligations -/

/-- Settles O20: each write goes by the case of the register it names, and a ring that is disabled or stopped is never the
winner of R379. -/
theorem doorbellsMoveTailAndRingsStop : Obligations.DoorbellsMoveTailAndRingsStop := by
  intro s n v hn
  refine ⟨fun hb he => ⟨fun ht => ?_, fun ht => ?_, ?_⟩, fun _ => rfl, fun h p code hp => ?_⟩
  · rw [exec_sqDoorbell s n v hb hn, doorbell_of_lt s n v he ht]
  · rw [exec_sqDoorbell s n v hb hn, doorbell_of_le s n v he ht]
  · rw [exec_sqDisable s n v hb hn, sqSize_clearEnable s n v he]
  · exact startable_of_not_ringReady s code n p hp (ringReady_of_stopped s n _ _ _ _ h)

/-- Settles O21, by the two cases of a write of HEAD, and by the drop of what falls due on a stopped ring. -/
theorem completionHeadMovesOrStopsTheRing : Obligations.CompletionHeadMovesOrStopsTheRing := by
  intro s n v hn
  refine ⟨fun hb => ⟨fun h => ?_, fun h => ?_, fun he => ?_, fun he hf => ?_⟩, fun he l => ?_⟩
  · rw [exec_cqHeadWrite s n v hb hn, cqHead_of_accepted s n v h]
  · rw [exec_cqHeadWrite s n v hb hn, cqHead_of_refused s n v h]
  · rw [exec_cqDisable s n v hb hn, cqSize_clearEnable s n v he]
  · rw [exec_cqEnable s n v hb hn, cqSize_setEnable_of_fits s n v he hf]
  · exact writeCompletion_of_stopped s n l (.inr he)

/-- Settles O22: the writes of SIZE and BASE by the ring's ENABLE and the check of R369, then the ring a completion goes to
and the two conditions under which its records are dropped. -/
theorem ringsEnableUnderTheirCheck : Obligations.RingsEnableUnderTheirCheck := by
  intro s n v hn
  refine ⟨fun hb => ⟨fun he hf => ?_, fun he hf => ?_, fun he => ⟨?_, ?_, ?_⟩, fun he hf => ?_, fun he hf => ?_,
    fun he => ⟨?_, ?_, ?_⟩⟩, fun base lg bytes => ⟨ringCheck_of_log2 s.regs base lg bytes,
    ringCheck_of_outside s.regs base lg bytes⟩, fun o st det r0 r1 two ho => ?_, fun l h => ?_⟩
  · rw [exec_sqEnable s n v hb hn, sqSize_setEnable_of_fits s n v he hf]
  · rw [exec_sqEnable s n v hb hn, sqSize_setEnable_of_not_fits s n v he hf]
  · rw [exec_sqEnable s n v hb hn, sqSize_setEnable_of_enabled s n v he]
  · rw [exec_sqDisable s n v hb hn, sqSize_clearEnable s n v he]
  · rw [exec_registerWrite_jd s _ v hb (by omega) (by omega), regWrite_sqBase_of_enabled s n v hn he]
  · rw [exec_cqEnable s n v hb hn, cqSize_setEnable_of_fits s n v he hf]
  · rw [exec_cqEnable s n v hb hn, cqSize_setEnable_of_not_fits s n v he hf]
  · rw [exec_cqEnable s n v hb hn, cqSize_setEnable_of_enabled s n v he]
  · rw [exec_cqDisable s n v hb hn, cqSize_clearEnable s n v he]
  · rw [exec_registerWrite_jd s _ v hb (by omega) (by omega), regWrite_cqBase_of_enabled s n v hn he]
  · rw [post_ring s o st det r0 r1 n two ho]
    cases two <;> rfl
  · rcases h with he | hfull
    · exact writeCompletion_of_stopped s n l (.inl he)
    · exact writeCompletion_of_full s n l hfull

end Sys2Proof.Machine

/-! At most 256 started commands (R405). R405 counts the started commands that are no launches; `outstanding` is their number.
Every operation of the module but the start of a command leaves that number or lowers it, and a command starts only where there
is room. -/

namespace Sys2Proof.Machine

/-! ### The number of counted commands -/

/-- A fold does not raise a measure that none of its operations raises. -/
theorem foldl_measure_le {α β : Type} (g : β → Nat) (f : β → α → β) (hf : ∀ b x, g (f b x) ≤ g b) (l : List α)
    (b : β) : g (l.foldl f b) ≤ g b :=
  List.foldlRecOn l f (motive := fun c => g c ≤ g b) (Nat.le_refl _) fun c hc x _ => Nat.le_trans (hf c x) hc

theorem outstanding_foldl_le {α : Type} (f : State → α → State) (hf : ∀ s x, outstanding (f s x) ≤ outstanding s)
    (l : List α) (s : State) : outstanding (l.foldl f s) ≤ outstanding s :=
  foldl_measure_le outstanding f hf l s

/-- Only the started commands count. -/
theorem outstanding_le_of_started {t : State} {n : Nat} (s : State) (ht : t.started = s.started) (hs : outstanding s ≤ n) :
    outstanding t ≤ n := by
  unfold outstanding at *
  rwa [ht]

theorem outstanding_ite_le {c : Prop} [Decidable c] {s t : State} {n : Nat} (hs : outstanding s ≤ n)
    (ht : outstanding t ≤ n) : outstanding (if c then s else t) ≤ n := by
  split <;> assumption

theorem outstanding_updH_le (s : State) (h : Nat) (f : Hearth → Hearth) : outstanding (updH s h f) ≤ outstanding s :=
  (updH_follows s h f).room

theorem outstanding_onHearth_le (s : State) (h : Nat) (f : Env → Hearth → Hearth) :
    outstanding (onHearth s h f) ≤ outstanding s :=
  (onHearth_follows s h f).room

theorem outstanding_onHearths_le (s : State) (l : List Nat) (f : Env → Hearth → Hearth) :
    outstanding (onHearths s l f) ≤ outstanding s :=
  (onHearths_follows s l f).room

/-- A change of several hearths, one after the other. -/
theorem outstanding_foldl_updH_le (f : State → Nat → Hearth → Hearth) (l : List Nat) (s : State) :
    outstanding (l.foldl (fun s h => updH s h (f s h)) s) ≤ outstanding s :=
  outstanding_foldl_le _ (fun s h => outstanding_updH_le s h (f s h)) l s

theorem outstanding_finish_le (s : State) (id : Nat) (st : Status) (det r0 r1 : Nat)
    (two : Option (Nat × Nat × Nat × Nat) := none) : outstanding (finish s id st det r0 r1 two) ≤ outstanding s :=
  (finish_follows s id st det r0 r1 two).room

/-- A command that changes several hearths and completes. -/
theorem outstanding_finish_foldl_updH_le (f : State → Nat → Hearth → Hearth) (l : List Nat) (s : State) (id : Nat)
    (st : Status) (det r0 r1 : Nat) :
    outstanding (finish (l.foldl (fun s h => updH s h (f s h)) s) id st det r0 r1) ≤ outstanding s :=
  Nat.le_trans (outstanding_finish_le _ _ _ _ _ _) (outstanding_foldl_updH_le f l s)

theorem outstanding_setWait_le (s : State) (id : Nat) (w : Wait) : outstanding (setWait s id w) ≤ outstanding s :=
  (setWait_follows s id w).room

/-! ### The host port's registers (chapter 11) -/

theorem outstanding_doorbell_le (n : Nat) (v : W64) (s : State) : outstanding (doorbell n v s) ≤ outstanding s := by
  unfold doorbell
  dsimp only
  split
  · exact Nat.le_refl _
  · split <;> exact Nat.le_refl _

theorem outstanding_cqHead_le (n : Nat) (v : W64) (s : State) : outstanding (cqHead n v s) ≤ outstanding s := by
  unfold cqHead
  dsimp only
  split <;> exact Nat.le_refl _

theorem outstanding_sqSize_le (n : Nat) (v : W64) (s : State) : outstanding (sqSize n v s) ≤ outstanding s := by
  unfold sqSize
  dsimp only
  split
  · exact Nat.le_refl _
  · split
    · exact Nat.le_refl _
    · split <;> exact Nat.le_refl _

theorem outstanding_cqSize_le (n : Nat) (v : W64) (s : State) : outstanding (cqSize n v s) ≤ outstanding s := by
  unfold cqSize
  dsimp only
  split
  · exact Nat.le_refl _
  · split
    · exact Nat.le_refl _
    · split <;> exact Nat.le_refl _

theorem outstanding_takeCap_le (s : State) (w : Nat) : outstanding (takeCap s w) ≤ outstanding s := by
  unfold takeCap allTo16
  dsimp only
  split
  · exact outstanding_onHearths_le _ _ _
  · exact Nat.le_refl _

theorem outstanding_capWrite_le (v : W64) (s : State) : outstanding (capWrite v s) ≤ outstanding s := by
  unfold capWrite
  dsimp only
  split
  · exact outstanding_takeCap_le _ _
  · exact Nat.le_refl _

theorem outstanding_biasSet_le (n : Nat) (v : W64) (s : State) : outstanding (biasSet n v s) ≤ outstanding s := by
  unfold biasSet
  split <;> exact Nat.le_refl _

theorem outstanding_clearHealth_le (s : State) : outstanding (clearHealth s) ≤ outstanding s := by
  unfold clearHealth
  extract_lets a
  exact outstanding_le_of_started a rfl (outstanding_onHearths_le _ _ _)

/-- A write of a ring pair's registers. -/
theorem outstanding_ringWrite_le (n r : Nat) (v : W64) (s : State) : outstanding (ringWrite n r v s) ≤ outstanding s := by
  unfold ringWrite
  split
  · split <;> exact Nat.le_refl _
  · exact outstanding_sqSize_le _ _ _
  · exact outstanding_doorbell_le _ _ _
  · split <;> exact Nat.le_refl _
  · exact outstanding_cqSize_le _ _ _
  · exact outstanding_cqHead_le _ _ _
  · exact Nat.le_refl _

theorem outstanding_regWrite_le (off : Nat) (v : W64) (s : State) : outstanding (regWrite off v s) ≤ outstanding s := by
  by_cases hring : 0x3000 ≤ off ∧ off < 0x3200
  · rw [show off = 0x3000 + 0x40 * ((off - 0x3000) / 0x40) + (off - 0x3000) % 0x40 by omega,
      regWrite_ring s _ _ v (by omega) (by omega)]
    exact outstanding_ringWrite_le _ _ _ _
  · unfold regWrite
    rw [if_neg hring]
    exact outstanding_ite_le (Nat.le_refl _) <| outstanding_ite_le (outstanding_capWrite_le _ _) <|
      outstanding_ite_le (Nat.le_refl _) <| outstanding_ite_le (Nat.le_refl _) <| outstanding_ite_le (Nat.le_refl _) <|
      outstanding_ite_le (outstanding_biasSet_le _ _ _) (Nat.le_refl _)

theorem outstanding_decoderWrite_le (d o v : Nat) (s : State) : outstanding (decoderWrite d o v s) ≤ outstanding s := by
  unfold decoderWrite
  dsimp only
  split
  · exact Nat.le_refl _
  · split
    · exact Nat.le_refl _
    · split <;> exact Nat.le_refl _

theorem outstanding_cxlWrite_le (off v : Nat) (s : State) : outstanding (cxlWrite off v s) ≤ outstanding s := by
  unfold cxlWrite
  exact outstanding_ite_le (Nat.le_refl _) <| outstanding_ite_le (outstanding_ite_le (Nat.le_refl _) <|
    outstanding_ite_le (outstanding_decoderWrite_le _ _ _ _) (Nat.le_refl _)) (Nat.le_refl _)

/-! ### Resets, power and faults (chapters 13 and 15) -/

/-- A cold reset ends every command. -/
theorem outstanding_coldReset (s : State) : outstanding (coldReset s) = 0 := rfl

theorem outstanding_countBoot_le (s : State) : outstanding (countBoot s) ≤ outstanding s := by
  unfold countBoot
  split <;> exact Nat.le_refl _

theorem outstanding_startBoot_le (s : State) : outstanding (startBoot s) ≤ outstanding s := outstanding_countBoot_le _

theorem outstanding_mantelFail_le (s : State) (unit : Nat) : outstanding (mantelFail s unit) ≤ outstanding s :=
  outstanding_onHearths_le s _ _

theorem outstanding_restored_le (s : State) (h : Nat) (u : UnitSel) : outstanding (restored s h u) ≤ outstanding s := by
  unfold restored
  dsimp only
  refine Nat.le_trans (outstanding_onHearth_le _ _ _) ?_
  split <;> exact Nat.le_refl _

theorem outstanding_returnUnit_le (s : State) (h : Nat) : outstanding (returnUnit s h) ≤ outstanding s := by
  unfold returnUnit
  dsimp only
  split
  · exact Nat.le_refl _
  · split
    · exact Nat.le_trans (Nat.le_trans (outstanding_finish_le _ _ _ _ _ _) (outstanding_restored_le _ _ _))
        (outstanding_updH_le _ _ _)
    · exact Nat.le_trans (outstanding_finish_le _ _ _ _ _ _) (outstanding_updH_le _ _ _)

theorem outstanding_returnUnits_le (s : State) (h : Nat) : outstanding (returnUnits s h) ≤ outstanding s :=
  outstanding_foldl_le _ (fun s _ => outstanding_returnUnit_le s h) _ s

theorem outstanding_memoryGoesOn_le (s : State) (h : Nat) : outstanding (memoryGoesOn s h) ≤ outstanding s :=
  Nat.le_trans (Nat.le_trans (outstanding_returnUnits_le _ _) (retireAll_follows _ _ _).room) (outstanding_updH_le _ _ _)

theorem outstanding_failPair_le (s : State) : outstanding (failPair s) ≤ outstanding s := by
  unfold failPair
  extract_lets pair a
  have ha : outstanding a ≤ outstanding s := (logAll_follows _ _ _ _ _).room
  split
  · exact outstanding_le_of_started a rfl ha
  · exact outstanding_le_of_started a rfl ha

theorem outstanding_raiseAlarm_le (s : State) (src : AlarmSource) : outstanding (raiseAlarm s src) ≤ outstanding s := by
  unfold raiseAlarm
  extract_lets sources first trust a b c
  have hb : outstanding b ≤ outstanding s := by
    dsimp only [b]
    split <;> exact Nat.le_refl _
  have hc : outstanding c ≤ outstanding s := by
    dsimp only [c]
    split
    · exact Nat.le_trans (outstanding_onHearths_le _ _ _) hb
    · exact hb
  split
  · exact outstanding_le_of_started c rfl hc
  · exact hc

/-- The completions of the other commands at a warm reset end those commands. -/
theorem outstanding_abortCommands_le (s : State) (but : Nat) : outstanding (abortCommands s but) ≤ outstanding s := by
  unfold abortCommands
  refine outstanding_foldl_le _ (fun s x => ?_) _ s
  exact Nat.le_trans (post_follows _ _ _ _ _ _ _).room (dropStarted_follows s x.id).room

theorem outstanding_warmReset_le (id : Nat) (s : State) : outstanding (warmReset id s) ≤ outstanding s := by
  unfold warmReset
  extract_lets ended settled aborted waiting warm
  have h1 : outstanding ended ≤ outstanding s := outstanding_onHearths_le _ _ _
  have h2 : outstanding settled ≤ outstanding s :=
    Nat.le_trans (outstanding_foldl_le _ (fun s h => (settleSteps_follows s h).room) _ _) h1
  have h3 : outstanding aborted ≤ outstanding s := Nat.le_trans (outstanding_abortCommands_le _ _) h2
  have h4 : outstanding waiting ≤ outstanding s := Nat.le_trans (outstanding_setWait_le _ _ _) h3
  have h5 : outstanding warm ≤ outstanding s := Nat.le_trans (outstanding_foldl_updH_le _ _ _) h4
  clear_value warm
  exact Nat.le_trans (outstanding_countBoot_le _) (outstanding_le_of_started warm rfl h5)

theorem outstanding_bootReady_le (s : State) (h : Nat) (fw : FwImage) : outstanding (bootReady s h fw) ≤ outstanding s :=
  outstanding_updH_le s h _

/-! ### Accounts, buffers and copies (chapters 10 and 12) -/

theorem outstanding_activate_le (s : State) (w : Nat) : outstanding (activate s w) ≤ outstanding s := by
  unfold activate
  split <;> exact Nat.le_refl _

theorem outstanding_register_le (s : State) (w : Nat) : outstanding (register s w) ≤ outstanding s := by
  unfold register
  split <;> exact Nat.le_refl _

theorem outstanding_preemptRun_le (p : Pkt) (id : Nat) (s : State) : outstanding (preemptRun p id s) ≤ outstanding s :=
  Nat.le_trans (outstanding_onHearths_le _ _ _) (outstanding_setWait_le _ _ _)

theorem outstanding_blurBuffer_le (s : State) (w n gen : Nat) : outstanding (blurBuffer s w n gen) ≤ outstanding s := by
  unfold blurBuffer
  split
  · exact outstanding_updH_le _ _ _
  · exact Nat.le_refl _

theorem outstanding_putImage_le (s : State) (w : Nat) (bytes : Mem) (free : List (Nat × Nat × Nat)) :
    outstanding (putImage s w bytes free) ≤ outstanding s := by
  unfold putImage
  split
  · exact outstanding_updH_le _ _ _
  · exact Nat.le_refl _

theorem outstanding_copyRead_le (s : State) (w n : Nat) : outstanding (copyRead s w n).1 ≤ outstanding s := by
  unfold copyRead
  split
  · exact (putH_follows s _ _).room
  · exact Nat.le_refl _

theorem outstanding_bufTouch_le (s : State) (w n : Nat) : outstanding (bufTouch s w n) ≤ outstanding s :=
  outstanding_copyRead_le s w n

theorem outstanding_copyWrite_le (s : State) (w : Nat) (bs : List Byte) (bad : List (Nat × Nat)) :
    outstanding (copyWrite s w bs bad) ≤ outstanding s := by
  unfold copyWrite
  split
  · exact outstanding_updH_le _ _ _
  · refine Nat.le_trans (outstanding_foldl_le _ (fun _ _ => ?_) _ _) (hostWrite_follows s _ _).room
    exact Nat.le_refl _

theorem outstanding_blurOverlap_le (s : State) (x : Seg) : outstanding (blurOverlap s x) ≤ outstanding s := by
  unfold blurOverlap
  dsimp only
  refine outstanding_ite_le (Nat.le_refl _) ?_
  split <;> exact outstanding_ite_le (Nat.le_refl _) (outstanding_blurBuffer_le _ _ _ _)

theorem outstanding_copyLocal_le (s : State) (x : Seg) : outstanding (copyLocal s x) ≤ outstanding s :=
  Nat.le_trans (Nat.le_trans (outstanding_blurOverlap_le _ _) (outstanding_copyWrite_le _ _ _ _))
    (outstanding_copyRead_le _ _ _)

theorem outstanding_copyRemote_le (s : State) (m : Nat) (x : Seg) : outstanding (copyRemote s m x).1 ≤ outstanding s := by
  unfold copyRemote
  dsimp only
  refine Nat.le_trans (outstanding_updH_le _ _ _) ?_
  split
  · exact outstanding_copyRead_le _ _ _
  · exact outstanding_copyRead_le _ _ _

theorem outstanding_startRemote_le (s : State) (id m : Nat) (segs : List Seg) :
    outstanding (startRemote s id m segs) ≤ outstanding s :=
  Nat.le_trans (outstanding_setWait_le _ _ _)
    (foldl_measure_le (fun a : State × List (Nat × Nat) => outstanding a.1) _
      (fun a x => outstanding_copyRemote_le a.1 m x) segs (s, []))

theorem outstanding_copyDone_le (s : State) (m h n : Nat) : outstanding (copyDone s m h n) ≤ outstanding s := by
  unfold copyDone
  split
  · dsimp only
    split
    · exact outstanding_finish_le _ _ _ _ _ _
    · exact outstanding_setWait_le _ _ _
  · exact Nat.le_refl _

theorem outstanding_copyFault_le {s t : State} {m h a : Nat} (ht : copyFault s m h a = some t) :
    outstanding t ≤ outstanding s := by
  obtain ⟨r, -, rfl⟩ := Option.map_eq_some_iff.1 ht
  exact outstanding_finish_le _ _ _ _ _ _

theorem outstanding_logUnbalanced_le (s : State) (p : LedgerPart) : outstanding (logUnbalanced s p) ≤ outstanding s := by
  refine outstanding_foldl_le _ (fun s t => ?_) _ s
  dsimp only
  split
  · exact outstanding_onHearth_le _ _ _
  · exact (logAll_follows _ _ _ _ _).room

/-! ### Links and cells (chapter 9) -/

theorem outstanding_takeWord_le {s t : State} {h k : Nat} {w : BitVec 20} (ht : takeWord s h k w = some t) :
    outstanding t ≤ outstanding s := by
  unfold takeWord at ht
  split at ht
  · cases ht
  · split at ht
    · cases ht
      exact outstanding_updH_le _ _ _
    · split at ht <;> cases ht
      exact outstanding_updH_le _ _ _

theorem outstanding_linkDown_le (s : State) (h t : Nat) : outstanding (linkDown s h t) ≤ outstanding s := by
  unfold linkDown
  dsimp only
  split
  · exact Nat.le_trans (outstanding_updH_le _ _ _) (outstanding_updH_le _ _ _)
  · exact outstanding_updH_le _ _ _

theorem outstanding_takeOff_le {s t : State} {h k : Nat} {c : Cell} (ht : takeOff s h k c = some t) :
    outstanding t ≤ outstanding s := by
  unfold takeOff at ht
  dsimp only at ht
  split at ht
  · cases ht
  split at ht
  · cases ht
    exact (putH_follows _ _ _).room
  split at ht
  · cases ht
  split at ht
  · cases ht
    exact outstanding_updH_le _ _ _
  split at ht <;> cases ht
  · exact Nat.le_trans (outstanding_updH_le _ _ _) (outstanding_updH_le _ _ _)

theorem outstanding_discard_le (s : State) (h : Nat) : outstanding (discard s h) ≤ outstanding s :=
  outstanding_updH_le s h _

theorem outstanding_arrive_le {row : Nat} {s t : State} {h k : Nat} {c : Cell} {b : Bool}
    (ht : arrive row s h k c = some (t, b)) : outstanding t ≤ outstanding s := by
  unfold arrive at ht
  split at ht
  case h_1 => cases ht
  case h_2 a ha =>
    have hoff := outstanding_takeOff_le ha
    dsimp only at ht
    split at ht
    · cases ht
    split at ht
    · cases ht
      exact hoff
    split at ht
    · cases ht
      exact Nat.le_trans (outstanding_discard_le _ _) hoff
    split at ht <;> cases ht
    exact hoff

theorem outstanding_childEnded_le (s : State) (id i : Nat) (st : Status) (lost : Bool) :
    outstanding (childEnded s id i st lost) ≤ outstanding s := by
  unfold childEnded
  extract_lets a bad b
  have ha : outstanding a ≤ outstanding s := by
    refine (updStarted_follows s id _ ?_).room
    exact fun _ => rfl
  refine Nat.le_trans (tryPost_follows _ _ _).room ?_
  dsimp only [b]
  split
  · split
    · exact Nat.le_trans (abortTree_follows _ _).room ha
    · exact ha
  · exact ha

theorem outstanding_loseChildren_le (s : State) (m d : Nat) : outstanding (loseChildren s m d) ≤ outstanding s := by
  refine outstanding_foldl_le _ (fun s x => outstanding_foldl_le _ (fun s i => ?_) _ s) _ s
  split
  · exact outstanding_childEnded_le _ _ _ _ _
  · exact Nat.le_refl _

theorem outstanding_loseCopies_le (s : State) (h m d : Nat) : outstanding (loseCopies s h m d) ≤ outstanding s := by
  refine outstanding_foldl_le _ (fun s x => ?_) _ s
  split
  · split
    · exact outstanding_finish_le _ _ _ _ _ _
    · exact Nat.le_refl _
  · exact Nat.le_refl _

theorem outstanding_losePeer_le (s : State) (h i : Nat) : outstanding (losePeer s h i) ≤ outstanding s := by
  unfold losePeer
  extract_lets p a b
  have ha : outstanding a ≤ outstanding s := outstanding_onHearth_le _ _ _
  split
  · exact ha
  · refine Nat.le_trans (outstanding_loseCopies_le _ _ _ _) ?_
    dsimp only [b]
    split
    · exact Nat.le_trans (outstanding_loseChildren_le _ _ _) ha
    · exact ha

theorem outstanding_commandCell_le (s : State) (h t : Nat) (c : Cell) :
    outstanding (commandCell s h t c) ≤ outstanding s := by
  unfold commandCell
  dsimp only
  exact outstanding_ite_le (outstanding_ite_le (outstanding_discard_le _ _) (Nat.le_refl _))
    (outstanding_ite_le (Nat.le_refl _) (outstanding_discard_le _ _))

theorem outstanding_completionCell_le (s : State) (h : Nat) (c : Cell) :
    outstanding (completionCell s h c) ≤ outstanding s := by
  unfold completionCell
  dsimp only
  split
  · exact Nat.le_refl _
  · split
    · exact Nat.le_refl _
    · split
      · exact Nat.le_refl _
      · refine Nat.le_trans (outstanding_childEnded_le _ _ _ _ _) ?_
        split
        · exact Nat.le_refl _
        · exact outstanding_onHearth_le _ _ _

theorem outstanding_noticeCell_le (s : State) (h : Nat) (c : Cell) : outstanding (noticeCell s h c) ≤ outstanding s := by
  unfold noticeCell
  dsimp only
  split
  · exact outstanding_updH_le _ _ _
  · split
    · exact outstanding_copyDone_le _ _ _ _
    · exact outstanding_updH_le _ _ _
  · split
    case h_1 t ht =>
      split at ht
      · exact outstanding_copyFault_le ht
      · cases ht
    case h_2 => exact outstanding_onHearth_le _ _ _
  · exact outstanding_onHearth_le _ _ _
  · exact Nat.le_refl _

theorem outstanding_handOver_le (h t i : Nat) (s : State) (c : Cell) : outstanding (handOver h t i s c) ≤ outstanding s := by
  unfold handOver
  split
  · exact outstanding_updH_le _ _ _
  · exact outstanding_onHearth_le _ _ _
  · exact outstanding_commandCell_le _ _ _ _
  · exact outstanding_completionCell_le _ _ _
  · exact outstanding_updH_le _ _ _
  · exact outstanding_updH_le _ _ _
  · exact outstanding_noticeCell_le _ _ _
  · exact outstanding_onHearth_le _ _ _

theorem outstanding_forwardSecond_le (s : State) (m d h : Nat) : outstanding (forwardSecond s m d h) ≤ outstanding s := by
  unfold forwardSecond
  extract_lets th hh l p lost n a b
  have ha : outstanding a ≤ outstanding s := outstanding_foldl_le _ (fun s _ => outstanding_updH_le s th _) _ _
  have hb : outstanding b ≤ outstanding s := Nat.le_trans (outstanding_updH_le _ _ _) ha
  split
  · exact Nat.le_refl _
  · split
    · exact Nat.le_trans (outstanding_onHearth_le _ _ _) hb
    · exact hb

theorem outstanding_sendTelemetry_le (s : State) (m d : Nat) : outstanding (sendTelemetry s m d) ≤ outstanding s := by
  unfold sendTelemetry
  dsimp only
  split
  · exact Nat.le_refl _
  · exact outstanding_updH_le _ _ _

/-! ### Trust (chapter 14) -/

theorem outstanding_countSig_le (s : State) : outstanding (countSig s) ≤ outstanding s := by
  unfold countSig
  dsimp only
  split
  · exact Nat.le_refl _
  · split
    · exact outstanding_raiseAlarm_le _ _
    · exact Nat.le_refl _

theorem outstanding_failSecurity_le (s : State) (id d : Nat) : outstanding (failSecurity s id d) ≤ outstanding s := by
  unfold failSecurity
  dsimp only
  split
  · exact Nat.le_trans (outstanding_countSig_le _) (outstanding_finish_le _ _ _ _ _ _)
  · exact outstanding_finish_le _ _ _ _ _ _

theorem outstanding_clearSig_le (s : State) : outstanding (clearSig s) ≤ outstanding s := by
  unfold clearSig
  split <;> exact Nat.le_refl _

theorem outstanding_activateSlot_le (s : State) (t : Nat) : outstanding (activateSlot s t) ≤ outstanding s := by
  unfold activateSlot
  dsimp only
  split <;> exact Nat.le_refl _

theorem outstanding_nextTarget_le (s : State) (a : Activation) (rest : List Nat) (sw : W16) :
    outstanding (nextTarget s a rest sw) ≤ outstanding s := by
  unfold nextTarget
  split
  · exact outstanding_finish_le _ _ _ _ _ _
  · exact Nat.le_refl _

theorem outstanding_attestNow_le (s : State) (id addr : Nat) (nonce : BitVec 256) :
    outstanding (attestNow s id addr nonce) ≤ outstanding s := by
  unfold attestNow
  dsimp only
  split
  · exact outstanding_finish_le _ _ _ _ _ _
  · split
    · exact outstanding_finish_le _ _ _ _ _ _
    · split
      · exact outstanding_finish_le _ _ _ _ _ _
      · split
        · exact outstanding_finish_le _ _ _ _ _ _
        · refine Nat.le_trans (reportAndFinish_follows _ _ _ _ _ _ _ _).room ?_
          split <;> exact Nat.le_refl _

theorem outstanding_serveAttests_le (s : State) : outstanding (serveAttests s) ≤ outstanding s := by
  refine outstanding_foldl_le _ (fun s x => ?_) _ s
  split
  · exact outstanding_attestNow_le _ _ _ _
  · exact Nat.le_refl _

/-- An authorised command's effect is what its own part does. -/
theorem outstanding_authorised_le (s : State) (id addr opcode : Nat) (scope : Option Nat) (timed : Bool)
    (run : List Byte → State → State) (hrun : ∀ bs t, outstanding (run bs t) ≤ outstanding t) :
    outstanding (authorised s id addr opcode scope timed run) ≤ outstanding s := by
  unfold authorised
  split
  · exact outstanding_finish_le _ _ _ _ _ _
  · have htouch := outstanding_bufTouch_le s addr 5500
    dsimp only
    split
    · exact Nat.le_trans (outstanding_failSecurity_le _ _ _) htouch
    · exact Nat.le_trans (Nat.le_trans (hrun _ _) (outstanding_clearSig_le _)) htouch

/-! ### Where a command may start (R403, R405) -/

/-- The room that R405 asks of every command but a launch. -/
theorem outstanding_lt_of_roomFor {s : State} {code mask : Nat} (h : roomFor s code mask = true) (hcode : code ≠ 0x40) :
    outstanding s < 256 := by
  simpa only [roomFor, if_neg hcode, decide_eq_true_eq] using h

theorem roomFor_of_ringReady {s : State} {n code flags slots mask : Nat} (h : ringReady s n code flags slots mask = true) :
    roomFor s code mask = true := by
  simp only [ringReady, Bool.and_eq_true] at h
  exact h.1.2

/-- A command in cells has at least the two bytes of its opcode. -/
theorem cellCommand_cons {l : List (BitVec 256)} {b : List Byte} (h : cellCommand l = some b) :
    ∃ x y rest, b = x :: y :: rest := by
  cases l with
  | nil => cases h
  | cons c t =>
    have htake : 0 < 2 * slotsTaken (nbits c.toNat 31 24) := by
      unfold slotsTaken
      split <;> omega
    obtain ⟨n, hn⟩ := Nat.exists_eq_succ_of_ne_zero (Nat.ne_of_gt htake)
    simp only [cellCommand, hn, List.take_succ_cons, List.flatMap_cons] at h
    split at h
    · cases h
      exact ⟨_, _, _, rfl⟩
    · cases h

/-- The first two bytes of a packet are its opcode's, the lower first. -/
theorem pktBytes_cons (code : Nat) (p : Pkt) :
    ∃ rest, pktBytes code p = BitVec.ofNat 8 code :: BitVec.ofNat 8 (code / 256) :: rest := ⟨_, rfl⟩

/-- The opcode in cells that carry a packet is the packet's (Table 12-3). -/
theorem opcode_of_cells {l : List (BitVec 256)} {b : List Byte} {code : Nat} {p : Pkt} (hb : cellCommand l = some b)
    (hm : b = (pktBytes code p).take b.length) : ofLE (b.take 2) = code % 65536 := by
  obtain ⟨x, y, rest, rfl⟩ := cellCommand_cons hb
  obtain ⟨tail, htail⟩ := pktBytes_cons code p
  rw [htail, List.length_cons, List.length_cons, List.take_succ_cons, List.take_succ_cons] at hm
  obtain ⟨hx, hrest⟩ := List.cons.inj hm
  obtain ⟨hy, -⟩ := List.cons.inj hrest
  simp only [hx, hy, List.take_succ_cons, List.take_zero, ofLE, BitVec.toNat_ofNat]
  omega

/-- The mantel reads a command in cells only where there is room for it. -/
theorem outstanding_lt_of_cellReady {s : State} {code : Nat} {p : Pkt} (hcode : code % 65536 = code) (hlaunch : code ≠ 0x40)
    (hsrc : ∀ n, p.src ≠ .ring n) (hr : cellReady s p.src = true) (hm : cellMatches s code p = true) :
    outstanding s < 256 := by
  unfold cellReady at hr
  unfold cellMatches at hm
  split at hm
  case h_1 n hn => exact absurd hn (hsrc n)
  case h_2 =>
    split at hm
    case h_1 => cases hm
    case h_2 b hb =>
      rw [hb] at hr
      simp only [Bool.and_eq_true] at hr
      rw [opcode_of_cells hb (eq_of_beq hm), hcode] at hr
      exact outstanding_lt_of_roomFor hr.1 hlaunch

/-- A command that the mantel reads next has its source ready. -/
theorem ready_of_startable {s : State} {code : Nat} {p : Pkt} (h : startable s code p = true) :
    (∃ n, p.src = .ring n ∧ ringReady s n code p.flags.toNat p.slots.toNat p.hearths.toNat = true) ∨
      (∀ n, p.src ≠ .ring n) ∧ cellReady s p.src = true ∧ cellMatches s code p = true := by
  simp only [startable, winner, Bool.and_eq_true] at h
  obtain ⟨⟨hmine, -⟩, hm⟩ := h
  cases hsrc : p.src with
  | ring n =>
    simp only [hsrc, Bool.and_eq_true] at hmine
    exact .inl ⟨n, rfl, hmine.2⟩
  | parent =>
    simp only [hsrc, Bool.and_eq_true] at hmine
    exact .inr ⟨fun _ h => (nomatch h), hmine.2, hm⟩
  | linkLocal h t =>
    simp only [hsrc, Bool.and_eq_true] at hmine
    exact .inr ⟨fun _ h => (nomatch h), hmine.2, hm⟩

/-- The mantel reads no command but a launch while it holds 256 (R405). -/
theorem outstanding_lt_of_startable {s : State} {code : Nat} {p : Pkt} (hcode : code % 65536 = code) (hlaunch : code ≠ 0x40)
    (h : startable s code p = true) : outstanding s < 256 := by
  rcases ready_of_startable h with ⟨n, -, hr⟩ | ⟨hsrc, hr, hm⟩
  · exact outstanding_lt_of_roomFor (roomFor_of_ringReady hr) hlaunch
  · exact outstanding_lt_of_cellReady hcode hlaunch hsrc hr hm

/-- A ring whose command is no launch is not ready while the mantel holds 256 (R405). -/
theorem ringReady_of_full {s : State} {n code flags slots mask : Nat} (hfull : outstanding s = 256) (hlaunch : code ≠ 0x40) :
    ringReady s n code flags slots mask = false := by
  rw [Bool.eq_false_iff]
  intro h
  have := outstanding_lt_of_roomFor (roomFor_of_ringReady h) hlaunch
  omega

/-! ### Submitting a command -/

/-- A launch is not counted. -/
theorem outstanding_begun_launch_le (s : State) (c : CmdSpec) (p : Pkt) (h : c.code = 0x40) :
    outstanding (begun s c p) ≤ outstanding s := by
  refine Nat.le_trans (forward_follows _ _ _ _).room (Nat.le_trans (Nat.le_of_eq ?_) (takeSlots_follows s p).room)
  simp only [outstanding, List.filter_append, List.filter_cons, List.filter_nil, h, bne_self_eq_false, Bool.false_eq_true,
    if_false, List.append_nil]

/-- A command that begins finds room. -/
theorem roomHeld_begun {s : State} {c : CmdSpec} {p : Pkt} (hcode : c.code % 65536 = c.code)
    (hstart : startable s c.code p = true) (hs : RoomHeld s) : RoomHeld (begun s c p) := by
  by_cases hlaunch : c.code = 0x40
  · exact Nat.le_trans (outstanding_begun_launch_le s c p hlaunch) hs
  · exact Nat.le_trans (begun_room s c p) (outstanding_lt_of_startable hcode hlaunch hstart)

theorem outstanding_stopRing_le (s : State) (n cause : Nat) : outstanding (stopRing s n cause) ≤ outstanding s :=
  Nat.le_refl _

/-- A ring read outside its window stops the ring. -/
theorem outstanding_stopped_le (s : State) (src : Src) (addr : Nat → Nat) :
    outstanding (match ringOf src with | some n => stopRing (blocked s none (addr n)) n 4 | none => s) ≤ outstanding s := by
  split
  · exact Nat.le_trans (outstanding_stopRing_le _ _ _) (blocked_follows _ _ _).room
  · exact Nat.le_refl _

/-- Submitting a command keeps the room, whatever becomes of it. -/
theorem roomHeld_submit {s : State} {p : Pkt} {c : CmdSpec} {run : Nat → State → State} (hcode : c.code % 65536 = c.code)
    (hrun : ∀ id t, outstanding (run id t) ≤ outstanding t) (hs : RoomHeld s) : RoomHeld (submit s p c run) := by
  cases hstart : startable s c.code p with
  | false => rwa [submit_waits s p c run hstart]
  | true =>
    cases hwin : slotsInWindow s p with
    | false =>
      refine Nat.le_trans ?_ hs
      unfold submit
      simp only [hstart, hwin, Bool.not_true, Bool.not_false, Bool.false_eq_true, if_true, if_false]
      exact outstanding_stopped_le s p.src _
    | true =>
      cases hcheck : checks (takeSlots s p) c p (overruns s p) with
      | some r =>
        rw [submit_rejected s p c run r.1 r.2 hstart hwin hcheck]
        exact Nat.le_trans (Nat.le_trans (post_follows _ _ _ _ _ _ _).room (takeSlots_follows s p).room) hs
      | none =>
        rw [submit_accepted s p c run ⟨hstart, hwin, hcheck⟩]
        exact Nat.le_trans (hrun _ _) (roomHeld_begun hcode hstart hs)

/-! ### The outcome of a step -/

/-- A step from s that ends in o keeps the room. -/
def KeepsRoom (s : State) (o : Host.Outcome State Fault Refusal) : Prop := RoomHeld s → ∀ t, o = .next t → RoomHeld t

theorem keepsRoom_next {s t : State} (h : RoomHeld s → RoomHeld t) : KeepsRoom s (nextOf t) := by
  intro hs u hu
  cases hu
  exact h hs

theorem keepsRoom_nextOf {s t : State} (h : outstanding t ≤ outstanding s) : KeepsRoom s (nextOf t) :=
  keepsRoom_next (Nat.le_trans h)

theorem keepsRoom_ite {c : Prop} [Decidable c] {s : State} {a b : Host.Outcome State Fault Refusal} (ha : KeepsRoom s a)
    (hb : KeepsRoom s b) : KeepsRoom s (if c then a else b) := by
  split <;> assumption

theorem keepsRoom_done {s t : State} (h : outstanding t ≤ outstanding s) : KeepsRoom s (done t) :=
  keepsRoom_nextOf (Nat.le_trans (settle_follows t).room h)

theorem keepsRoom_hearthEvent (s : State) (h : Nat) (f : Env → Hearth → Hearth) : KeepsRoom s (hearthEvent s h f) :=
  keepsRoom_done (outstanding_onHearth_le s h f)

section
variable {s : State} {p : Pkt} {c : CmdSpec} {run : Nat → State → State} (hcode : c.code % 65536 = c.code)
  (hrun : ∀ id t, outstanding (run id t) ≤ outstanding t)
include hcode hrun

theorem keepsRoom_nextOf_submit : KeepsRoom s (nextOf (submit s p c run)) := keepsRoom_next (roomHeld_submit hcode hrun)

theorem keepsRoom_done_submit : KeepsRoom s (done (submit s p c run)) :=
  keepsRoom_next fun hs => Nat.le_trans (settle_follows _).room (roomHeld_submit hcode hrun hs)

end

/-! ### Command packets: information, images and steps (chapters 6, 10 and 12) -/

section
variable (p : Pkt) (s : State)

theorem keepsRoom_execNop : KeepsRoom s (execNop p s) :=
  keepsRoom_nextOf_submit rfl fun _ _ => outstanding_finish_le _ _ _ _ _ _

/-- PAD completes as it is read and is never started (R378). -/
theorem keepsRoom_execPad : KeepsRoom s (execPad p s) := by
  refine keepsRoom_nextOf (outstanding_ite_le (Nat.le_refl _) (outstanding_ite_le (outstanding_stopped_le s p.src _) ?_))
  have htake := (takeSlots_follows s p).room
  exact outstanding_ite_le (Nat.le_trans (post_follows _ _ _ _ _ _ _).room htake) htake

theorem keepsRoom_execIdentify : KeepsRoom s (execIdentify p s) :=
  keepsRoom_nextOf_submit rfl fun _ _ => outstanding_finish_le _ _ _ _ _ _ _

theorem keepsRoom_execGetHealth : KeepsRoom s (execGetHealth p s) := by
  refine keepsRoom_nextOf_submit rfl fun id t => Nat.le_trans (reportAndFinish_follows _ _ _ _ _ _ _ _).room ?_
  exact Nat.le_trans (outstanding_foldl_updH_le _ _ _) (outstanding_clearHealth_le t)

theorem keepsRoom_execReadCensus : KeepsRoom s (execReadCensus p s) :=
  keepsRoom_nextOf_submit rfl fun _ _ => (reportAndFinish_follows _ _ _ _ _ _ _ _).room

theorem keepsRoom_execAuditLedgers : KeepsRoom s (execAuditLedgers p s) := by
  refine keepsRoom_done_submit rfl fun id t => Nat.le_trans (reportAndFinish_follows _ _ _ _ _ _ _ _).room ?_
  refine Nat.le_trans (outstanding_foldl_le _ outstanding_logUnbalanced_le _ _) ?_
  exact outstanding_foldl_le _ (fun s h => outstanding_onHearth_le s h _) _ _

theorem keepsRoom_execReadSignatures : KeepsRoom s (execReadSignatures p s) :=
  keepsRoom_nextOf_submit rfl fun _ _ => (reportAndFinish_follows _ _ _ _ _ _ _ _).room

theorem keepsRoom_execClearSignatures : KeepsRoom s (execClearSignatures p s) :=
  keepsRoom_nextOf_submit rfl fun _ _ => Nat.le_trans (outstanding_finish_le _ _ _ _ _ _) (outstanding_updH_le _ _ _)

theorem keepsRoom_execLoadImage : KeepsRoom s (execLoadImage p s) := by
  refine keepsRoom_done_submit rfl fun id t => ?_
  refine Nat.le_trans (outstanding_foldl_le _ (fun s h => ?_) _ _) (outstanding_setWait_le _ _ _)
  split
  · exact (loadPart_follows _ _ _ _ _ _).room
  · exact outstanding_onHearth_le _ _ _

theorem keepsRoom_execDropImage : KeepsRoom s (execDropImage p s) :=
  keepsRoom_done_submit rfl fun _ _ => outstanding_finish_foldl_updH_le _ _ _ _ _ _ _ _

theorem keepsRoom_execReadLoadReport : KeepsRoom s (execReadLoadReport p s) :=
  keepsRoom_done_submit rfl fun _ _ => (reportAndFinish_follows _ _ _ _ _ _ _ _).room

theorem keepsRoom_execLaunchStep : KeepsRoom s (execLaunchStep p s) := by
  refine keepsRoom_done_submit rfl fun id t => ?_
  extract_lets active waiting queued
  have h1 : outstanding active ≤ outstanding t := Nat.le_trans (outstanding_activate_le _ _) (outstanding_register_le _ _)
  have h2 : outstanding waiting ≤ outstanding t := Nat.le_trans (outstanding_setWait_le _ _ _) h1
  have h3 : outstanding queued ≤ outstanding t :=
    Nat.le_trans (outstanding_foldl_le _ (fun s i => outstanding_updH_le s _ _) _ _) h2
  clear_value queued
  exact h3

theorem roomHeld_preemptWith (hs : RoomHeld s) : RoomHeld (preemptWith p s) :=
  Nat.le_trans (settle_follows _).room (roomHeld_submit rfl (outstanding_preemptRun_le p) hs)

theorem keepsRoom_execPreemptStep : KeepsRoom s (execPreemptStep p s) := by
  refine keepsRoom_next fun hs => ?_
  split
  · exact hs
  · exact roomHeld_preemptWith p s hs

theorem keepsRoom_execPreemptStepHalt : KeepsRoom s (execPreemptStepHalt p s) := by
  refine keepsRoom_next fun hs => ?_
  split
  · exact roomHeld_preemptWith p s hs
  · exact hs

theorem keepsRoom_execPreemptStepSave : KeepsRoom s (execPreemptStepSave p s) := by
  refine keepsRoom_next fun hs => ?_
  split
  · exact roomHeld_preemptWith p s hs
  · exact hs

theorem keepsRoom_execResumeStep : KeepsRoom s (execResumeStep p s) :=
  keepsRoom_done_submit rfl fun _ _ => Nat.le_trans (outstanding_onHearths_le _ _ _) (outstanding_setWait_le _ _ _)

theorem keepsRoom_execAbortStep : KeepsRoom s (execAbortStep p s) :=
  keepsRoom_done_submit rfl fun _ _ => Nat.le_trans (outstanding_finish_le _ _ _ _ _ _) (outstanding_onHearths_le _ _ _)

theorem keepsRoom_execSaveState : KeepsRoom s (execSaveState p s) := by
  refine keepsRoom_done_submit rfl fun id t => ?_
  dsimp only
  split
  · split
    · exact Nat.le_trans (outstanding_finish_le _ _ _ _ _ _) (blocked_follows _ _ _).room
    · refine Nat.le_trans (Nat.le_trans (outstanding_finish_le _ _ _ _ _ _) (outstanding_onHearth_le _ _ _)) ?_
      exact outstanding_le_of_started (putImage _ _ _ _) rfl (outstanding_putImage_le { t with fresh := t.fresh + 1 } _ _ _)
  · exact outstanding_finish_le _ _ _ _ _ _

theorem keepsRoom_execRestoreState : KeepsRoom s (execRestoreState p s) := by
  refine keepsRoom_done_submit rfl fun id t => ?_
  dsimp only
  split
  · exact outstanding_finish_le _ _ _ _ _ _
  · refine Nat.le_trans (Nat.le_trans (outstanding_finish_le _ _ _ _ _ _) (outstanding_updH_le _ _ _)) ?_
    exact outstanding_activate_le { t with order := t.order + 1 } _

/-! ### Command packets: data, policies, links and time (chapters 9, 10 and 12) -/

theorem keepsRoom_execCopy : KeepsRoom s (execCopy p s) :=
  keepsRoom_done_submit rfl fun _ _ => outstanding_ite_le (outstanding_startRemote_le _ _ _ _)
    (Nat.le_trans (outstanding_finish_le _ _ _ _ _ _) (outstanding_foldl_le _ outstanding_copyLocal_le _ _))

theorem keepsRoom_execFill : KeepsRoom s (execFill p s) :=
  keepsRoom_done_submit rfl fun _ _ => Nat.le_trans (outstanding_finish_le _ _ _ _ _ _) (outstanding_copyWrite_le _ _ _ _)

theorem keepsRoom_execSetClassPolicy : KeepsRoom s (execSetClassPolicy p s) :=
  keepsRoom_done_submit rfl fun _ _ => outstanding_finish_le _ _ _ _ _ _

theorem keepsRoom_execSetShares : KeepsRoom s (execSetShares p s) := by
  unfold execSetShares
  dsimp only
  split
  · exact keepsRoom_nextOf (Nat.le_refl _)
  · refine keepsRoom_done_submit rfl fun id t => Nat.le_trans (outstanding_finish_le _ _ _ _ _ _) ?_
    exact outstanding_register_le _ _

theorem keepsRoom_execSetSharesRemove : KeepsRoom s (execSetSharesRemove p s) :=
  keepsRoom_ite (keepsRoom_nextOf (Nat.le_refl _)) (keepsRoom_done_submit rfl fun _ _ => outstanding_finish_le _ _ _ _ _ _)

theorem keepsRoom_execSetRole : KeepsRoom s (execSetRole p s) :=
  keepsRoom_done_submit rfl fun _ _ => outstanding_finish_le _ _ _ _ _ _

theorem keepsRoom_execSetRoutes : KeepsRoom s (execSetRoutes p s) := by
  refine keepsRoom_done_submit rfl fun id t => Nat.le_trans (outstanding_finish_le _ _ _ _ _ _) ?_
  have htab : outstanding (if nbit (fld p 0x10 1) 1 then bufTouch t (fld p 0x18 8) 65792 else t) ≤ outstanding t :=
    outstanding_ite_le (outstanding_bufTouch_le _ _ _) (Nat.le_refl _)
  have hset := fun f => Nat.le_trans (outstanding_foldl_le _ (fun s h => outstanding_updH_le s h f) (named p) _) htab
  exact outstanding_ite_le (hset _) (hset _)

theorem keepsRoom_execFlueUp : KeepsRoom s (execFlueUp p s) :=
  keepsRoom_done_submit rfl fun _ _ => Nat.le_trans (outstanding_setWait_le _ _ _)
    (outstanding_foldl_le _ (fun s (x : Nat × Nat) => outstanding_updH_le s x.1 _) _ _)

theorem keepsRoom_execFlueDown : KeepsRoom s (execFlueDown p s) :=
  keepsRoom_done_submit rfl fun _ _ => Nat.le_trans (outstanding_setWait_le _ _ _)
    (outstanding_foldl_le _ (fun s (x : Nat × Nat) => outstanding_updH_le s x.1 _) _ _)

theorem keepsRoom_execSyncTimeSet : KeepsRoom s (execSyncTimeSet p s) :=
  keepsRoom_ite (keepsRoom_nextOf (Nat.le_refl _)) (keepsRoom_done_submit rfl fun _ _ => outstanding_finish_le _ _ _ _ _ _)

theorem keepsRoom_execSyncTimeSlew : KeepsRoom s (execSyncTimeSlew p s) :=
  keepsRoom_ite (keepsRoom_nextOf (Nat.le_refl _)) (keepsRoom_done_submit rfl fun _ _ => outstanding_setWait_le _ _ _)

/-! ### Command packets: units, resets and measurement (chapters 5, 13 and 15) -/

theorem keepsRoom_execRetireUnit : KeepsRoom s (execRetireUnit p s) :=
  keepsRoom_done_submit rfl fun _ _ => outstanding_ite_le (outstanding_finish_le _ _ _ _ _ _)
    (Nat.le_trans (outstanding_updH_le _ _ _) (outstanding_setWait_le _ _ _))

theorem keepsRoom_execRestoreUnit : KeepsRoom s (execRestoreUnit p s) :=
  keepsRoom_done_submit rfl fun _ _ => Nat.le_trans (outstanding_updH_le _ _ _) (outstanding_setWait_le _ _ _)

theorem keepsRoom_execResetHearth : KeepsRoom s (execResetHearth p s) := by
  refine keepsRoom_done_submit rfl fun id t => ?_
  refine Nat.le_trans (outstanding_foldl_le _ (fun s h => ?_) _ _) ?_
  · exact outstanding_updH_le _ _ _
  · exact Nat.le_trans (outstanding_onHearths_le _ _ _) (outstanding_setWait_le _ _ _)

theorem keepsRoom_execModuleWarmReset : KeepsRoom s (execModuleWarmReset p s) :=
  keepsRoom_done_submit rfl outstanding_warmReset_le

theorem keepsRoom_execSetPowerCap : KeepsRoom s (execSetPowerCap p s) :=
  keepsRoom_done_submit rfl fun _ _ => Nat.le_trans (outstanding_finish_le _ _ _ _ _ _) (outstanding_takeCap_le _ _)

theorem keepsRoom_execSampleStart : KeepsRoom s (execSampleStart p s) :=
  keepsRoom_ite (keepsRoom_nextOf (Nat.le_refl _)) (keepsRoom_done_submit rfl fun _ _ =>
    outstanding_finish_foldl_updH_le _ _ _ _ _ _ _ _)

theorem keepsRoom_execSampleStop : KeepsRoom s (execSampleStop p s) :=
  keepsRoom_ite (keepsRoom_nextOf (Nat.le_refl _)) (keepsRoom_done_submit rfl fun _ _ =>
    outstanding_finish_foldl_updH_le _ _ _ _ _ _ _ _)

theorem keepsRoom_execSampleRead : KeepsRoom s (execSampleRead p s) :=
  keepsRoom_ite (keepsRoom_nextOf (Nat.le_refl _)) (keepsRoom_done_submit rfl fun _ _ =>
    (reportAndFinish_follows _ _ _ _ _ _ _ _).room)

theorem keepsRoom_execCalibrationRead : KeepsRoom s (execCalibrationRead p s) :=
  keepsRoom_ite (keepsRoom_nextOf (Nat.le_refl _)) (keepsRoom_done_submit rfl fun _ _ => outstanding_finish_le _ _ _ _ _ _)

theorem keepsRoom_execCalibrationWrite : KeepsRoom s (execCalibrationWrite p s) :=
  keepsRoom_ite (keepsRoom_nextOf (Nat.le_refl _)) (keepsRoom_done_submit rfl fun _ _ =>
    outstanding_finish_foldl_updH_le _ _ _ _ _ _ _ _)

theorem keepsRoom_execCalibrationReset : KeepsRoom s (execCalibrationReset p s) :=
  keepsRoom_ite (keepsRoom_nextOf (Nat.le_refl _)) (keepsRoom_done_submit rfl fun _ _ =>
    outstanding_finish_foldl_updH_le _ _ _ _ _ _ _ _)

/-! ### Command packets: firmware and trust (chapters 12 and 14) -/

theorem keepsRoom_execFwStage : KeepsRoom s (execFwStage p s) := by
  refine keepsRoom_done_submit rfl fun id t => outstanding_ite_le (outstanding_finish_le _ _ _ _ _ _) ?_
  split
  · exact outstanding_finish_le _ _ _ _ _ _
  · have htouch := outstanding_bufTouch_le t (fld p 0x10 8) (fld p 0x18 4)
    dsimp only
    split
    · exact Nat.le_trans (outstanding_failSecurity_le _ _ _) htouch
    · refine Nat.le_trans ?_ (Nat.le_trans (outstanding_clearSig_le _) htouch)
      exact outstanding_ite_le (outstanding_setWait_le _ _ _) (finishStage_follows _ _ _ _).room

theorem keepsRoom_execFwActivate : KeepsRoom s (execFwActivate p s) := by
  refine keepsRoom_done_submit rfl fun id t => outstanding_ite_le (outstanding_finish_le _ _ _ _ _ _) ?_
  refine Nat.le_trans (outstanding_setWait_le _ _ _) ?_
  exact outstanding_le_of_started (activateSlot t (fld p 0x10 1)) rfl (outstanding_activateSlot_le _ _)

theorem keepsRoom_execAttest : KeepsRoom s (execAttest p s) :=
  keepsRoom_done_submit rfl fun _ _ => outstanding_ite_le (outstanding_attestNow_le _ _ _ _) (outstanding_setWait_le _ _ _)

theorem keepsRoom_execSetAlarmPolicy : KeepsRoom s (execSetAlarmPolicy p s) :=
  keepsRoom_done_submit rfl fun _ _ => outstanding_authorised_le _ _ _ _ _ _ _ fun _ _ => outstanding_finish_le _ _ _ _ _ _

theorem keepsRoom_execDebugUnlockChallenge : KeepsRoom s (execDebugUnlockChallenge p s) :=
  keepsRoom_ite (keepsRoom_nextOf (Nat.le_refl _)) (keepsRoom_done_submit rfl fun _ _ => outstanding_finish_le _ _ _ _ _ _)

theorem keepsRoom_execDebugUnlockResponse : KeepsRoom s (execDebugUnlockResponse p s) :=
  keepsRoom_ite (keepsRoom_nextOf (Nat.le_refl _)) (keepsRoom_done_submit rfl fun _ _ =>
    outstanding_authorised_le _ _ _ _ _ _ _ fun _ _ => outstanding_finish_le _ _ _ _ _ _)

theorem keepsRoom_execZeroize : KeepsRoom s (execZeroize p s) :=
  keepsRoom_done_submit rfl fun _ _ => outstanding_authorised_le _ _ _ _ _ _ _ fun _ _ => outstanding_finish_le _ _ _ _ _ _

end

/-! ### Events at the host port and of power (chapters 11 and 15) -/

section
variable (s : State)

theorem keepsRoom_execRegisterWrite (offset size : Nat) (v : W64) : KeepsRoom s (execRegisterWrite offset size v s) :=
  keepsRoom_nextOf <| outstanding_ite_le (Nat.le_refl _) <| outstanding_ite_le (outstanding_cxlWrite_le _ _ _) <|
    outstanding_ite_le (Nat.le_trans (outstanding_cxlWrite_le _ _ _) (outstanding_cxlWrite_le _ _ _)) <|
    outstanding_ite_le (outstanding_regWrite_le _ _ _) <| outstanding_ite_le (outstanding_regWrite_le _ _ _) (Nat.le_refl _)

theorem keepsRoom_execHealthRead : KeepsRoom s (execHealthRead s) :=
  keepsRoom_nextOf <| outstanding_ite_le
    (outstanding_le_of_started (clearHealth s) rfl (outstanding_clearHealth_le s)) (Nat.le_refl _)

theorem keepsRoom_execCxlMemRead (dpa : Nat) : KeepsRoom s (execCxlMemRead dpa s) := by
  refine keepsRoom_ite (keepsRoom_nextOf (Nat.le_refl _)) ?_
  extract_lets da a
  split
  · exact keepsRoom_done (outstanding_le_of_started a rfl (outstanding_updH_le _ _ _))
  · split
    extract_lets a
    exact keepsRoom_done (outstanding_le_of_started a rfl (putH_follows _ _ _).room)

theorem keepsRoom_execCxlMemWrite (dpa : Nat) (data : BitVec 512) (mask : W64) :
    KeepsRoom s (execCxlMemWrite dpa data mask s) := by
  refine keepsRoom_ite (keepsRoom_nextOf (Nat.le_refl _)) ?_
  extract_lets da
  split
  · exact keepsRoom_done (outstanding_updH_le _ _ _)
  · exact keepsRoom_done (outstanding_updH_le _ _ _)

theorem keepsRoom_execHostBiasAccess (h addr : Nat) (line : BitVec 512) : KeepsRoom s (execHostBiasAccess h addr line s) :=
  keepsRoom_ite (keepsRoom_done (outstanding_updH_le _ _ _)) (keepsRoom_nextOf (Nat.le_refl _))

/-- A cold reset leaves no command, whatever power does with it. -/
theorem outstanding_of_coldReset {t : State} (ht : t.started = (coldReset s).started) : outstanding t ≤ outstanding s :=
  outstanding_le_of_started (coldReset s) ht (Nat.zero_le _)

theorem keepsRoom_execPowerUp : KeepsRoom s (execPowerUp s) :=
  keepsRoom_nextOf (outstanding_ite_le (Nat.le_refl _) (outstanding_of_coldReset s rfl))

theorem keepsRoom_execModuleFirmwareStart : KeepsRoom s (execModuleFirmwareStart s) := by
  refine keepsRoom_done ?_
  split
  · exact Nat.le_refl _
  · exact outstanding_ite_le (Nat.le_refl _) (outstanding_onHearths_le _ _ _)

/-- The mantel shares tokens out hearth by hearth (R474, R475). -/
theorem keepsRoom_execTokenShare (demand : List Nat) : KeepsRoom s (execTokenShare demand s) := by
  refine keepsRoom_nextOf (outstanding_ite_le (Nat.le_refl _) ?_)
  extract_lets hs dem back reported pool target
  have hreported : outstanding reported ≤ outstanding s := outstanding_onHearths_le _ _ _
  clear_value reported
  split
  split
  case _ granted rest hgranted =>
    have hfold : outstanding granted ≤ outstanding reported := by
      refine Nat.le_trans (Nat.le_of_eq (congrArg (fun a : State × Nat => outstanding a.1) hgranted.symm))
        (foldl_measure_le (fun a : State × Nat => outstanding a.1) _ (fun a h => ?_) _ _)
      dsimp only
      split <;> exact outstanding_updH_le _ _ _
    exact outstanding_le_of_started granted rfl (Nat.le_trans hfold hreported)

theorem keepsRoom_execPowerOvershoot (watts : Nat) : KeepsRoom s (execPowerOvershoot watts s) :=
  keepsRoom_nextOf (outstanding_ite_le (outstanding_onHearths_le _ _ _) (Nat.le_refl _))

theorem keepsRoom_execThermalCheck (h : Nat) (eighths : Int) : KeepsRoom s (execThermalCheck h eighths s) :=
  keepsRoom_nextOf (outstanding_ite_le (outstanding_onHearth_le _ _ _) (outstanding_updH_le _ _ _))

theorem keepsRoom_execHearthBootComplete (h : Nat) (ok : Bool) : KeepsRoom s (execHearthBootComplete h ok s) := by
  refine keepsRoom_done (outstanding_ite_le (Nat.le_refl _) ?_)
  extract_lets waiting a
  have ha : outstanding a ≤ outstanding s := outstanding_updH_le _ _ _
  clear_value a waiting
  split
  · extract_lets fused ready
    have hready : outstanding ready ≤ outstanding s := Nat.le_trans (outstanding_bootReady_le _ _ _) ha
    clear_value ready
    split
    · exact Nat.le_trans (Nat.le_trans (outstanding_finish_le _ _ _ _ _ _) (outstanding_restored_le _ _ _)) hready
    · exact hready
  · split
    · refine Nat.le_trans (Nat.le_trans (outstanding_finish_le _ _ _ _ _ _) (outstanding_updH_le _ _ _)) ?_
      exact Nat.le_trans (returnTokens_follows a h).room ha
    · exact Nat.le_trans (outstanding_updH_le _ _ _) ha

/-! ### Units, faults and alarms (chapter 13) -/

theorem keepsRoom_execRestoreTestComplete (h : Nat) (pass : Bool) : KeepsRoom s (execRestoreTestComplete h pass s) := by
  refine keepsRoom_done ?_
  split
  · exact Nat.le_refl _
  · refine outstanding_ite_le (Nat.le_refl _) (outstanding_ite_le ?_ ?_)
    · exact Nat.le_trans (outstanding_returnUnits_le _ _)
        (Nat.le_trans (outstanding_updH_le _ _ _) (outstanding_updH_le _ _ _))
    · exact Nat.le_trans (outstanding_finish_le _ _ _ _ _ _) (outstanding_updH_le _ _ _)

theorem keepsRoom_execReshapeComplete (h : Nat) : KeepsRoom s (execReshapeComplete h s) := by
  refine keepsRoom_done ?_
  split
  · exact Nat.le_refl _
  · exact Nat.le_trans (outstanding_memoryGoesOn_le _ _) (outstanding_onHearth_le _ _ _)

theorem keepsRoom_execHearthFatal (h : Nat) (ev : FatalEvent) (permanent : Bool) :
    KeepsRoom s (execHearthFatal h ev permanent s) := by
  have hfatal := outstanding_onHearth_le s h (fun e hh => fatalEvent e ev permanent hh)
  exact keepsRoom_done (outstanding_ite_le (Nat.le_trans (outstanding_onHearths_le _ _ _) hfatal) hfatal)

theorem keepsRoom_execControlMismatch (h : Nat) (u : CtrlUnit) (inRetry : Bool) :
    KeepsRoom s (execControlMismatch h u inRetry s) := by
  refine keepsRoom_done ?_
  split
  · refine outstanding_ite_le (Nat.le_refl _) (outstanding_ite_le (Nat.le_trans (outstanding_failPair_le _) ?_) ?_)
    · exact outstanding_onHearths_le _ _ _
    · exact outstanding_onHearths_le _ _ _
  · exact outstanding_onHearth_le _ _ _

/-! ### Links and cells (chapter 9) -/

section
variable (h t : Nat)

theorem keepsRoom_execLinkCreditReturn (w : BitVec 20) : KeepsRoom s (execLinkCreditReturn h t w s) := by
  refine keepsRoom_ite (keepsRoom_nextOf (Nat.le_refl _)) ?_
  split
  case h_1 => exact keepsRoom_nextOf (Nat.le_refl _)
  case h_2 a ha => exact keepsRoom_done (Nat.le_trans (outstanding_updH_le _ _ _) (outstanding_takeWord_le ha))

theorem keepsRoom_execEqRequest (w : BitVec 20) : KeepsRoom s (execEqRequest h t w s) :=
  keepsRoom_ite (keepsRoom_nextOf (Nat.le_refl _))
    (keepsRoom_done (Nat.le_trans (outstanding_updH_le _ _ _) (outstanding_updH_le _ _ _)))

theorem keepsRoom_execCodewordUncorrectable (cells : Nat) : KeepsRoom s (execCodewordUncorrectable h t cells s) :=
  keepsRoom_ite (keepsRoom_nextOf (Nat.le_refl _)) (keepsRoom_ite (keepsRoom_done (outstanding_updH_le _ _ _))
    (keepsRoom_done (Nat.le_trans (outstanding_updH_le _ _ _) (outstanding_updH_le _ _ _))))

theorem keepsRoom_execResyncRequest : KeepsRoom s (execResyncRequest h t s) :=
  keepsRoom_ite (keepsRoom_nextOf (Nat.le_refl _)) (keepsRoom_done (Nat.le_trans (outstanding_updH_le _ _ _)
    (outstanding_ite_le (outstanding_updH_le _ _ _) (outstanding_updH_le _ _ _))))

theorem keepsRoom_execResyncReport (w : BitVec 20) : KeepsRoom s (execResyncReport h t w s) := by
  refine keepsRoom_ite (keepsRoom_nextOf (Nat.le_refl _)) ?_
  split
  case h_1 => exact keepsRoom_nextOf (Nat.le_refl _)
  case h_2 a ha => exact keepsRoom_done (Nat.le_trans (outstanding_updH_le _ _ _) (outstanding_takeWord_le ha))

theorem keepsRoom_execLinkTrainingComplete (lanes lanesFar : BitVec 4) :
    KeepsRoom s (execLinkTrainingComplete h t lanes lanesFar s) :=
  keepsRoom_ite (keepsRoom_nextOf (Nat.le_refl _)) (keepsRoom_done (Nat.le_trans (outstanding_updH_le _ _ _)
    (outstanding_ite_le (outstanding_updH_le _ _ _) (Nat.le_refl _))))

theorem keepsRoom_execFlueDownDrainEnd : KeepsRoom s (execFlueDownDrainEnd h t s) :=
  keepsRoom_ite (keepsRoom_done (outstanding_linkDown_le _ _ _)) (keepsRoom_nextOf (Nat.le_refl _))

theorem keepsRoom_execFlueRefclkHoldoverExpiry : KeepsRoom s (execFlueRefclkHoldoverExpiry s) := by
  refine keepsRoom_ite (keepsRoom_nextOf (Nat.le_refl _)) (keepsRoom_done ?_)
  exact outstanding_foldl_le _ (fun s h => outstanding_foldl_le _ (fun s t => outstanding_linkDown_le s h t) _ _) _ _

/-- A sequenced cell that arrives is handed over with those it releases (R295). -/
theorem keepsRoom_seqCell (row : Nat) (c : Cell) : KeepsRoom s (seqCell row h t c s) := by
  unfold seqCell
  split
  case h_1 => exact keepsRoom_nextOf (Nat.le_refl _)
  case h_2 a ha => exact keepsRoom_done (outstanding_arrive_le ha)
  case h_3 a ha =>
    refine keepsRoom_done (Nat.le_trans (outstanding_foldl_le _ (outstanding_handOver_le h t _) _ _) ?_)
    exact Nat.le_trans (putH_follows _ _ _).room (outstanding_arrive_le ha)

theorem keepsRoom_ackCell (row : Nat) (c : Cell) (f : State → Nat → Nat → Nat → State)
    (hf : ∀ a i m d, outstanding (f a i m d) ≤ outstanding a) : KeepsRoom s (ackCell row h t c s f) := by
  unfold ackCell
  split
  case h_1 => exact keepsRoom_nextOf (Nat.le_refl _)
  case h_2 a ha => exact keepsRoom_done (outstanding_arrive_le ha)
  case h_3 a ha => exact keepsRoom_done (Nat.le_trans (hf _ _ _ _) (outstanding_arrive_le ha))

theorem keepsRoom_execAck (c : Cell) : KeepsRoom s (execAck h t c s) :=
  keepsRoom_ackCell s h t 16 c _ fun _ _ _ _ => outstanding_updH_le _ _ _

theorem keepsRoom_execNack (c : Cell) : KeepsRoom s (execNack h t c s) :=
  keepsRoom_ackCell s h t 17 c _ fun _ _ _ _ => outstanding_updH_le _ _ _

theorem keepsRoom_execOpen (c : Cell) : KeepsRoom s (execOpen h t c s) :=
  keepsRoom_ackCell s h t 18 c _ fun _ _ _ _ => outstanding_updH_le _ _ _

theorem keepsRoom_execOpenAck (c : Cell) : KeepsRoom s (execOpenAck h t c s) :=
  keepsRoom_ackCell s h t 19 c _ fun _ _ _ _ => outstanding_updH_le _ _ _

theorem keepsRoom_execReset (c : Cell) : KeepsRoom s (execReset h t c s) :=
  keepsRoom_ackCell s h t 20 c _ fun _ _ _ _ => outstanding_ite_le (outstanding_losePeer_le _ _ _) (Nat.le_refl _)

theorem keepsRoom_execResendTimeout (ctx : Nat) : KeepsRoom s (execResendTimeout h ctx s) :=
  keepsRoom_ite (keepsRoom_nextOf (Nat.le_refl _)) (keepsRoom_ite (keepsRoom_done (outstanding_losePeer_le _ _ _))
    (keepsRoom_done (outstanding_updH_le _ _ _)))

theorem keepsRoom_execTransitCell (c : Cell) : KeepsRoom s (execTransitCell h t c s) := by
  unfold execTransitCell
  split
  case h_1 => exact keepsRoom_nextOf (Nat.le_refl _)
  case h_2 a ha =>
    have hoff := outstanding_takeOff_le ha
    refine keepsRoom_ite (keepsRoom_nextOf (Nat.le_refl _)) (keepsRoom_ite (keepsRoom_done hoff) ?_)
    extract_lets own
    split
    · exact keepsRoom_done (Nat.le_trans (outstanding_discard_le _ _) hoff)
    · exact keepsRoom_done (Nat.le_trans (outstanding_updH_le _ _ _) hoff)

theorem keepsRoom_execTimeQuery (c : Cell) : KeepsRoom s (execTimeQuery h t c s) := by
  unfold execTimeQuery
  split
  case h_1 => exact keepsRoom_nextOf (Nat.le_refl _)
  case h_2 a ha => exact keepsRoom_done (outstanding_arrive_le ha)
  case h_3 a ha =>
    have harr := outstanding_arrive_le ha
    exact keepsRoom_ite (keepsRoom_done harr) (keepsRoom_done (Nat.le_trans (outstanding_updH_le _ _ _) harr))

theorem keepsRoom_execTimeAnswer (c : Cell) : KeepsRoom s (execTimeAnswer h t c s) := by
  unfold execTimeAnswer
  split
  case h_1 => exact keepsRoom_nextOf (Nat.le_refl _)
  case h_2 a ha => exact keepsRoom_done (outstanding_arrive_le ha)
  case h_3 a ha =>
    have harr := outstanding_arrive_le ha
    exact keepsRoom_ite (keepsRoom_done harr) (keepsRoom_done (outstanding_le_of_started a rfl harr))

end

theorem keepsRoom_execTimeExchangeTick : KeepsRoom s (execTimeExchangeTick s) := by
  unfold execTimeExchangeTick
  split
  · exact keepsRoom_nextOf (Nat.le_refl _)
  · exact keepsRoom_hearthEvent _ _ _

theorem keepsRoom_execSignatureForwardTick : KeepsRoom s (execSignatureForwardTick s) := by
  unfold execSignatureForwardTick
  split
  case h_1 => exact keepsRoom_nextOf (Nat.le_refl _)
  case h_2 m d _ =>
    refine keepsRoom_done (Nat.le_trans (outstanding_sendTelemetry_le _ _ _) ?_)
    exact outstanding_foldl_le _ (fun s h => outstanding_forwardSecond_le s m d h) _ _

/-! ### Images, steps and trust (chapters 6, 10 and 14) -/

theorem keepsRoom_execLoadComplete (h ns : Nat) : KeepsRoom s (execLoadComplete h ns s) := by
  refine keepsRoom_done ?_
  split
  · exact Nat.le_refl _
  · exact Nat.le_trans (loadPart_follows _ _ _ _ _ _).room (putH_follows _ _ _).room

theorem keepsRoom_execSlotFill (h cls : Nat) : KeepsRoom s (execSlotFill h cls s) := by
  refine keepsRoom_ite (keepsRoom_nextOf (Nat.le_refl _)) ?_
  split
  · exact keepsRoom_nextOf (Nat.le_refl _)
  · split
    · exact keepsRoom_nextOf (Nat.le_refl _)
    · exact keepsRoom_hearthEvent _ _ _

theorem keepsRoom_execSaveComplete (h : Nat) : KeepsRoom s (execSaveComplete h s) := by
  unfold execSaveComplete
  split
  · exact keepsRoom_nextOf (Nat.le_refl _)
  · exact keepsRoom_ite (keepsRoom_nextOf (Nat.le_refl _)) (keepsRoom_done (outstanding_onHearth_le _ _ _))

theorem keepsRoom_execFwSwitchComplete (ok : Bool) : KeepsRoom s (execFwSwitchComplete ok s) := by
  unfold execFwSwitchComplete
  split
  · exact keepsRoom_nextOf (Nat.le_refl _)
  · split
    · exact keepsRoom_nextOf (Nat.le_refl _)
    case h_2 a _ _ _ h rest hleft =>
      refine keepsRoom_ite (keepsRoom_done (outstanding_nextTarget_le _ _ _ _))
        (keepsRoom_ite (keepsRoom_nextOf (Nat.le_refl _)) (keepsRoom_ite ?_ (keepsRoom_hearthEvent _ _ _)))
      refine keepsRoom_done (Nat.le_trans (outstanding_nextTarget_le _ _ _ _) ?_)
      exact outstanding_le_of_started (updH s h fun hh => { hh with fw := (activeImage s a.target).version }) rfl
        (outstanding_updH_le s h _)

theorem keepsRoom_execIdentityEngineFailure : KeepsRoom s (execIdentityEngineFailure s) :=
  keepsRoom_done (outstanding_ite_le (Nat.le_refl _)
    (Nat.le_trans (outstanding_serveAttests_le _) (outstanding_mantelFail_le _ _)))

theorem keepsRoom_execIdentityEngineStart (writeOk : Bool) : KeepsRoom s (execIdentityEngineStart writeOk s) :=
  keepsRoom_ite (keepsRoom_nextOf (Nat.le_refl _)) (keepsRoom_done (Nat.le_trans (outstanding_serveAttests_le _)
    (outstanding_ite_le (Nat.le_refl _) (Nat.le_refl _))))

theorem keepsRoom_execJtagInstruction (die ir : Nat) : KeepsRoom s (execJtagInstruction die ir s) :=
  keepsRoom_ite (keepsRoom_nextOf (Nat.le_refl _)) (keepsRoom_ite (keepsRoom_nextOf (Nat.le_refl _))
    (keepsRoom_done (outstanding_le_of_started (raiseAlarm s .debug) rfl (outstanding_raiseAlarm_le _ _))))

theorem keepsRoom_execDebugAccessExpiry : KeepsRoom s (execDebugAccessExpiry s) := by
  unfold execDebugAccessExpiry
  dsimp only
  split <;> exact keepsRoom_nextOf (Nat.le_refl _)

end

/-! ### Every command -/

/-- Every command of the table keeps the room (R405): a packet by the check before it starts, an event since it starts none. -/
theorem keepsRoom_exec (i : Instr) (s : State) : KeepsRoom s (exec i s) := by
  cases i
  -- command packets
  case nop p => exact keepsRoom_execNop p s
  case pad p => exact keepsRoom_execPad p s
  case identify p => exact keepsRoom_execIdentify p s
  case getHealth p => exact keepsRoom_execGetHealth p s
  case readCensus p => exact keepsRoom_execReadCensus p s
  case auditLedgers p => exact keepsRoom_execAuditLedgers p s
  case readSignatures p => exact keepsRoom_execReadSignatures p s
  case clearSignatures p => exact keepsRoom_execClearSignatures p s
  case fwStage p => exact keepsRoom_execFwStage p s
  case fwActivate p => exact keepsRoom_execFwActivate p s
  case loadImage p => exact keepsRoom_execLoadImage p s
  case dropImage p => exact keepsRoom_execDropImage p s
  case readLoadReport p => exact keepsRoom_execReadLoadReport p s
  case launchStep p => exact keepsRoom_execLaunchStep p s
  case preemptStep p => exact keepsRoom_execPreemptStep p s
  case preemptStepHalt p => exact keepsRoom_execPreemptStepHalt p s
  case preemptStepSave p => exact keepsRoom_execPreemptStepSave p s
  case resumeStep p => exact keepsRoom_execResumeStep p s
  case abortStep p => exact keepsRoom_execAbortStep p s
  case saveState p => exact keepsRoom_execSaveState p s
  case restoreState p => exact keepsRoom_execRestoreState p s
  case copy p => exact keepsRoom_execCopy p s
  case fill p => exact keepsRoom_execFill p s
  case setClassPolicy p => exact keepsRoom_execSetClassPolicy p s
  case setShares p => exact keepsRoom_execSetShares p s
  case setSharesRemove p => exact keepsRoom_execSetSharesRemove p s
  case setRole p => exact keepsRoom_execSetRole p s
  case setRoutes p => exact keepsRoom_execSetRoutes p s
  case flueUp p => exact keepsRoom_execFlueUp p s
  case flueDown p => exact keepsRoom_execFlueDown p s
  case syncTimeSet p => exact keepsRoom_execSyncTimeSet p s
  case syncTimeSlew p => exact keepsRoom_execSyncTimeSlew p s
  case retireUnit p => exact keepsRoom_execRetireUnit p s
  case restoreUnit p => exact keepsRoom_execRestoreUnit p s
  case resetHearth p => exact keepsRoom_execResetHearth p s
  case moduleWarmReset p => exact keepsRoom_execModuleWarmReset p s
  case setPowerCap p => exact keepsRoom_execSetPowerCap p s
  case sampleStart p => exact keepsRoom_execSampleStart p s
  case sampleStop p => exact keepsRoom_execSampleStop p s
  case sampleRead p => exact keepsRoom_execSampleRead p s
  case calibrationRead p => exact keepsRoom_execCalibrationRead p s
  case calibrationWrite p => exact keepsRoom_execCalibrationWrite p s
  case calibrationReset p => exact keepsRoom_execCalibrationReset p s
  case attest p => exact keepsRoom_execAttest p s
  case setAlarmPolicy p => exact keepsRoom_execSetAlarmPolicy p s
  case debugUnlockChallenge p => exact keepsRoom_execDebugUnlockChallenge p s
  case debugUnlockResponse p => exact keepsRoom_execDebugUnlockResponse p s
  case zeroize p => exact keepsRoom_execZeroize p s
  -- the host port's registers
  case sqDoorbell => exact keepsRoom_nextOf (outstanding_ite_le (outstanding_doorbell_le _ _ _) (Nat.le_refl _))
  case cqHeadWrite => exact keepsRoom_nextOf (outstanding_ite_le (outstanding_cqHead_le _ _ _) (Nat.le_refl _))
  case sqEnable | sqDisable => exact keepsRoom_nextOf (outstanding_ite_le (outstanding_sqSize_le _ _ _) (Nat.le_refl _))
  case cqEnable | cqDisable => exact keepsRoom_nextOf (outstanding_ite_le (outstanding_cqSize_le _ _ _) (Nat.le_refl _))
  case powerCapWrite => exact keepsRoom_nextOf (outstanding_ite_le (outstanding_capWrite_le _ _) (Nat.le_refl _))
  case biasWrite => exact keepsRoom_nextOf (outstanding_ite_le (outstanding_biasSet_le _ _ _) (Nat.le_refl _))
  case healthRead => exact keepsRoom_execHealthRead s
  case registerWrite offset size v => exact keepsRoom_execRegisterWrite s offset size v
  case cxlMemRead dpa => exact keepsRoom_execCxlMemRead s dpa
  case cxlMemWrite dpa data mask => exact keepsRoom_execCxlMemWrite s dpa data mask
  case hostBiasAccess h addr line => exact keepsRoom_execHostBiasAccess s h addr line
  -- events that write registers, answers or the mantel's own fields alone
  case hdmDecoderCommit | d3hotEntry | cxlLinkTraining | bootRomRingEngine | sensorUpdate | flueRefclkLoss | setEndpointId =>
    exact keepsRoom_nextOf (outstanding_ite_le (Nat.le_refl _) (Nat.le_refl _))
  case hotReset | d0Return | pcieRefclkLoss | dqsTracking | flueRefclkReturn | fruRead | mctpControl | pldmBase
      | getPdrRepositoryInfo | getPdr | getSensorReading | setNumericSensorEnable | challengeExpiry =>
    exact keepsRoom_nextOf (Nat.le_refl _)
  -- power and resets
  case powerUp => exact keepsRoom_execPowerUp s
  case inputOutOfRange | perstAssert | mantelOvertemp => exact keepsRoom_nextOf (outstanding_of_coldReset s rfl)
  case perstRelease | perstWaitExpiry =>
    exact keepsRoom_nextOf (outstanding_ite_le (outstanding_startBoot_le s) (Nat.le_refl _))
  case moduleFirmwareStart => exact keepsRoom_execModuleFirmwareStart s
  case hearthPowerOn => exact keepsRoom_nextOf (outstanding_ite_le (outstanding_updH_le _ _ _) (Nat.le_refl _))
  case hearthBootComplete h ok => exact keepsRoom_execHearthBootComplete s h ok
  case tokenShare demand => exact keepsRoom_execTokenShare s demand
  case chargeReport h => exact keepsRoom_nextOf (reportCharges_follows s h).room
  case powerOvershoot watts => exact keepsRoom_execPowerOvershoot s watts
  case thermalCheck h eighths => exact keepsRoom_execThermalCheck s h eighths
  case thermalShutdown => exact keepsRoom_done (outstanding_ite_le (outstanding_onHearth_le _ _ _) (Nat.le_refl _))
  case clockStepChange => exact keepsRoom_nextOf (outstanding_ite_le (outstanding_onHearth_le _ _ _) (Nat.le_refl _))
  -- units, faults, alarms and trust
  case restoreTestComplete h pass => exact keepsRoom_execRestoreTestComplete s h pass
  case deferredRetirement => exact keepsRoom_done (outstanding_ite_le (Nat.le_refl _) (outstanding_memoryGoesOn_le _ _))
  case reshapeComplete h => exact keepsRoom_execReshapeComplete s h
  case bucketLeak => exact keepsRoom_nextOf (outstanding_ite_le (Nat.le_refl _) (outstanding_updH_le _ _ _))
  case sampleTick | perBankRefresh => exact keepsRoom_nextOf (outstanding_updH_le _ _ _)
  case hearthFatal h ev permanent => exact keepsRoom_execHearthFatal s h ev permanent
  case controlMismatch h u inRetry => exact keepsRoom_execControlMismatch s h u inRetry
  case hostPortFail | commandProcessorsFail =>
    exact keepsRoom_done (outstanding_ite_le (Nat.le_refl _) (logAll_follows _ _ _ _ _).room)
  case failover => exact keepsRoom_done (outstanding_ite_le (outstanding_failPair_le _) (Nat.le_refl _))
  case verificationEngineFailure => exact keepsRoom_done (outstanding_ite_le (Nat.le_refl _) (outstanding_mantelFail_le _ _))
  case powerControllerFailure | sidebandEndpointFailure =>
    exact keepsRoom_nextOf (outstanding_ite_le (Nat.le_refl _) (outstanding_mantelFail_le _ _))
  case alarm => exact keepsRoom_done (outstanding_ite_le (outstanding_raiseAlarm_le _ _) (Nat.le_refl _))
  case jtagInstruction die ir => exact keepsRoom_execJtagInstruction s die ir
  case debugAccessExpiry => exact keepsRoom_execDebugAccessExpiry s
  case identityEngineStart writeOk => exact keepsRoom_execIdentityEngineStart s writeOk
  case identityEngineFailure => exact keepsRoom_execIdentityEngineFailure s
  case fwSwitchComplete ok => exact keepsRoom_execFwSwitchComplete s ok
  -- links and cells
  case linkCreditReturn h t w => exact keepsRoom_execLinkCreditReturn s h t w
  case eqRequest h t w => exact keepsRoom_execEqRequest s h t w
  case codewordUncorrectable h t cells => exact keepsRoom_execCodewordUncorrectable s h t cells
  case resyncRequest h t => exact keepsRoom_execResyncRequest s h t
  case resyncReport h t w => exact keepsRoom_execResyncReport s h t w
  case linkTrainingComplete h t lanes lanesFar => exact keepsRoom_execLinkTrainingComplete s h t lanes lanesFar
  case flueDownDrainEnd h t => exact keepsRoom_execFlueDownDrainEnd s h t
  case flueRefclkHoldoverExpiry => exact keepsRoom_execFlueRefclkHoldoverExpiry s
  case transitCell h t c => exact keepsRoom_execTransitCell s h t c
  case write | readReq | readReply | command | completion | syncArrive | syncRelease | combine | signature | telemetry | token
      | credit | writeDone | accessFault | dropped => exact keepsRoom_seqCell s _ _ _ _
  case ack h t c => exact keepsRoom_execAck s h t c
  case nack h t c => exact keepsRoom_execNack s h t c
  case openAck h t c => exact keepsRoom_execOpenAck s h t c
  case reset h t c => exact keepsRoom_execReset s h t c
  case resendTimeout h ctx => exact keepsRoom_execResendTimeout s h ctx
  case timeExchangeTick => exact keepsRoom_execTimeExchangeTick s
  case timeUnlockExpiry => exact keepsRoom_ite (keepsRoom_done (Nat.le_refl _)) (keepsRoom_nextOf (Nat.le_refl _))
  case timeQuery h t c => exact keepsRoom_execTimeQuery s h t c
  case timeAnswer h t c => exact keepsRoom_execTimeAnswer s h t c
  case signatureForwardTick => exact keepsRoom_execSignatureForwardTick s
  -- images and steps
  case loadComplete h ns => exact keepsRoom_execLoadComplete s h ns
  case slotFill h cls => exact keepsRoom_execSlotFill s h cls
  case saveComplete h => exact keepsRoom_execSaveComplete s h
  -- events of one hearth
  case cellInject | laneEvent | laneRetrainComplete | laneChange | linkTrainingTimeout | ackDelayExpiry | writeDoneTimer
      | damperLevelFall | scheduleSlotOpen | endpointTokenSend | putTag | getTag | contributeTag | endpointCombineSum
      | tokenArrival | tokenAdmit | streamCredit | combiningContribution | combiningSumComplete | mma | emit | wload | vfma
      | vbin | sfu | reduce | steer | move | syncOpArrive | syncOpWait | syncOpIncrement | syncOpDecrement | firingEnd
      | bankLoadComplete | hsyncBatch | syncGrantArrival | tagTimeout | syncWaitTimeout | progressCountTrip
      | spillRoundComplete | tileReset | contextChange | contextChangeComplete | stokerLoadTag | stokerStoreTag
      | stokerRelayBatch | stokerCopyTag | stokerTriggerTag | stokerWait | stokerPost | memoryRequest | memoryReadReply
      | writeAck | interfaceRetrain | patrolScrub | reshapeUnitMove | stepDispatch | stepStartComplete | classPreempt
      | haltComplete | restoreComplete | stepComplete | checkFlag | replayComplete | refereeComplete | scrubCfgVote
      | ceSummary | chimneyFault =>
    exact keepsRoom_hearthEvent s _ _
  -- the cell OPEN, whose name is a keyword here
  next h t c => exact keepsRoom_execOpen s h t c

/-- A nanosecond with nothing commanded starts no command: an opcode of no row is rejected as it is read (R379). -/
theorem outstanding_rejectUnknown_le (s : State) : outstanding (rejectUnknown s) ≤ outstanding s := by
  unfold rejectUnknown
  split
  case h_1 => exact Nat.le_refl _
  case h_2 p _ =>
    refine outstanding_ite_le (outstanding_stopped_le s p.src _) ?_
    exact Nat.le_trans (post_follows _ _ _ _ _ _ _).room (takeSlots_follows s p).room

theorem outstanding_tickBases_le (s : State) : outstanding (tickBases s) ≤ outstanding s :=
  Nat.le_trans (outstanding_onHearths_le _ _ _) (outstanding_foldl_updH_le _ _ _)

theorem outstanding_tick_le (s : State) : outstanding (tick s) ≤ outstanding s :=
  Nat.le_trans (Nat.le_trans (settle_follows _).room (outstanding_rejectUnknown_le _)) (outstanding_tickBases_le _)

/-- Every step keeps the room. -/
theorem keepsRoom_step (s : State) : KeepsRoom s (step s) := by
  unfold step
  split
  case h_1 => exact keepsRoom_nextOf (outstanding_tick_le s)
  case h_2 c rest _ => exact keepsRoom_exec c { s with pending := rest }

/-- Settles O59: every step keeps the room, since a command that R405 counts starts only below 256, and at 256 a ring whose next
command is no launch offers the mantel none. -/
theorem startedCommandsHaveRoom : Obligations.StartedCommandsHaveRoom := by
  refine ⟨fun s t hs ht => keepsRoom_step s hs t ht, fun s p n code hfull hring hlaunch => ?_⟩
  have hwaits : startable s code p = false := startable_of_not_ringReady s code n p hring (ringReady_of_full hfull hlaunch)
  refine ⟨hwaits, fun c run hc => ?_⟩
  subst hc
  exact submit_waits s p c run hwaits

end Sys2Proof.Machine

/-! The alarm (R461, R463). An operation that `Follows` keeps ALARM and the pins, and so does every other that a module in ALARM
can reach: a command that Table 12-9 does not allow in ALARM is rejected before its effect, MODULE_WARM_RESET among them, and
what boots the module asks for another state or another pin. -/

namespace Sys2Proof.Machine

/-! ### The alarm raised -/

/-- A source raises the alarm, leaves power as it was and sets its own bit of SOURCES (R461, Table 14-10). -/
theorem raiseAlarm_raises (s : State) (src : AlarmSource) :
    (raiseAlarm s src).mod = .alarm ∧ (raiseAlarm s src).power = s.power ∧
      (raiseAlarm s src).trust.sources = s.trust.sources ||| BitVec.ofNat 5 (2 ^ alarmBit src) := by
  unfold raiseAlarm
  extract_lets sources first trust raised blown told
  have hraised : raised.mod = .alarm ∧ raised.power = s.power ∧ raised.trust.sources = sources := ⟨rfl, rfl, rfl⟩
  have hblown : blown.mod = .alarm ∧ blown.power = s.power ∧ blown.trust.sources = sources := by
    dsimp only [blown]
    split <;> exact hraised
  have htold : told.mod = .alarm ∧ told.power = s.power ∧ told.trust.sources = sources := by
    dsimp only [told]
    split
    · rwa [onHearths_mod, onHearths_power, onHearths_trust]
    · exact hblown
  split <;> exact htold

/-- Without POLICY_SET no source blows KILL (R463). -/
theorem raiseAlarm_fuses_of_not_policySet (s : State) (src : AlarmSource) (h : s.fuses.policySet = false) :
    (raiseAlarm s src).fuses = s.fuses := by
  unfold raiseAlarm
  extract_lets sources first trust raised blown told
  have hblown : blown.fuses = s.fuses := by
    dsimp only [blown]
    rw [if_neg (by simp only [raised, h, Bool.false_eq_true, and_false, not_false_eq_true])]
  have htold : told.fuses = s.fuses := by
    dsimp only [told]
    split
    · rwa [onHearths_fuses]
    · exact hblown
  split <;> exact htold

/-- A source of the alarm in a module that is on and not held in reset (R461). -/
theorem exec_alarm (s : State) (src : AlarmSource) (hon : s.power.mantelOn = true) (hperst : s.power.perst = false) :
    exec (.alarm src) s = .next (settle (raiseAlarm s src)) := by
  change done (if s.power.mantelOn ∧ !s.power.perst then raiseAlarm s src else s) = _
  simp only [hon, hperst, Bool.not_false, and_self, if_true]
  rfl

/-! ### The alarm kept by the shared operations -/

section
variable {s t : State}

theorem AlarmHeld.mod (hs : AlarmHeld s) : s.mod = .alarm := hs.1

theorem AlarmHeld.perst (hs : AlarmHeld s) : s.power.perst = false := hs.2.1

theorem AlarmHeld.inputOk (hs : AlarmHeld s) : s.power.inputOk = true := hs.2.2

/-- The alarm is a matter of the module's state and of two pins. -/
theorem AlarmHeld.congr (hs : AlarmHeld s) (hmod : t.mod = s.mod) (hpower : t.power = s.power) : AlarmHeld t := by
  unfold AlarmHeld
  rwa [hmod, hpower]

protected theorem AlarmHeld.follows (hs : AlarmHeld s) (h : Follows s t) : AlarmHeld t :=
  ⟨h.alarm.2 hs.mod, h.perst.trans hs.perst, h.inputOk.trans hs.inputOk⟩

protected theorem AlarmHeld.ite {c : Prop} [Decidable c] (hs : AlarmHeld s) (ht : AlarmHeld t) :
    AlarmHeld (if c then s else t) := by
  split <;> assumption

protected theorem AlarmHeld.foldl {α : Type} {f : State → α → State} {l : List α} (hs : AlarmHeld s)
    (hf : ∀ s x, AlarmHeld s → AlarmHeld (f s x)) : AlarmHeld (l.foldl f s) :=
  List.foldlRecOn l f hs fun s hs x _ => hf s x hs

protected theorem AlarmHeld.putH {h : Nat} {x : Hearth} (hs : AlarmHeld s) : AlarmHeld (putH s h x) :=
  hs.follows (putH_follows _ _ _)

protected theorem AlarmHeld.updH {h : Nat} {f : Hearth → Hearth} (hs : AlarmHeld s) : AlarmHeld (updH s h f) :=
  hs.follows (updH_follows _ _ _)

protected theorem AlarmHeld.onHearth {h : Nat} {f : Env → Hearth → Hearth} (hs : AlarmHeld s) :
    AlarmHeld (onHearth s h f) :=
  hs.follows (onHearth_follows _ _ _)

protected theorem AlarmHeld.onHearths {l : List Nat} {f : Env → Hearth → Hearth} (hs : AlarmHeld s) :
    AlarmHeld (onHearths s l f) :=
  hs.follows (onHearths_follows _ _ _)

protected theorem AlarmHeld.logAll {cls path syn : Nat} {det : BitVec 2048} (hs : AlarmHeld s) :
    AlarmHeld (logAll s cls path syn det) :=
  hs.follows (logAll_follows _ _ _ _ _)

protected theorem AlarmHeld.finish {id : Nat} {st : Status} {det r0 r1 : Nat} {two : Option (Nat × Nat × Nat × Nat)}
    (hs : AlarmHeld s) : AlarmHeld (finish s id st det r0 r1 two) :=
  hs.follows (finish_follows _ _ _ _ _ _ _)

protected theorem AlarmHeld.setWait {id : Nat} {w : Wait} (hs : AlarmHeld s) : AlarmHeld (setWait s id w) :=
  hs.follows (setWait_follows _ _ _)

protected theorem AlarmHeld.settle (hs : AlarmHeld s) : AlarmHeld (settle s) := hs.follows (settle_follows _)

/-! ### The host port's registers (chapter 11) -/

protected theorem AlarmHeld.doorbell {n : Nat} {v : W64} (hs : AlarmHeld s) : AlarmHeld (doorbell n v s) :=
  hs.ite (AlarmHeld.ite hs hs)

protected theorem AlarmHeld.cqHead {n : Nat} {v : W64} (hs : AlarmHeld s) : AlarmHeld (cqHead n v s) :=
  AlarmHeld.ite hs hs

protected theorem AlarmHeld.sqSize {n : Nat} {v : W64} (hs : AlarmHeld s) : AlarmHeld (sqSize n v s) :=
  AlarmHeld.ite hs (AlarmHeld.ite hs (AlarmHeld.ite hs hs))

protected theorem AlarmHeld.cqSize {n : Nat} {v : W64} (hs : AlarmHeld s) : AlarmHeld (cqSize n v s) :=
  AlarmHeld.ite hs (AlarmHeld.ite hs (AlarmHeld.ite hs hs))

protected theorem AlarmHeld.capWrite {v : W64} (hs : AlarmHeld s) : AlarmHeld (capWrite v s) :=
  AlarmHeld.ite (AlarmHeld.ite (AlarmHeld.onHearths hs) hs) hs

protected theorem AlarmHeld.biasSet {n : Nat} {v : W64} (hs : AlarmHeld s) : AlarmHeld (biasSet n v s) :=
  AlarmHeld.ite hs hs

protected theorem AlarmHeld.clearHealth (hs : AlarmHeld s) : AlarmHeld (clearHealth s) :=
  hs.onHearths.congr rfl rfl

/-- A write of a ring pair's registers. -/
protected theorem AlarmHeld.ringWrite {n r : Nat} {v : W64} (hs : AlarmHeld s) : AlarmHeld (ringWrite n r v s) := by
  unfold ringWrite
  split
  · exact hs.ite hs
  · exact hs.sqSize
  · exact hs.doorbell
  · exact hs.ite hs
  · exact hs.cqSize
  · exact hs.cqHead
  · exact hs

protected theorem AlarmHeld.regWrite {off : Nat} {v : W64} (hs : AlarmHeld s) : AlarmHeld (regWrite off v s) := by
  by_cases hring : 0x3000 ≤ off ∧ off < 0x3200
  · rw [show off = 0x3000 + 0x40 * ((off - 0x3000) / 0x40) + (off - 0x3000) % 0x40 by omega,
      regWrite_ring s _ _ v (by omega) (by omega)]
    exact hs.ringWrite
  · unfold regWrite
    rw [if_neg hring]
    exact AlarmHeld.ite hs (hs.capWrite.ite (AlarmHeld.ite hs (AlarmHeld.ite hs (AlarmHeld.ite hs (hs.biasSet.ite hs)))))

protected theorem AlarmHeld.decoderWrite {d o v : Nat} (hs : AlarmHeld s) : AlarmHeld (decoderWrite d o v s) := by
  unfold decoderWrite
  dsimp only
  split
  · exact hs
  · split
    · exact hs
    · split <;> exact hs

protected theorem AlarmHeld.cxlWrite {off v : Nat} (hs : AlarmHeld s) : AlarmHeld (cxlWrite off v s) :=
  hs.ite (AlarmHeld.ite (hs.ite (hs.decoderWrite.ite hs)) hs)

/-! ### Power, units and faults (chapters 13 and 15) -/

protected theorem AlarmHeld.mantelFail {unit : Nat} (hs : AlarmHeld s) : AlarmHeld (mantelFail s unit) := hs.onHearths

protected theorem AlarmHeld.restored {h : Nat} {u : UnitSel} (hs : AlarmHeld s) : AlarmHeld (restored s h u) := by
  unfold restored
  extract_lets flash kept
  have hkept : AlarmHeld kept := AlarmHeld.ite hs hs
  exact AlarmHeld.onHearth hkept

protected theorem AlarmHeld.returnUnits {h : Nat} (hs : AlarmHeld s) : AlarmHeld (returnUnits s h) := by
  refine hs.foldl fun s _ hs => ?_
  unfold returnUnit
  dsimp only
  split
  · exact hs
  · exact hs.updH.restored.finish.ite hs.updH.finish

protected theorem AlarmHeld.memoryGoesOn {h : Nat} (hs : AlarmHeld s) : AlarmHeld (memoryGoesOn s h) :=
  (hs.updH.follows (retireAll_follows _ _ _)).returnUnits

protected theorem AlarmHeld.failPair (hs : AlarmHeld s) : AlarmHeld (failPair s) := by
  unfold failPair
  extract_lets pair logged
  have hlogged : AlarmHeld logged := AlarmHeld.logAll hs
  exact AlarmHeld.ite hlogged hlogged

/-- A further source leaves the alarm in force. -/
protected theorem AlarmHeld.raiseAlarm {src : AlarmSource} (hs : AlarmHeld s) : AlarmHeld (raiseAlarm s src) := by
  obtain ⟨hmod, hpower, -⟩ := raiseAlarm_raises s src
  exact hs.congr (hmod.trans hs.mod.symm) hpower

protected theorem AlarmHeld.bootReady {h : Nat} {fw : FwImage} (hs : AlarmHeld s) : AlarmHeld (bootReady s h fw) :=
  hs.updH.congr rfl rfl

/-! ### Links and cells (chapter 9) -/

protected theorem AlarmHeld.sendWord {h k : Nat} (hs : AlarmHeld s) : AlarmHeld (sendWord s h k) := hs.updH

theorem AlarmHeld.of_takeWord {h k : Nat} {w : BitVec 20} (hs : AlarmHeld s) (ht : takeWord s h k w = some t) :
    AlarmHeld t := by
  unfold takeWord at ht
  split at ht
  · cases ht
  · split at ht
    · cases ht
      exact hs.sendWord
    · split at ht <;> cases ht
      exact hs.sendWord

protected theorem AlarmHeld.linkDown {h k : Nat} (hs : AlarmHeld s) : AlarmHeld (linkDown s h k) :=
  hs.updH.updH.ite hs.updH

protected theorem AlarmHeld.discard {h : Nat} (hs : AlarmHeld s) : AlarmHeld (discard s h) := hs.updH

theorem AlarmHeld.of_takeOff {h k : Nat} {c : Cell} (hs : AlarmHeld s) (ht : takeOff s h k c = some t) : AlarmHeld t := by
  unfold takeOff at ht
  dsimp only at ht
  split at ht
  · cases ht
  split at ht
  · cases ht
    exact hs.putH
  split at ht
  · cases ht
  split at ht
  · cases ht
    exact hs.updH
  split at ht <;> cases ht
  exact hs.updH.updH

theorem AlarmHeld.of_arrive {row h k : Nat} {c : Cell} {b : Bool} (hs : AlarmHeld s)
    (ht : arrive row s h k c = some (t, b)) : AlarmHeld t := by
  unfold arrive at ht
  split at ht
  case h_1 => cases ht
  case h_2 taken htaken =>
    have hoff := hs.of_takeOff htaken
    dsimp only at ht
    split at ht
    · cases ht
    split at ht
    · cases ht
      exact hoff
    split at ht
    · cases ht
      exact hoff.discard
    split at ht <;> cases ht
    exact hoff

protected theorem AlarmHeld.childEnded {id i : Nat} {st : Status} {lost : Bool} (hs : AlarmHeld s) :
    AlarmHeld (childEnded s id i st lost) := by
  unfold childEnded
  extract_lets counted bad stopped
  have hcounted : AlarmHeld counted := hs.congr rfl rfl
  refine AlarmHeld.follows ?_ (tryPost_follows _ _ _)
  dsimp only [stopped]
  split
  · exact (hcounted.follows (abortTree_follows _ _)).ite hcounted
  · exact hcounted

protected theorem AlarmHeld.loseChildren {m d : Nat} (hs : AlarmHeld s) : AlarmHeld (loseChildren s m d) :=
  hs.foldl fun _ _ hs => hs.foldl fun _ _ hs => hs.childEnded.ite hs

protected theorem AlarmHeld.loseCopies {h m d : Nat} (hs : AlarmHeld s) : AlarmHeld (loseCopies s h m d) := by
  refine hs.foldl fun s x hs => ?_
  split
  · exact hs.finish.ite hs
  · exact hs

protected theorem AlarmHeld.losePeer {h i : Nat} (hs : AlarmHeld s) : AlarmHeld (losePeer s h i) := by
  have hlost := fun f => hs.onHearth (h := h) (f := f)
  exact (hlost _).ite ((hlost _).loseChildren.ite (hlost _)).loseCopies

protected theorem AlarmHeld.commandCell {h k : Nat} {c : Cell} (hs : AlarmHeld s) : AlarmHeld (commandCell s h k c) :=
  AlarmHeld.ite (hs.discard.ite hs) (AlarmHeld.ite hs hs.discard)

protected theorem AlarmHeld.completionCell {h : Nat} {c : Cell} (hs : AlarmHeld s) : AlarmHeld (completionCell s h c) := by
  unfold completionCell
  refine hs.ite ?_
  split
  · exact hs
  · split
    · exact hs
    · exact (hs.ite hs.onHearth).childEnded

protected theorem AlarmHeld.copyDone {m h n : Nat} (hs : AlarmHeld s) : AlarmHeld (copyDone s m h n) := by
  unfold copyDone
  split
  · exact hs.finish.ite hs.setWait
  · exact hs

theorem AlarmHeld.of_copyFault {m h a : Nat} (hs : AlarmHeld s) (ht : copyFault s m h a = some t) : AlarmHeld t := by
  obtain ⟨r, -, rfl⟩ := Option.map_eq_some_iff.1 ht
  exact hs.finish

protected theorem AlarmHeld.noticeCell {h : Nat} {c : Cell} (hs : AlarmHeld s) : AlarmHeld (noticeCell s h c) := by
  unfold noticeCell
  dsimp only
  split
  · exact hs.updH
  · exact hs.copyDone.ite hs.updH
  · split
    case h_1 t ht =>
      split at ht
      · exact hs.of_copyFault ht
      · cases ht
    case h_2 => exact hs.onHearth
  · exact hs.onHearth
  · exact hs

protected theorem AlarmHeld.handOver {h k i : Nat} {c : Cell} (hs : AlarmHeld s) : AlarmHeld (handOver h k i s c) := by
  unfold handOver
  split
  · exact hs.updH
  · exact hs.onHearth
  · exact hs.commandCell
  · exact hs.completionCell
  · exact hs.updH
  · exact hs.updH
  · exact hs.noticeCell
  · exact hs.onHearth

protected theorem AlarmHeld.forwardSecond {m d h : Nat} (hs : AlarmHeld s) : AlarmHeld (forwardSecond s m d h) := by
  unfold forwardSecond
  extract_lets th hh l p lost n sent moved
  have hmoved : AlarmHeld moved := AlarmHeld.updH (hs.foldl fun _ _ hs => hs.updH)
  exact hs.ite (hmoved.onHearth.ite hmoved)

protected theorem AlarmHeld.sendTelemetry {m d : Nat} (hs : AlarmHeld s) : AlarmHeld (sendTelemetry s m d) :=
  hs.ite hs.updH

/-! ### Firmware and attestation (chapter 14) -/

protected theorem AlarmHeld.nextTarget {a : Activation} {rest : List Nat} {sw : W16} (hs : AlarmHeld s) :
    AlarmHeld (nextTarget s a rest sw) :=
  AlarmHeld.ite (AlarmHeld.finish hs) hs

protected theorem AlarmHeld.attestNow {id addr : Nat} {nonce : BitVec 256} (hs : AlarmHeld s) :
    AlarmHeld (attestNow s id addr nonce) := by
  unfold attestNow
  extract_lets reserved
  have hreserved : AlarmHeld reserved := AlarmHeld.ite hs hs
  refine hs.finish.ite (hs.finish.ite (hs.finish.ite (hs.finish.ite ?_)))
  exact AlarmHeld.follows (s := { reserved with trust := { reserved.trust with next := reserved.trust.next + 1 } })
    hreserved (reportAndFinish_follows _ _ _ _ _ _ _ _)

protected theorem AlarmHeld.serveAttests (hs : AlarmHeld s) : AlarmHeld (serveAttests s) := by
  refine hs.foldl fun s x hs => ?_
  split
  · exact hs.attestNow
  · exact hs

/-! ### Submitting a command in ALARM -/

/-- In ALARM a command that Table 12-9 does not allow there fails the first of its checks. -/
theorem checks_of_alarm {c : CmdSpec} (p : Pkt) (past : Bool) (hmod : s.mod = .alarm) (hc : c.alarm = false) :
    checks s c p past = some (.alarmLocked, sourcesOf s) := by
  simp only [checks, hmod, hc, Bool.not_false, and_self, if_true]

protected theorem AlarmHeld.begun {c : CmdSpec} {p : Pkt} (hs : AlarmHeld s) : AlarmHeld (begun s c p) := by
  obtain ⟨-, -, -, hmod, hperst, hinput, -, -⟩ := begun_keeps s c p
  exact ⟨hmod.2 hs.mod, hperst.trans hs.perst, hinput.trans hs.inputOk⟩

/-- A ring read outside its window stops the ring. -/
theorem AlarmHeld.stopped {src : Src} {addr : Nat → Nat} (hs : AlarmHeld s) :
    AlarmHeld (match ringOf src with | some n => stopRing (blocked s none (addr n)) n 4 | none => s) := by
  split
  · exact (hs.follows (blocked_follows _ _ _)).congr rfl rfl
  · exact hs

/-- Submitting a command keeps the alarm, where the effects of the commands that Table 12-9 allows in ALARM keep it. -/
protected theorem AlarmHeld.submit {p : Pkt} {c : CmdSpec} {run : Nat → State → State}
    (hrun : c.alarm = true → ∀ id t, AlarmHeld t → AlarmHeld (run id t)) (hs : AlarmHeld s) :
    AlarmHeld (submit s p c run) := by
  cases hstart : startable s c.code p with
  | false => rwa [submit_waits s p c run hstart]
  | true =>
    cases hwin : slotsInWindow s p with
    | false =>
      unfold submit
      simp only [hstart, hwin, Bool.not_true, Bool.not_false, Bool.false_eq_true, if_true, if_false]
      exact hs.stopped
    | true =>
      have htaken : AlarmHeld (takeSlots s p) := hs.follows (takeSlots_follows s p)
      cases hcheck : checks (takeSlots s p) c p (overruns s p) with
      | some r =>
        rw [submit_rejected s p c run r.1 r.2 hstart hwin hcheck]
        exact htaken.follows (post_follows _ _ _ _ _ _ _)
      | none =>
        rw [submit_accepted s p c run ⟨hstart, hwin, hcheck⟩]
        cases hc : c.alarm with
        | false => rw [checks_of_alarm p _ htaken.mod hc] at hcheck; cases hcheck
        | true => exact hrun hc _ _ hs.begun

/-! ### The outcome of a step -/

/-- Where the outcome is a next state, the alarm is in force there. -/
def AlarmAfter (o : Host.Outcome State Fault Refusal) : Prop := ∀ t, o = .next t → AlarmHeld t

theorem alarmAfter_nextOf (ht : AlarmHeld t) : AlarmAfter (nextOf t) := by
  intro u hu
  cases hu
  exact ht

theorem alarmAfter_done (ht : AlarmHeld t) : AlarmAfter (done t) := alarmAfter_nextOf ht.settle

theorem alarmAfter_hearthEvent {h : Nat} {f : Env → Hearth → Hearth} (hs : AlarmHeld s) : AlarmAfter (hearthEvent s h f) :=
  alarmAfter_done hs.onHearth

theorem alarmAfter_ite {c : Prop} [Decidable c] {a b : Host.Outcome State Fault Refusal} (ha : AlarmAfter a)
    (hb : AlarmAfter b) : AlarmAfter (if c then a else b) := by
  split <;> assumption

section
variable {p : Pkt} {c : CmdSpec} {run : Nat → State → State}

/-- A command that Table 12-9 does not allow in ALARM, whatever its effect. -/
theorem AlarmHeld.submit_locked (hc : c.alarm = false) (hs : AlarmHeld s) : AlarmHeld (submit s p c run) :=
  hs.submit fun h => absurd h (by rw [hc]; exact Bool.false_ne_true)

theorem alarmAfter_nextOf_locked (hc : c.alarm = false) (hs : AlarmHeld s) : AlarmAfter (nextOf (submit s p c run)) :=
  alarmAfter_nextOf (hs.submit_locked hc)

theorem alarmAfter_done_locked (hc : c.alarm = false) (hs : AlarmHeld s) : AlarmAfter (done (submit s p c run)) :=
  alarmAfter_done (hs.submit_locked hc)

end
end

/-! ### Command packets (chapter 12) -/

section
variable {s : State} {p : Pkt} (hs : AlarmHeld s)
include hs

/-- PAD completes as it is read, in ALARM too (R378). -/
theorem alarmAfter_execPad : AlarmAfter (execPad p s) := by
  have htaken : AlarmHeld (takeSlots s p) := hs.follows (takeSlots_follows s p)
  exact alarmAfter_nextOf (hs.ite (hs.stopped.ite ((htaken.follows (post_follows _ _ _ _ _ _ _)).ite htaken)))

theorem alarmAfter_execIdentify : AlarmAfter (execIdentify p s) :=
  alarmAfter_nextOf (hs.submit fun _ _ _ ht => ht.finish)

theorem alarmAfter_execGetHealth : AlarmAfter (execGetHealth p s) :=
  alarmAfter_nextOf <| hs.submit fun _ _ _ ht => AlarmHeld.follows (ht.clearHealth.foldl fun _ _ ht => ht.updH)
    (reportAndFinish_follows _ _ _ _ _ _ _ _)

theorem alarmAfter_execReadSignatures : AlarmAfter (execReadSignatures p s) :=
  alarmAfter_nextOf <| hs.submit fun _ _ _ ht => ht.follows (reportAndFinish_follows _ _ _ _ _ _ _ _)

theorem alarmAfter_execSetShares : AlarmAfter (execSetShares p s) := by
  unfold execSetShares
  dsimp only
  exact alarmAfter_ite (alarmAfter_nextOf hs) (alarmAfter_done_locked rfl hs)

protected theorem AlarmHeld.preemptWith : AlarmHeld (preemptWith p s) := (hs.submit_locked rfl).settle

/-! ### Events at the host port and of power (chapters 11 and 15) -/

theorem alarmAfter_execRegisterWrite {offset size : Nat} {v : W64} : AlarmAfter (execRegisterWrite offset size v s) :=
  alarmAfter_nextOf (hs.ite (hs.cxlWrite.ite (hs.cxlWrite.cxlWrite.ite (hs.regWrite.ite (hs.regWrite.ite hs)))))

theorem alarmAfter_execCxlMemRead {dpa : Nat} : AlarmAfter (execCxlMemRead dpa s) := by
  refine alarmAfter_ite (alarmAfter_nextOf hs) ?_
  extract_lets da hole
  split
  · exact alarmAfter_done (hs.updH.congr (s := hole) rfl rfl)
  · split
    extract_lets read
    exact alarmAfter_done (hs.putH.congr (s := read) rfl rfl)

theorem alarmAfter_execCxlMemWrite {dpa : Nat} {data : BitVec 512} {mask : W64} :
    AlarmAfter (execCxlMemWrite dpa data mask s) := by
  refine alarmAfter_ite (alarmAfter_nextOf hs) ?_
  extract_lets da
  split <;> exact alarmAfter_done hs.updH

/-- POWER_UP asks for an input that was out of range. -/
theorem alarmAfter_execPowerUp : AlarmAfter (execPowerUp s) := by
  refine alarmAfter_nextOf ?_
  rw [if_pos hs.inputOk]
  exact hs

/-- PERST_RELEASE asks for a module held in reset. -/
theorem alarmAfter_execPerstRelease : AlarmAfter (execPerstRelease s) := by
  refine alarmAfter_nextOf ?_
  rw [if_neg (by simp only [hs.perst, Bool.false_eq_true, and_false, not_false_eq_true])]
  exact hs

/-- PERST_WAIT_EXPIRY does not boot a module in ALARM (R463). -/
theorem alarmAfter_execPerstWaitExpiry : AlarmAfter (execPerstWaitExpiry s) := by
  refine alarmAfter_nextOf ?_
  rw [if_neg fun ⟨_, _, hmod⟩ => hmod hs.mod]
  exact hs

/-- MODULE_FIRMWARE_START asks for a module in BOOT. -/
theorem alarmAfter_execModuleFirmwareStart : AlarmAfter (execModuleFirmwareStart s) := by
  refine alarmAfter_done ?_
  split
  · exact hs
  · rw [if_pos (.inl (by rw [hs.mod]; decide))]
    exact hs

/-- The mantel shares tokens out hearth by hearth (R474, R475). -/
theorem alarmAfter_execTokenShare {demand : List Nat} : AlarmAfter (execTokenShare demand s) := by
  refine alarmAfter_nextOf (hs.ite ?_)
  extract_lets hs' dem back reported pool target
  have hreported : AlarmHeld reported := hs.onHearths
  clear_value reported
  split
  split
  case _ granted rest hgranted =>
    have hfold : AlarmHeld (granted, rest).1 := by
      rw [← hgranted]
      refine List.foldlRecOn (motive := fun a : State × Nat => AlarmHeld a.1) _ _ hreported fun a ha h _ => ?_
      dsimp only
      split <;> exact ha.updH
    exact hfold

theorem alarmAfter_execHearthBootComplete {h : Nat} {ok : Bool} : AlarmAfter (execHearthBootComplete h ok s) := by
  refine alarmAfter_done (hs.ite ?_)
  extract_lets waiting ended
  have hended : AlarmHeld ended := hs.updH
  clear_value ended waiting
  split
  · extract_lets fused ready
    have hfused : AlarmHeld fused := hended
    have hready : AlarmHeld ready := hfused.bootReady
    clear_value ready
    split
    · exact hready.restored.finish
    · exact hready
  · split
    · exact (hended.follows (returnTokens_follows _ _)).updH.finish
    · exact hended.updH

/-! ### Units and faults (chapter 13) -/

theorem alarmAfter_execRestoreTestComplete {h : Nat} {pass : Bool} : AlarmAfter (execRestoreTestComplete h pass s) := by
  refine alarmAfter_done ?_
  split
  · exact hs
  · exact hs.ite (hs.updH.updH.returnUnits.ite hs.updH.finish)

theorem alarmAfter_execReshapeComplete {h : Nat} : AlarmAfter (execReshapeComplete h s) := by
  refine alarmAfter_done ?_
  split
  · exact hs
  · exact AlarmHeld.memoryGoesOn (AlarmHeld.onHearth hs)

theorem alarmAfter_execControlMismatch {h : Nat} {u : CtrlUnit} {inRetry : Bool} :
    AlarmAfter (execControlMismatch h u inRetry s) := by
  refine alarmAfter_done ?_
  split
  · extract_lets bucket perm counted r logged
    have hcounted : AlarmHeld counted := hs
    have hlogged : AlarmHeld logged := hcounted.onHearths
    exact hs.ite (hlogged.failPair.ite hlogged)
  · exact hs.onHearth

/-! ### Links and cells (chapter 9) -/

section
variable {h k : Nat} {c : Cell}

theorem alarmAfter_execLinkCreditReturn {w : BitVec 20} : AlarmAfter (execLinkCreditReturn h k w s) := by
  refine alarmAfter_ite (alarmAfter_nextOf hs) ?_
  split
  case h_1 => exact alarmAfter_nextOf hs
  case h_2 t ht => exact alarmAfter_done (hs.of_takeWord ht).updH

theorem alarmAfter_execResyncReport {w : BitVec 20} : AlarmAfter (execResyncReport h k w s) := by
  refine alarmAfter_ite (alarmAfter_nextOf hs) ?_
  split
  case h_1 => exact alarmAfter_nextOf hs
  case h_2 t ht => exact alarmAfter_done (hs.of_takeWord ht).updH

theorem alarmAfter_execCodewordUncorrectable {cells : Nat} : AlarmAfter (execCodewordUncorrectable h k cells s) :=
  alarmAfter_ite (alarmAfter_nextOf hs) (alarmAfter_ite (alarmAfter_done hs.updH) (alarmAfter_done hs.updH.updH))

theorem alarmAfter_execFlueRefclkHoldoverExpiry : AlarmAfter (execFlueRefclkHoldoverExpiry s) :=
  alarmAfter_ite (alarmAfter_nextOf hs)
    (alarmAfter_done (AlarmHeld.foldl hs fun _ _ hs => hs.foldl fun _ _ hs => hs.linkDown))

/-- A sequenced cell that arrives is handed over with those it releases (R295). -/
theorem alarmAfter_seqCell {row : Nat} : AlarmAfter (seqCell row h k c s) := by
  unfold seqCell
  split
  case h_1 => exact alarmAfter_nextOf hs
  case h_2 t ht => exact alarmAfter_done (hs.of_arrive ht)
  case h_3 t ht => exact alarmAfter_done ((hs.of_arrive ht).putH.foldl fun _ _ hs => hs.handOver)

theorem alarmAfter_ackCell {row : Nat} {f : State → Nat → Nat → Nat → State}
    (hf : ∀ a i m d, AlarmHeld a → AlarmHeld (f a i m d)) : AlarmAfter (ackCell row h k c s f) := by
  unfold ackCell
  split
  case h_1 => exact alarmAfter_nextOf hs
  case h_2 t ht => exact alarmAfter_done (hs.of_arrive ht)
  case h_3 t ht => exact alarmAfter_done (hf _ _ _ _ (hs.of_arrive ht))

theorem alarmAfter_execAck : AlarmAfter (execAck h k c s) := alarmAfter_ackCell hs fun _ _ _ _ ha => ha.updH

theorem alarmAfter_execNack : AlarmAfter (execNack h k c s) := alarmAfter_ackCell hs fun _ _ _ _ ha => ha.updH

theorem alarmAfter_execOpen : AlarmAfter (execOpen h k c s) := alarmAfter_ackCell hs fun _ _ _ _ ha => ha.updH

theorem alarmAfter_execOpenAck : AlarmAfter (execOpenAck h k c s) := alarmAfter_ackCell hs fun _ _ _ _ ha => ha.updH

theorem alarmAfter_execReset : AlarmAfter (execReset h k c s) := alarmAfter_ackCell hs fun _ _ _ _ ha => ha.losePeer.ite ha

theorem alarmAfter_execTransitCell : AlarmAfter (execTransitCell h k c s) := by
  unfold execTransitCell
  split
  case h_1 => exact alarmAfter_nextOf hs
  case h_2 t ht =>
    have hoff := hs.of_takeOff ht
    refine alarmAfter_ite (alarmAfter_nextOf hs) (alarmAfter_ite (alarmAfter_done hoff) ?_)
    extract_lets own
    split
    · exact alarmAfter_done hoff.discard
    · exact alarmAfter_done hoff.updH

theorem alarmAfter_execTimeQuery : AlarmAfter (execTimeQuery h k c s) := by
  unfold execTimeQuery
  split
  case h_1 => exact alarmAfter_nextOf hs
  case h_2 t ht => exact alarmAfter_done (hs.of_arrive ht)
  case h_3 t ht =>
    have harrived := hs.of_arrive ht
    exact alarmAfter_ite (alarmAfter_done harrived) (alarmAfter_done harrived.updH)

theorem alarmAfter_execTimeAnswer : AlarmAfter (execTimeAnswer h k c s) := by
  unfold execTimeAnswer
  split
  case h_1 => exact alarmAfter_nextOf hs
  case h_2 t ht => exact alarmAfter_done (hs.of_arrive ht)
  case h_3 t ht =>
    have harrived := hs.of_arrive ht
    exact alarmAfter_ite (alarmAfter_done harrived) (alarmAfter_done harrived)

end

theorem alarmAfter_execTimeExchangeTick : AlarmAfter (execTimeExchangeTick s) := by
  unfold execTimeExchangeTick
  split
  · exact alarmAfter_nextOf hs
  · exact alarmAfter_hearthEvent hs

theorem alarmAfter_execSignatureForwardTick : AlarmAfter (execSignatureForwardTick s) := by
  unfold execSignatureForwardTick
  split
  case h_1 => exact alarmAfter_nextOf hs
  case h_2 => exact alarmAfter_done (hs.foldl fun _ _ hs => hs.forwardSecond).sendTelemetry

/-! ### Images, steps and trust (chapters 6, 10 and 14) -/

theorem alarmAfter_execLoadComplete {h ns : Nat} : AlarmAfter (execLoadComplete h ns s) := by
  refine alarmAfter_done ?_
  split
  · exact hs
  · exact hs.putH.follows (loadPart_follows _ _ _ _ _ _)

theorem alarmAfter_execSlotFill {h cls : Nat} : AlarmAfter (execSlotFill h cls s) := by
  refine alarmAfter_ite (alarmAfter_nextOf hs) ?_
  split
  · exact alarmAfter_nextOf hs
  · split
    · exact alarmAfter_nextOf hs
    · exact alarmAfter_hearthEvent hs

theorem alarmAfter_execSaveComplete {h : Nat} : AlarmAfter (execSaveComplete h s) := by
  unfold execSaveComplete
  split
  · exact alarmAfter_nextOf hs
  · exact alarmAfter_ite (alarmAfter_nextOf hs) (alarmAfter_hearthEvent hs)

theorem alarmAfter_execFwSwitchComplete {ok : Bool} : AlarmAfter (execFwSwitchComplete ok s) := by
  unfold execFwSwitchComplete
  split
  · exact alarmAfter_nextOf hs
  · split
    · exact alarmAfter_nextOf hs
    · refine alarmAfter_ite (alarmAfter_done (AlarmHeld.nextTarget hs)) (alarmAfter_ite (alarmAfter_nextOf hs)
        (alarmAfter_ite ?_ (alarmAfter_hearthEvent hs)))
      exact alarmAfter_done (AlarmHeld.nextTarget (hs.updH.congr rfl rfl))

theorem alarmAfter_execIdentityEngineFailure : AlarmAfter (execIdentityEngineFailure s) :=
  alarmAfter_done (hs.ite (AlarmHeld.serveAttests (AlarmHeld.mantelFail (hs.congr rfl rfl))))

/-- IDENTITY_ENGINE_START does nothing in ALARM. -/
theorem alarmAfter_execIdentityEngineStart {writeOk : Bool} : AlarmAfter (execIdentityEngineStart writeOk s) := by
  unfold execIdentityEngineStart
  rw [if_pos (.inr (.inr (.inr (.inl hs.mod))))]
  exact alarmAfter_nextOf hs

theorem alarmAfter_execJtagInstruction {die ir : Nat} : AlarmAfter (execJtagInstruction die ir s) :=
  alarmAfter_ite (alarmAfter_nextOf hs) (alarmAfter_ite (alarmAfter_nextOf hs)
    (alarmAfter_done (hs.raiseAlarm.congr rfl rfl)))

theorem alarmAfter_execDebugAccessExpiry : AlarmAfter (execDebugAccessExpiry s) := by
  unfold execDebugAccessExpiry
  dsimp only
  split <;> exact alarmAfter_nextOf hs

end

/-! ### Every command -/

/-- Every command of the table but a module cold reset keeps the alarm: a packet by the first of its checks, an event since none
leaves ALARM or moves the pins (R463). -/
theorem alarmAfter_exec {s : State} (hs : AlarmHeld s) (i : Instr) (hi : coldResets i = false) : AlarmAfter (exec i s) := by
  cases i
  -- the module cold resets (Table 15-3)
  case perstAssert | inputOutOfRange | mantelOvertemp => exact Bool.noConfusion hi
  -- packets that Table 12-9 allows in ALARM, and PAD
  case pad => exact alarmAfter_execPad hs
  case identify => exact alarmAfter_execIdentify hs
  case getHealth => exact alarmAfter_execGetHealth hs
  case readSignatures => exact alarmAfter_execReadSignatures hs
  -- packets that it does not allow
  case nop | readCensus | clearSignatures => exact alarmAfter_nextOf_locked rfl hs
  case auditLedgers | fwStage | fwActivate | loadImage | dropImage | readLoadReport | launchStep | resumeStep | abortStep
      | saveState | restoreState | copy | fill | setClassPolicy | setRole | setRoutes | flueUp | flueDown | retireUnit
      | restoreUnit | resetHearth | moduleWarmReset | setPowerCap | attest | setAlarmPolicy | zeroize =>
    exact alarmAfter_done_locked rfl hs
  case setSharesRemove | syncTimeSet | syncTimeSlew | sampleStart | sampleStop | sampleRead | calibrationRead
      | calibrationWrite | calibrationReset | debugUnlockChallenge | debugUnlockResponse =>
    exact alarmAfter_ite (alarmAfter_nextOf hs) (alarmAfter_done_locked rfl hs)
  case setShares => exact alarmAfter_execSetShares hs
  case preemptStep => exact alarmAfter_nextOf (hs.ite hs.preemptWith)
  case preemptStepHalt | preemptStepSave => exact alarmAfter_nextOf (hs.preemptWith.ite hs)
  -- the host port's registers and memory
  case sqDoorbell => exact alarmAfter_nextOf (hs.doorbell.ite hs)
  case cqHeadWrite => exact alarmAfter_nextOf (hs.cqHead.ite hs)
  case sqEnable | sqDisable => exact alarmAfter_nextOf (hs.sqSize.ite hs)
  case cqEnable | cqDisable => exact alarmAfter_nextOf (hs.cqSize.ite hs)
  case powerCapWrite => exact alarmAfter_nextOf (hs.capWrite.ite hs)
  case biasWrite => exact alarmAfter_nextOf (hs.biasSet.ite hs)
  case healthRead => exact alarmAfter_nextOf (AlarmHeld.ite (hs.clearHealth.congr rfl rfl) (hs.congr rfl rfl))
  case registerWrite => exact alarmAfter_execRegisterWrite hs
  case cxlMemRead => exact alarmAfter_execCxlMemRead hs
  case cxlMemWrite => exact alarmAfter_execCxlMemWrite hs
  case hostBiasAccess => exact alarmAfter_ite (alarmAfter_done hs.updH) (alarmAfter_nextOf hs)
  -- events that write registers, answers or the mantel's own fields alone
  case hdmDecoderCommit | d3hotEntry | cxlLinkTraining | bootRomRingEngine | sensorUpdate | flueRefclkLoss | setEndpointId =>
    exact alarmAfter_nextOf (AlarmHeld.ite hs hs)
  case hotReset | d0Return | pcieRefclkLoss | dqsTracking | fruRead | mctpControl | pldmBase
      | getPdrRepositoryInfo | getPdr | getSensorReading | setNumericSensorEnable | challengeExpiry =>
    exact alarmAfter_nextOf (hs.congr rfl rfl)
  case flueRefclkReturn => exact alarmAfter_nextOf hs
  -- power and boot
  case powerUp => exact alarmAfter_execPowerUp hs
  case perstRelease => exact alarmAfter_execPerstRelease hs
  case perstWaitExpiry => exact alarmAfter_execPerstWaitExpiry hs
  case moduleFirmwareStart => exact alarmAfter_execModuleFirmwareStart hs
  case hearthPowerOn => exact alarmAfter_nextOf (hs.updH.ite hs)
  case hearthBootComplete => exact alarmAfter_execHearthBootComplete hs
  case tokenShare => exact alarmAfter_execTokenShare hs
  case chargeReport => exact alarmAfter_nextOf (hs.follows (reportCharges_follows _ _))
  case powerOvershoot => exact alarmAfter_nextOf (AlarmHeld.ite (AlarmHeld.onHearths hs) hs)
  case thermalCheck => exact alarmAfter_nextOf (hs.onHearth.ite hs.updH)
  case thermalShutdown => exact alarmAfter_done (AlarmHeld.ite (AlarmHeld.onHearth hs) hs)
  case clockStepChange => exact alarmAfter_nextOf (hs.onHearth.ite hs)
  -- units, faults, alarms and trust
  case restoreTestComplete => exact alarmAfter_execRestoreTestComplete hs
  case deferredRetirement => exact alarmAfter_done (hs.ite hs.memoryGoesOn)
  case reshapeComplete => exact alarmAfter_execReshapeComplete hs
  case bucketLeak => exact alarmAfter_nextOf (AlarmHeld.ite hs hs.updH)
  case sampleTick | perBankRefresh => exact alarmAfter_nextOf hs.updH
  case hearthFatal => exact alarmAfter_done (hs.onHearth.onHearths.ite hs.onHearth)
  case controlMismatch => exact alarmAfter_execControlMismatch hs
  case hostPortFail | commandProcessorsFail => exact alarmAfter_done (hs.ite (AlarmHeld.logAll hs))
  case failover => exact alarmAfter_done (hs.failPair.ite hs)
  case verificationEngineFailure => exact alarmAfter_done (hs.ite (AlarmHeld.mantelFail (hs.congr rfl rfl)))
  case powerControllerFailure | sidebandEndpointFailure => exact alarmAfter_nextOf (hs.ite (AlarmHeld.mantelFail hs))
  case alarm => exact alarmAfter_done (hs.raiseAlarm.ite hs)
  case jtagInstruction => exact alarmAfter_execJtagInstruction hs
  case debugAccessExpiry => exact alarmAfter_execDebugAccessExpiry hs
  case identityEngineStart => exact alarmAfter_execIdentityEngineStart hs
  case identityEngineFailure => exact alarmAfter_execIdentityEngineFailure hs
  case fwSwitchComplete => exact alarmAfter_execFwSwitchComplete hs
  -- links and cells
  case linkCreditReturn => exact alarmAfter_execLinkCreditReturn hs
  case eqRequest => exact alarmAfter_ite (alarmAfter_nextOf hs) (alarmAfter_done hs.sendWord.updH)
  case codewordUncorrectable => exact alarmAfter_execCodewordUncorrectable hs
  case resyncRequest => exact alarmAfter_ite (alarmAfter_nextOf hs) (alarmAfter_done (hs.sendWord.ite hs.sendWord).updH)
  case resyncReport => exact alarmAfter_execResyncReport hs
  case linkTrainingComplete => exact alarmAfter_ite (alarmAfter_nextOf hs) (alarmAfter_done (hs.updH.ite hs).updH)
  case flueDownDrainEnd => exact alarmAfter_ite (alarmAfter_done hs.linkDown) (alarmAfter_nextOf hs)
  case flueRefclkHoldoverExpiry => exact alarmAfter_execFlueRefclkHoldoverExpiry hs
  case transitCell => exact alarmAfter_execTransitCell hs
  case write | readReq | readReply | command | completion | syncArrive | syncRelease | combine | signature | telemetry | token
      | credit | writeDone | accessFault | dropped => exact alarmAfter_seqCell hs
  case ack => exact alarmAfter_execAck hs
  case nack => exact alarmAfter_execNack hs
  case openAck => exact alarmAfter_execOpenAck hs
  case reset => exact alarmAfter_execReset hs
  case resendTimeout =>
    exact alarmAfter_ite (alarmAfter_nextOf hs) (alarmAfter_ite (alarmAfter_done hs.losePeer) (alarmAfter_done hs.updH))
  case timeExchangeTick => exact alarmAfter_execTimeExchangeTick hs
  case timeUnlockExpiry => exact alarmAfter_ite (alarmAfter_done hs) (alarmAfter_nextOf hs)
  case timeQuery => exact alarmAfter_execTimeQuery hs
  case timeAnswer => exact alarmAfter_execTimeAnswer hs
  case signatureForwardTick => exact alarmAfter_execSignatureForwardTick hs
  -- images and steps
  case loadComplete => exact alarmAfter_execLoadComplete hs
  case slotFill => exact alarmAfter_execSlotFill hs
  case saveComplete => exact alarmAfter_execSaveComplete hs
  -- events of one hearth
  case cellInject | laneEvent | laneRetrainComplete | laneChange | linkTrainingTimeout | ackDelayExpiry | writeDoneTimer
      | damperLevelFall | scheduleSlotOpen | endpointTokenSend | putTag | getTag | contributeTag | endpointCombineSum
      | tokenArrival | tokenAdmit | streamCredit | combiningContribution | combiningSumComplete | mma | emit | wload | vfma
      | vbin | sfu | reduce | steer | move | syncOpArrive | syncOpWait | syncOpIncrement | syncOpDecrement | firingEnd
      | bankLoadComplete | hsyncBatch | syncGrantArrival | tagTimeout | syncWaitTimeout | progressCountTrip
      | spillRoundComplete | tileReset | contextChange | contextChangeComplete | stokerLoadTag | stokerStoreTag
      | stokerRelayBatch | stokerCopyTag | stokerTriggerTag | stokerWait | stokerPost | memoryRequest | memoryReadReply
      | writeAck | interfaceRetrain | patrolScrub | reshapeUnitMove | stepDispatch | stepStartComplete | classPreempt
      | haltComplete | restoreComplete | stepComplete | checkFlag | replayComplete | refereeComplete | scrubCfgVote
      | ceSummary | chimneyFault =>
    exact alarmAfter_hearthEvent hs
  -- the cell OPEN, whose name is a keyword here
  next => exact alarmAfter_execOpen hs

/-- A nanosecond with nothing commanded keeps the alarm: an opcode of no row is rejected as it is read (R379). -/
protected theorem AlarmHeld.rejectUnknown {s : State} (hs : AlarmHeld s) : AlarmHeld (rejectUnknown s) := by
  unfold rejectUnknown
  split
  · exact hs
  · exact hs.stopped.ite ((hs.follows (takeSlots_follows _ _)).follows (post_follows _ _ _ _ _ _ _))

protected theorem AlarmHeld.tick {s : State} (hs : AlarmHeld s) : AlarmHeld (tick s) := by
  have hbases : AlarmHeld (tickBases { s with time := tickTime (timeFor s) }) :=
    AlarmHeld.onHearths (AlarmHeld.foldl hs fun _ _ hs => hs.updH)
  exact hbases.rejectUnknown.settle

/-- Every step of a module in ALARM but a module cold reset keeps it in ALARM. -/
theorem alarmAfter_step {s : State} (hs : AlarmHeld s) (hnext : ∀ c rest, s.pending = c :: rest → coldResets c = false) :
    AlarmAfter (step s) := by
  unfold step
  split
  case h_1 => exact alarmAfter_nextOf hs.tick
  case h_2 c rest hc => exact alarmAfter_exec (s := { s with pending := rest }) hs c (hnext c rest hc)

/-- Settles O57: a source raises the alarm as `raiseAlarm` does and what follows at once leaves it; in ALARM a packet that could
leave it is rejected, and no event but a cold reset leaves it. -/
theorem alarmRisesAndHoldsUntilAColdReset : Obligations.AlarmRisesAndHoldsUntilAColdReset := by
  refine ⟨fun s src hon hperst => ?_, fun s t hs hnext ht => alarmAfter_step hs hnext t ht⟩
  obtain ⟨hmod, -, hsources⟩ := raiseAlarm_raises s src
  have hsettle := settle_follows (raiseAlarm s src)
  exact ⟨_, exec_alarm s src hon hperst, hsettle.alarm.2 hmod, hsettle.sources.trans hsources,
    fun hpolicy => hsettle.fuses.trans (raiseAlarm_fuses_of_not_policySet s src hpolicy)⟩

end Sys2Proof.Machine

/-! What no step changes or breaks: the queue behind the command in hand (R403), blown fuses and what manufacture wrote (R442),
and the canonical form of host memory and of the table of hearths. One relation, `Kept`, says all of it of a state and a later
one; an operation that `Follows` keeps it, and the lemmas here say it of every other operation of the module, up to `exec` and
`step`. -/

namespace Sys2Proof.Machine

/-! ### The relation -/

/-- State t comes from s with the queue as it was, no fuse unblown, and the canonical forms kept. -/
def Kept (s t : State) : Prop :=
  t.pending = s.pending ∧ BlownFrom s.fuses t.fuses ∧ (Memory.wf s.hostMem = true → Memory.wf t.hostMem = true) ∧
    (smapWf ({} : Hearth) s.hearths = true → smapWf ({} : Hearth) t.hearths = true)

theorem BlownFrom.refl (f : Fuses) : BlownFrom f f :=
  ⟨id, id, id, Nat.le_refl _, Nat.le_refl _, Nat.le_refl _, rfl, rfl, rfl, rfl, rfl, rfl, rfl⟩

theorem BlownFrom.trans {f g k : Fuses} (a : BlownFrom f g) (b : BlownFrom g k) : BlownFrom f k := by
  obtain ⟨kill, set, pol, help, rh, rm, w, ser, st, gr, oe, oh, rt⟩ := a
  obtain ⟨kill', set', pol', help', rh', rm', w', ser', st', gr', oe', oh', rt'⟩ := b
  exact ⟨kill' ∘ kill, set' ∘ set, pol' ∘ pol, Nat.le_trans help' help, Nat.le_trans rh rh', Nat.le_trans rm rm', w'.trans w,
    ser'.trans ser, st'.trans st, gr'.trans gr, oe'.trans oe, oh'.trans oh, rt'.trans rt⟩

/-- KILL and PUF_HELPER may be blown at any time (R460). -/
theorem blownFrom_blowKill (f : Fuses) : BlownFrom f (blowKill f) :=
  ⟨fun _ => rfl, id, id, Nat.zero_le _, Nat.le_refl _, Nat.le_refl _, rfl, rfl, rfl, rfl, rfl, rfl, rfl⟩

theorem blownFrom_finishKill (f : Fuses) : BlownFrom f (finishKill f) := by
  unfold finishKill
  split
  · exact ⟨id, id, id, Nat.zero_le _, Nat.le_refl _, Nat.le_refl _, rfl, rfl, rfl, rfl, rfl, rfl, rfl⟩
  · exact BlownFrom.refl f

/-- The alarm policy may be written (R460). -/
theorem blownFrom_policy (f : Fuses) (b : Bool) :
    BlownFrom f { f with policySet := true, policyKill := f.policyKill || b } :=
  ⟨id, fun _ => rfl, fun h => Bool.or_eq_true_iff.2 (.inl h), Nat.le_refl _, Nat.le_refl _, Nat.le_refl _, rfl, rfl, rfl, rfl,
    rfl, rfl, rfl⟩

/-- A rollback fuse may rise (R447). -/
theorem blownFrom_rollbackModule (f : Fuses) (n : Nat) (h : f.rollbackModule ≤ n) :
    BlownFrom f { f with rollbackModule := n } :=
  ⟨id, id, id, Nat.le_refl _, Nat.le_refl _, h, rfl, rfl, rfl, rfl, rfl, rfl, rfl⟩

theorem blownFrom_rollbackHearth (f : Fuses) (n : Nat) (h : f.rollbackHearth ≤ n) :
    BlownFrom f { f with rollbackHearth := n } :=
  ⟨id, id, id, Nat.le_refl _, h, Nat.le_refl _, rfl, rfl, rfl, rfl, rfl, rfl, rfl⟩

/-- An entry kept from a canonical table leaves it canonical. -/
theorem smapWfFrom_filter {α : Type} [DecidableEq α] (d : α) (q : Nat × α → Bool) (m : SMap α) (lo : Nat)
    (h : smapWfFrom d lo m = true) : smapWfFrom d lo (m.filter q) = true := by
  induction m generalizing lo with
  | nil => rfl
  | cons x t ih =>
    obtain ⟨a, v⟩ := x
    simp only [smapWfFrom, Bool.and_eq_true, decide_eq_true_eq] at h
    obtain ⟨⟨hlo, hv⟩, ht⟩ := h
    rw [List.filter_cons]
    split
    · simp only [smapWfFrom, Bool.and_eq_true, decide_eq_true_eq]
      exact ⟨⟨hlo, hv⟩, ih (a + 1) ht⟩
    · exact smapWfFrom_mono d _ (a + 1) lo (ih (a + 1) ht) (by omega)

namespace Kept

protected theorem refl (s : State) : Kept s s := ⟨rfl, BlownFrom.refl _, id, id⟩

protected theorem trans {s t u : State} (a : Kept s t) (b : Kept t u) : Kept s u := by
  obtain ⟨hp, hf, hm, hh⟩ := a
  obtain ⟨hp', hf', hm', hh'⟩ := b
  exact ⟨hp'.trans hp, hf.trans hf', hm' ∘ hm, hh' ∘ hh⟩

theorem of_follows {s t : State} (h : Follows s t) : Kept s t :=
  ⟨h.pending, by rw [h.fuses]; exact BlownFrom.refl _, h.mem, h.hearths⟩

/-! ### The shared operations

Each says: what `Kept` holds of s and t it still holds of s and of t after the operation. -/

section
variable {s t u : State}

protected theorem follows (k : Kept s t) (h : Follows t u) : Kept s u := k.trans (of_follows h)

/-- A state that is another in the four fields. -/
theorem congr (k : Kept s t) (hp : u.pending = t.pending) (hf : u.fuses = t.fuses) (hm : u.hostMem = t.hostMem)
    (hh : u.hearths = t.hearths) : Kept s u := by
  unfold Kept
  rw [hp, hf, hm, hh]
  exact k

/-- A change of the fuses alone. -/
theorem fuses {g : Fuses} (k : Kept s t) (h : BlownFrom t.fuses g) : Kept s { t with fuses := g } :=
  k.trans ⟨rfl, h, id, id⟩

protected theorem ite {c : Prop} [Decidable c] (ht : Kept s t) (hu : Kept s u) : Kept s (if c then t else u) := by
  split <;> assumption

protected theorem foldl {α : Type} {f : State → α → State} {l : List α} (k : Kept s t)
    (hf : ∀ b x, Kept s b → Kept s (f b x)) : Kept s (l.foldl f t) :=
  List.foldlRecOn l f k fun b hb x _ => hf b x hb

protected theorem putH {h : Nat} {x : Hearth} (k : Kept s t) : Kept s (putH t h x) := k.follows (putH_follows _ _ _)

protected theorem updH {h : Nat} {f : Hearth → Hearth} (k : Kept s t) : Kept s (updH t h f) := k.follows (updH_follows _ _ _)

protected theorem onHearth {h : Nat} {f : Env → Hearth → Hearth} (k : Kept s t) : Kept s (onHearth t h f) :=
  k.follows (onHearth_follows _ _ _)

protected theorem onHearths {l : List Nat} {f : Env → Hearth → Hearth} (k : Kept s t) : Kept s (onHearths t l f) :=
  k.follows (onHearths_follows _ _ _)

protected theorem hostWrite {a : Nat} {bs : List Byte} (k : Kept s t) : Kept s (hostWrite t a bs) :=
  k.follows (hostWrite_follows _ _ _)

protected theorem logAll {cls path syn : Nat} {det : BitVec 2048} (k : Kept s t) : Kept s (logAll t cls path syn det) :=
  k.follows (logAll_follows _ _ _ _ _)

protected theorem post {o : Origin} {st : Status} {det r0 r1 : Nat} {two : Option (Nat × Nat × Nat × Nat)} (k : Kept s t) :
    Kept s (post t o st det r0 r1 two) := k.follows (post_follows _ _ _ _ _ _ _)

protected theorem finish {id : Nat} {st : Status} {det r0 r1 : Nat} {two : Option (Nat × Nat × Nat × Nat)} (k : Kept s t) :
    Kept s (finish t id st det r0 r1 two) := k.follows (finish_follows _ _ _ _ _ _ _)

protected theorem reportAndFinish {id w : Nat} {bs : List Byte} {st : Status} {det r0 r1 : Nat} (k : Kept s t) :
    Kept s (reportAndFinish t id w bs st det r0 r1) := k.follows (reportAndFinish_follows _ _ _ _ _ _ _ _)

protected theorem setWait {id : Nat} {w : Wait} (k : Kept s t) : Kept s (setWait t id w) := k.follows (setWait_follows _ _ _)

protected theorem settle (k : Kept s t) : Kept s (settle t) := k.follows (settle_follows _)

/-! ### The host port's registers (chapter 11) -/

protected theorem doorbell {n : Nat} {v : W64} (k : Kept s t) : Kept s (doorbell n v t) := k.ite (Kept.ite k k)

protected theorem cqHead {n : Nat} {v : W64} (k : Kept s t) : Kept s (cqHead n v t) := Kept.ite k k

protected theorem sqSize {n : Nat} {v : W64} (k : Kept s t) : Kept s (sqSize n v t) :=
  Kept.ite k (Kept.ite k (Kept.ite k k))

protected theorem cqSize {n : Nat} {v : W64} (k : Kept s t) : Kept s (cqSize n v t) :=
  Kept.ite k (Kept.ite k (Kept.ite k k))

protected theorem takeCap {w : Nat} (k : Kept s t) : Kept s (takeCap t w) := Kept.ite (Kept.onHearths k) k

protected theorem capWrite {v : W64} (k : Kept s t) : Kept s (capWrite v t) := Kept.ite (Kept.takeCap k) k

protected theorem biasSet {n : Nat} {v : W64} (k : Kept s t) : Kept s (biasSet n v t) := Kept.ite k k

protected theorem clearHealth (k : Kept s t) : Kept s (clearHealth t) := k.onHearths.congr rfl rfl rfl rfl

/-- A write of a ring pair's registers. -/
protected theorem ringWrite {n r : Nat} {v : W64} (k : Kept s t) : Kept s (ringWrite n r v t) := by
  unfold Machine.ringWrite
  split
  · exact k.ite k
  · exact k.sqSize
  · exact k.doorbell
  · exact k.ite k
  · exact k.cqSize
  · exact k.cqHead
  · exact k

protected theorem regWrite {off : Nat} {v : W64} (k : Kept s t) : Kept s (regWrite off v t) := by
  by_cases hring : 0x3000 ≤ off ∧ off < 0x3200
  · rw [show off = 0x3000 + 0x40 * ((off - 0x3000) / 0x40) + (off - 0x3000) % 0x40 by omega,
      regWrite_ring t _ _ v (by omega) (by omega)]
    exact k.ringWrite
  · unfold Machine.regWrite
    rw [if_neg hring]
    exact Kept.ite k (k.capWrite.ite (Kept.ite k (Kept.ite k (Kept.ite k (k.biasSet.ite k)))))

protected theorem decoderWrite {d o v : Nat} (k : Kept s t) : Kept s (decoderWrite d o v t) := by
  unfold Machine.decoderWrite
  dsimp only
  split
  · exact k
  · split
    · exact k
    · split <;> exact k

protected theorem cxlWrite {off v : Nat} (k : Kept s t) : Kept s (cxlWrite off v t) :=
  k.ite (Kept.ite (k.ite (k.decoderWrite.ite k)) k)

/-! ### Power, resets, units and faults (chapters 13 and 15) -/

/-- A cold reset keeps fuses and host memory (Table 15-3), and of the hearths what manufacture fixed. -/
protected theorem coldReset (k : Kept s t) : Kept s (coldReset t) := k.trans ⟨rfl, BlownFrom.refl _, id, mmap_wfFrom _ _ _ 0⟩

protected theorem countBoot (k : Kept s t) : Kept s (countBoot t) := Kept.ite k k

protected theorem startBoot (k : Kept s t) : Kept s (startBoot t) :=
  Kept.countBoot (k.fuses (blownFrom_finishKill t.fuses))

protected theorem mantelFail {unit : Nat} (k : Kept s t) : Kept s (mantelFail t unit) := k.onHearths

protected theorem restored {h : Nat} {u : UnitSel} (k : Kept s t) : Kept s (restored t h u) := by
  unfold Machine.restored
  extract_lets flash mapped
  have hmapped : Kept s mapped := Kept.ite k k
  exact Kept.onHearth hmapped

protected theorem returnUnits {h : Nat} (k : Kept s t) : Kept s (returnUnits t h) := by
  refine k.foldl fun b _ k => ?_
  unfold returnUnit
  dsimp only
  split
  · exact k
  · exact k.updH.restored.finish.ite k.updH.finish

protected theorem memoryGoesOn {h : Nat} (k : Kept s t) : Kept s (memoryGoesOn t h) :=
  (k.updH.follows (retireAll_follows _ _ _)).returnUnits

protected theorem failPair (k : Kept s t) : Kept s (failPair t) := by
  unfold Machine.failPair
  extract_lets pair logged
  have hlogged : Kept s logged := Kept.logAll k
  exact Kept.ite hlogged hlogged

/-- The alarm blows KILL where the policy asks for it, and no other fuse (R463). -/
protected theorem raiseAlarm {src : AlarmSource} (k : Kept s t) : Kept s (raiseAlarm t src) := by
  unfold Machine.raiseAlarm
  extract_lets sources first trust raised blown told
  have hraised : Kept s raised := k
  have hblown : Kept s blown := (hraised.fuses (blownFrom_blowKill _)).ite hraised
  have htold : Kept s told := hblown.onHearths.ite hblown
  exact Kept.ite htold htold

protected theorem bootReady {h : Nat} {fw : FwImage} (k : Kept s t) : Kept s (bootReady t h fw) :=
  k.updH.congr rfl rfl rfl rfl

protected theorem abortCommands {but : Nat} (k : Kept s t) : Kept s (abortCommands t but) :=
  k.foldl fun _ _ k => (k.follows (dropStarted_follows _ _)).post

protected theorem warmReset {id : Nat} (k : Kept s t) : Kept s (warmReset id t) := by
  unfold Machine.warmReset
  extract_lets ended settled aborted waiting warm
  have hended : Kept s ended := k.onHearths
  have hsettled : Kept s settled := hended.foldl fun _ _ k => k.follows (settleSteps_follows _ _)
  have hwaiting : Kept s waiting := hsettled.abortCommands.setWait
  have hwarm : Kept s warm := hwaiting.foldl fun _ _ k => k.updH
  clear_value warm
  exact Kept.countBoot (hwarm.congr rfl rfl rfl rfl)

/-! ### Accounts, buffers and copies (chapters 10 and 12) -/

protected theorem activate {w : Nat} (k : Kept s t) : Kept s (activate t w) := Kept.ite k k

protected theorem register {w : Nat} (k : Kept s t) : Kept s (register t w) := Kept.ite k k

protected theorem preemptRun {p : Pkt} {id : Nat} (k : Kept s t) : Kept s (preemptRun p id t) := Kept.onHearths k.setWait

protected theorem blurBuffer {w n gen : Nat} (k : Kept s t) : Kept s (blurBuffer t w n gen) := by
  unfold Machine.blurBuffer
  split
  · exact k.updH
  · exact k

/-- An image in host memory replaces the bytes where it stands (log 13). -/
protected theorem putImage {w : Nat} {bytes : Mem} {free : List (Nat × Nat × Nat)} (k : Kept s t) :
    Kept s (putImage t w bytes free) := by
  unfold Machine.putImage
  split
  · exact k.updH
  · refine k.trans ⟨rfl, BlownFrom.refl _, fun hm => ?_, id⟩
    exact List.foldlRecOn (motive := fun m => Memory.wf m = true) _ _ (smapWfFrom_filter _ _ _ 0 hm)
      fun m hm _ _ => memPut_wf m _ _ hm

protected theorem copyRead {w n : Nat} (k : Kept s t) : Kept s (copyRead t w n).1 := by
  unfold Machine.copyRead
  split
  · exact k.putH
  · exact k

protected theorem bufTouch {w n : Nat} (k : Kept s t) : Kept s (bufTouch t w n) := k.copyRead

protected theorem copyWrite {w : Nat} {bs : List Byte} {bad : List (Nat × Nat)} (k : Kept s t) :
    Kept s (copyWrite t w bs bad) := by
  unfold Machine.copyWrite
  split
  · exact k.updH
  · exact k.hostWrite.foldl fun _ _ k => k

protected theorem copyLocal {x : Seg} (k : Kept s t) : Kept s (copyLocal t x) := by
  have hcopied := fun n bs bad => (k.copyRead (w := x.src) (n := n)).copyWrite (w := x.dst) (bs := bs) (bad := bad)
  unfold Machine.copyLocal blurOverlap
  refine (hcopied _ _ _).ite ?_
  dsimp only
  split <;> exact (hcopied _ _ _).ite (Kept.blurBuffer (hcopied _ _ _))

protected theorem copyRemote {m : Nat} {x : Seg} (k : Kept s t) : Kept s (copyRemote t m x).1 :=
  Kept.updH (k.copyRead.ite k.copyRead)

protected theorem startRemote {id m : Nat} {segs : List Seg} (k : Kept s t) : Kept s (startRemote t id m segs) := by
  refine Kept.setWait (List.foldlRecOn (motive := fun a : State × List (Nat × Nat) => Kept s a.1) _ _ k ?_)
  exact fun a ha x _ => ha.copyRemote

protected theorem copyDone {m h n : Nat} (k : Kept s t) : Kept s (copyDone t m h n) := by
  unfold Machine.copyDone
  split
  · exact k.finish.ite k.setWait
  · exact k

theorem of_copyFault {m h a : Nat} (k : Kept s t) (hu : copyFault t m h a = some u) : Kept s u := by
  obtain ⟨r, -, rfl⟩ := Option.map_eq_some_iff.1 hu
  exact k.finish

protected theorem logUnbalanced {p : LedgerPart} (k : Kept s t) : Kept s (logUnbalanced t p) := by
  refine k.foldl fun b _ k => ?_
  dsimp only
  split
  · exact k.onHearth
  · exact k.logAll

/-! ### Links and cells (chapter 9) -/

protected theorem sendWord {h i : Nat} (k : Kept s t) : Kept s (sendWord t h i) := k.updH

theorem of_takeWord {h i : Nat} {w : BitVec 20} (k : Kept s t) (hu : takeWord t h i w = some u) : Kept s u := by
  unfold takeWord at hu
  split at hu
  · cases hu
  · split at hu
    · cases hu
      exact k.sendWord
    · split at hu <;> cases hu
      exact k.sendWord

protected theorem linkDown {h i : Nat} (k : Kept s t) : Kept s (linkDown t h i) := k.updH.updH.ite k.updH

protected theorem discard {h : Nat} (k : Kept s t) : Kept s (discard t h) := k.updH

theorem of_takeOff {h i : Nat} {c : Cell} (k : Kept s t) (hu : takeOff t h i c = some u) : Kept s u := by
  unfold takeOff at hu
  dsimp only at hu
  split at hu
  · cases hu
  split at hu
  · cases hu
    exact k.putH
  split at hu
  · cases hu
  split at hu
  · cases hu
    exact k.updH
  split at hu <;> cases hu
  exact k.updH.updH

theorem of_arrive {row h i : Nat} {c : Cell} {b : Bool} (k : Kept s t) (hu : arrive row t h i c = some (u, b)) :
    Kept s u := by
  unfold arrive at hu
  split at hu
  case h_1 => cases hu
  case h_2 taken htaken =>
    have hoff := k.of_takeOff htaken
    dsimp only at hu
    split at hu
    · cases hu
    split at hu
    · cases hu
      exact hoff
    split at hu
    · cases hu
      exact hoff.discard
    split at hu <;> cases hu
    exact hoff

protected theorem childEnded {id i : Nat} {st : Status} {lost : Bool} (k : Kept s t) :
    Kept s (childEnded t id i st lost) := by
  unfold Machine.childEnded
  extract_lets counted bad stopped
  have hcounted : Kept s counted := k.congr rfl rfl rfl rfl
  refine Kept.follows ?_ (tryPost_follows _ _ _)
  dsimp only [stopped]
  split
  · exact (hcounted.follows (abortTree_follows _ _)).ite hcounted
  · exact hcounted

protected theorem loseChildren {m d : Nat} (k : Kept s t) : Kept s (loseChildren t m d) :=
  k.foldl fun _ _ k => k.foldl fun _ _ k => k.childEnded.ite k

protected theorem loseCopies {h m d : Nat} (k : Kept s t) : Kept s (loseCopies t h m d) := by
  refine k.foldl fun b x k => ?_
  split
  · exact k.finish.ite k
  · exact k

protected theorem losePeer {h i : Nat} (k : Kept s t) : Kept s (losePeer t h i) := by
  have hlost := fun f => k.onHearth (h := h) (f := f)
  exact (hlost _).ite ((hlost _).loseChildren.ite (hlost _)).loseCopies

protected theorem commandCell {h i : Nat} {c : Cell} (k : Kept s t) : Kept s (commandCell t h i c) :=
  Kept.ite (k.discard.ite k) (Kept.ite k k.discard)

protected theorem completionCell {h : Nat} {c : Cell} (k : Kept s t) : Kept s (completionCell t h c) := by
  unfold Machine.completionCell
  refine k.ite ?_
  split
  · exact k
  · split
    · exact k
    · exact (k.ite k.onHearth).childEnded

protected theorem noticeCell {h : Nat} {c : Cell} (k : Kept s t) : Kept s (noticeCell t h c) := by
  unfold Machine.noticeCell
  dsimp only
  split
  · exact k.updH
  · exact k.copyDone.ite k.updH
  · split
    case h_1 u hu =>
      split at hu
      · exact k.of_copyFault hu
      · cases hu
    case h_2 => exact k.onHearth
  · exact k.onHearth
  · exact k

protected theorem handOver {h i j : Nat} {c : Cell} (k : Kept s t) : Kept s (handOver h i j t c) := by
  unfold Machine.handOver
  split
  · exact k.updH
  · exact k.onHearth
  · exact k.commandCell
  · exact k.completionCell
  · exact k.updH
  · exact k.updH
  · exact k.noticeCell
  · exact k.onHearth

protected theorem forwardSecond {m d h : Nat} (k : Kept s t) : Kept s (forwardSecond t m d h) := by
  unfold Machine.forwardSecond
  extract_lets th hh l p lost n sent moved
  have hmoved : Kept s moved := Kept.updH (k.foldl fun _ _ k => k.updH)
  exact k.ite (hmoved.onHearth.ite hmoved)

protected theorem sendTelemetry {m d : Nat} (k : Kept s t) : Kept s (sendTelemetry t m d) := k.ite k.updH

/-! ### Firmware and trust (chapter 14) -/

protected theorem activateSlot {i : Nat} (k : Kept s t) : Kept s (activateSlot t i) := Kept.ite k k

protected theorem nextTarget {a : Activation} {rest : List Nat} {sw : W16} (k : Kept s t) :
    Kept s (nextTarget t a rest sw) := Kept.ite (Kept.finish k) k

protected theorem attestNow {id addr : Nat} {nonce : BitVec 256} (k : Kept s t) : Kept s (attestNow t id addr nonce) := by
  unfold Machine.attestNow
  extract_lets reserved
  have hreserved : Kept s reserved := Kept.ite k k
  refine k.finish.ite (k.finish.ite (k.finish.ite (k.finish.ite ?_)))
  exact Kept.reportAndFinish (t := { reserved with trust := { reserved.trust with next := reserved.trust.next + 1 } }) hreserved

protected theorem serveAttests (k : Kept s t) : Kept s (serveAttests t) := by
  refine k.foldl fun b x k => ?_
  split
  · exact k.attestNow
  · exact k

protected theorem countSig (k : Kept s t) : Kept s (countSig t) := k.ite (Kept.ite (Kept.raiseAlarm k) k)

protected theorem failSecurity {id d : Nat} (k : Kept s t) : Kept s (failSecurity t id d) := k.finish.countSig.ite k.finish

protected theorem clearSig (k : Kept s t) : Kept s (clearSig t) := Kept.ite k k

/-- An authorised command's effect is what its own part does. -/
protected theorem authorised {id addr opcode : Nat} {scope : Option Nat} {timed : Bool} {run : List Byte → State → State}
    (k : Kept s t) (hrun : ∀ bs b, Kept s b → Kept s (run bs b)) :
    Kept s (authorised t id addr opcode scope timed run) := by
  unfold Machine.authorised
  split
  · exact k.finish
  · have htouch : Kept s (bufTouch t addr 5500) := k.bufTouch
    dsimp only
    split
    · exact htouch.failSecurity
    · exact hrun _ _ (Kept.clearSig htouch)

/-! ### Submitting a command -/

protected theorem takeSlots {p : Pkt} (k : Kept s t) : Kept s (takeSlots t p) := k.follows (takeSlots_follows t p)

protected theorem begun {c : CmdSpec} {p : Pkt} (k : Kept s t) : Kept s (begun t c p) := by
  obtain ⟨hp, hf, -, -, -, -, hm, hh⟩ := begun_keeps t c p
  exact k.trans ⟨hp, by rw [hf]; exact BlownFrom.refl _, hm, hh⟩

/-- A ring read outside its window stops the ring. -/
theorem stopped {src : Src} {addr : Nat → Nat} (k : Kept s t) :
    Kept s (match ringOf src with | some n => stopRing (blocked t none (addr n)) n 4 | none => t) := by
  split
  · exact (k.follows (blocked_follows _ _ _)).congr rfl rfl rfl rfl
  · exact k

/-- Submitting a command keeps what its effect keeps, whatever becomes of it. -/
protected theorem submit {p : Pkt} {c : CmdSpec} {run : Nat → State → State} (k : Kept s t)
    (hrun : ∀ id b, Kept s b → Kept s (run id b)) : Kept s (submit t p c run) := by
  cases hstart : startable t c.code p with
  | false => rwa [submit_waits t p c run hstart]
  | true =>
    cases hwin : slotsInWindow t p with
    | false =>
      unfold Machine.submit
      simp only [hstart, hwin, Bool.not_true, Bool.not_false, Bool.false_eq_true, if_true, if_false]
      exact k.stopped
    | true =>
      cases hcheck : checks (takeSlots t p) c p (overruns t p) with
      | some r =>
        rw [submit_rejected t p c run r.1 r.2 hstart hwin hcheck]
        exact k.takeSlots.post
      | none =>
        rw [submit_accepted t p c run ⟨hstart, hwin, hcheck⟩]
        exact hrun _ _ k.begun

end
end Kept


/-! ### The outcome of a step -/

/-- A step from s that ends in o answers a next state, and `Kept` holds of the two. -/
def Steps (s : State) (o : Host.Outcome State Fault Refusal) : Prop := ∃ t, o = .next t ∧ Kept s t

theorem steps_nextOf {s t : State} (k : Kept s t) : Steps s (nextOf t) := ⟨t, rfl, k⟩

theorem steps_same (s : State) : Steps s (nextOf s) := steps_nextOf (Kept.refl s)

theorem steps_done {s t : State} (k : Kept s t) : Steps s (done t) := steps_nextOf k.settle

theorem steps_hearthEvent (s : State) (h : Nat) (f : Env → Hearth → Hearth) : Steps s (hearthEvent s h f) :=
  steps_done (Kept.refl s).onHearth

theorem steps_ite {c : Prop} [Decidable c] {s : State} {a b : Host.Outcome State Fault Refusal} (ha : Steps s a)
    (hb : Steps s b) : Steps s (if c then a else b) := by
  split <;> assumption

section
variable {s : State} {p : Pkt} {c : CmdSpec} {run : Nat → State → State} (hrun : ∀ id t, Kept s t → Kept s (run id t))
include hrun

theorem steps_nextOf_submit : Steps s (nextOf (submit s p c run)) := steps_nextOf ((Kept.refl s).submit hrun)

theorem steps_done_submit : Steps s (done (submit s p c run)) := steps_done ((Kept.refl s).submit hrun)

end

/-! ### Command packets: information, images and steps (chapters 6, 10 and 12) -/

section
variable (p : Pkt) (s : State)

/-- PAD completes as it is read and is never started (R378). -/
theorem steps_execPad : Steps s (execPad p s) :=
  have k := Kept.refl s
  steps_nextOf (k.ite (k.stopped.ite (k.takeSlots.post.ite k.takeSlots)))

theorem steps_execNop : Steps s (execNop p s) :=
  steps_nextOf_submit fun _ _ k => k.finish

theorem steps_execIdentify : Steps s (execIdentify p s) :=
  steps_nextOf_submit fun _ _ k => k.finish

theorem steps_execReadCensus : Steps s (execReadCensus p s) :=
  steps_nextOf_submit fun _ _ k => k.reportAndFinish

theorem steps_execReadSignatures : Steps s (execReadSignatures p s) :=
  steps_nextOf_submit fun _ _ k => k.reportAndFinish

theorem steps_execClearSignatures : Steps s (execClearSignatures p s) :=
  steps_nextOf_submit fun _ _ k => k.updH.finish

theorem steps_execDropImage : Steps s (execDropImage p s) :=
  steps_done_submit fun _ _ k => Kept.finish (k.foldl fun _ _ k => k.updH)

theorem steps_execReadLoadReport : Steps s (execReadLoadReport p s) :=
  steps_done_submit fun _ _ k => k.reportAndFinish

theorem steps_execResumeStep : Steps s (execResumeStep p s) :=
  steps_done_submit fun _ _ k => k.setWait.onHearths

theorem steps_execAbortStep : Steps s (execAbortStep p s) :=
  steps_done_submit fun _ _ k => k.onHearths.finish

theorem steps_execGetHealth : Steps s (execGetHealth p s) :=
  steps_nextOf_submit fun _ _ k => Kept.reportAndFinish (k.clearHealth.foldl fun _ _ k => k.updH)

theorem steps_execAuditLedgers : Steps s (execAuditLedgers p s) :=
  steps_done_submit fun _ _ k => Kept.reportAndFinish
    (Kept.foldl (k.foldl fun _ _ k => k.onHearth) fun _ _ k => k.logUnbalanced)

theorem steps_execLoadImage : Steps s (execLoadImage p s) := by
  refine steps_done_submit fun id t k => k.setWait.foldl fun _ _ k => ?_
  split
  · exact k.follows (loadPart_follows _ _ _ _ _ _)
  · exact k.onHearth

theorem steps_execLaunchStep : Steps s (execLaunchStep p s) := by
  refine steps_done_submit fun id t k => ?_
  extract_lets active waiting queued
  have hqueued : Kept s queued := Kept.foldl k.register.activate.setWait fun _ _ k => k.updH
  exact hqueued

protected theorem Kept.preemptWith : Kept s (preemptWith p s) :=
  ((Kept.refl s).submit fun _ _ k => k.preemptRun).settle

theorem steps_execSaveState : Steps s (execSaveState p s) := by
  refine steps_done_submit fun id t k => ?_
  dsimp only
  split
  · split
    · exact (k.follows (blocked_follows _ _ _)).finish
    · exact Kept.finish (Kept.onHearth (Kept.congr (Kept.putImage (t := { t with fresh := t.fresh + 1 }) k) rfl rfl rfl rfl))
  · exact k.finish

theorem steps_execRestoreState : Steps s (execRestoreState p s) := by
  refine steps_done_submit fun id t k => ?_
  dsimp only
  split
  · exact k.finish
  · exact Kept.finish (Kept.updH (Kept.activate (t := { t with order := t.order + 1 }) k))

/-! ### Command packets: data, policies, links and time (chapters 9, 10 and 12) -/

theorem steps_execCopy : Steps s (execCopy p s) :=
  steps_done_submit fun _ _ k => k.startRemote.ite (k.foldl fun _ _ k => k.copyLocal).finish

theorem steps_execFill : Steps s (execFill p s) :=
  steps_done_submit fun _ _ k => k.copyWrite.finish

theorem steps_execSetClassPolicy : Steps s (execSetClassPolicy p s) :=
  steps_done_submit fun _ _ k => Kept.finish k

theorem steps_execSetSharesRemove : Steps s (execSetSharesRemove p s) :=
  steps_ite (steps_same s) (steps_done_submit fun _ _ k => Kept.finish k)

theorem steps_execSetRole : Steps s (execSetRole p s) :=
  steps_done_submit fun _ _ k => Kept.finish k

theorem steps_execFlueUp : Steps s (execFlueUp p s) :=
  steps_done_submit fun _ _ k => Kept.setWait (k.foldl fun _ _ k => k.updH)

theorem steps_execFlueDown : Steps s (execFlueDown p s) :=
  steps_done_submit fun _ _ k => Kept.setWait (k.foldl fun _ _ k => k.updH)

theorem steps_execSyncTimeSet : Steps s (execSyncTimeSet p s) :=
  steps_ite (steps_same s) (steps_done_submit fun _ _ k => Kept.finish k)

theorem steps_execSyncTimeSlew : Steps s (execSyncTimeSlew p s) :=
  steps_ite (steps_same s) (steps_done_submit fun _ _ k => Kept.setWait k)

theorem steps_execSetShares : Steps s (execSetShares p s) := by
  unfold execSetShares
  dsimp only
  exact steps_ite (steps_same s) (steps_done_submit fun _ _ k => Kept.finish (k.register.congr rfl rfl rfl rfl))

theorem steps_execSetRoutes : Steps s (execSetRoutes p s) := by
  refine steps_done_submit fun id t k => ?_
  extract_lets words read set stored
  have hset : Kept s set := Kept.foldl (k.bufTouch.ite k) fun _ _ k => k.updH
  clear_value set
  exact Kept.finish (Kept.ite hset hset)

/-! ### Command packets: units, resets, measurement and trust (chapters 5 and 13 to 15) -/

theorem steps_execRetireUnit : Steps s (execRetireUnit p s) :=
  steps_done_submit fun _ _ k => k.finish.ite k.setWait.updH

theorem steps_execModuleWarmReset : Steps s (execModuleWarmReset p s) :=
  steps_done_submit fun _ _ k => k.warmReset

theorem steps_execSetPowerCap : Steps s (execSetPowerCap p s) :=
  steps_done_submit fun _ _ k => k.takeCap.finish

theorem steps_execSampleStart : Steps s (execSampleStart p s) :=
  steps_ite (steps_same s) (steps_done_submit fun _ _ k => Kept.finish (k.foldl fun _ _ k => k.updH))

theorem steps_execSampleStop : Steps s (execSampleStop p s) :=
  steps_ite (steps_same s) (steps_done_submit fun _ _ k => Kept.finish (k.foldl fun _ _ k => k.updH))

theorem steps_execSampleRead : Steps s (execSampleRead p s) :=
  steps_ite (steps_same s) (steps_done_submit fun _ _ k => k.reportAndFinish)

theorem steps_execCalibrationRead : Steps s (execCalibrationRead p s) :=
  steps_ite (steps_same s) (steps_done_submit fun _ _ k => Kept.finish k)

theorem steps_execCalibrationWrite : Steps s (execCalibrationWrite p s) :=
  steps_ite (steps_same s) (steps_done_submit fun _ _ k => Kept.finish (k.foldl fun _ _ k => k.updH))

theorem steps_execCalibrationReset : Steps s (execCalibrationReset p s) :=
  steps_ite (steps_same s) (steps_done_submit fun _ _ k => Kept.finish (k.foldl fun _ _ k => k.updH))

theorem steps_execAttest : Steps s (execAttest p s) :=
  steps_done_submit fun _ _ k => k.attestNow.ite k.setWait

theorem steps_execDebugUnlockChallenge : Steps s (execDebugUnlockChallenge p s) :=
  steps_ite (steps_same s) (steps_done_submit fun _ _ k => Kept.finish k)

theorem steps_execDebugUnlockResponse : Steps s (execDebugUnlockResponse p s) :=
  steps_ite (steps_same s) (steps_done_submit fun _ _ k => k.authorised fun _ _ k => Kept.finish k)

theorem steps_execRestoreUnit : Steps s (execRestoreUnit p s) := steps_done_submit fun _ _ k => k.setWait.updH

theorem steps_execResetHearth : Steps s (execResetHearth p s) := by
  refine steps_done_submit fun id t k => Kept.foldl k.setWait.onHearths fun b h k => ?_
  exact Kept.updH (k.congr rfl rfl rfl rfl)

theorem steps_execFwStage : Steps s (execFwStage p s) := by
  refine steps_done_submit fun id t k => k.finish.ite ?_
  split
  · exact k.finish
  · have htouch : Kept s (bufTouch t (fld p 0x10 8) (fld p 0x18 4)) := k.bufTouch
    dsimp only
    split
    · exact htouch.failSecurity
    · exact htouch.clearSig.setWait.ite (htouch.clearSig.follows (finishStage_follows _ _ _ _))

theorem steps_execFwActivate : Steps s (execFwActivate p s) :=
  steps_done_submit fun _ _ k => k.finish.ite (Kept.setWait (k.activateSlot.congr rfl rfl rfl rfl))

/-- SET_ALARM_POLICY writes POLICY_SET, and POLICY_KILL where POLICY asks for it (R460). -/
theorem steps_execSetAlarmPolicy : Steps s (execSetAlarmPolicy p s) :=
  steps_done_submit fun _ _ k => k.authorised fun _ b k => Kept.finish (k.fuses (blownFrom_policy b.fuses _))

/-- ZEROIZE blows KILL and PUF_HELPER (R460). -/
theorem steps_execZeroize : Steps s (execZeroize p s) :=
  steps_done_submit fun _ _ k => k.authorised fun _ b k => Kept.finish (k.fuses (blownFrom_blowKill b.fuses))

end

/-! ### Events at the host port and of power (chapters 11 and 15) -/

section
variable (s : State)

theorem steps_execRegisterWrite (offset size : Nat) (v : W64) : Steps s (execRegisterWrite offset size v s) :=
  have k := Kept.refl s
  steps_nextOf (k.ite (k.cxlWrite.ite (k.cxlWrite.cxlWrite.ite (k.regWrite.ite (k.regWrite.ite k)))))

theorem steps_execCxlMemRead (dpa : Nat) : Steps s (execCxlMemRead dpa s) := by
  refine steps_ite (steps_nextOf (Kept.refl s)) ?_
  extract_lets da hole
  split
  · exact steps_done (Kept.congr (t := hole) (Kept.refl s).updH rfl rfl rfl rfl)
  · split
    extract_lets read
    exact steps_done (Kept.congr (t := read) (Kept.refl s).putH rfl rfl rfl rfl)

theorem steps_execCxlMemWrite (dpa : Nat) (data : BitVec 512) (mask : W64) : Steps s (execCxlMemWrite dpa data mask s) := by
  refine steps_ite (steps_nextOf (Kept.refl s)) ?_
  extract_lets da
  split <;> exact steps_done (Kept.refl s).updH

/-- A cold reset, whatever it does with the module's power. -/
theorem Kept.of_coldReset {s t : State} (hp : t.pending = s.pending) (hf : t.fuses = s.fuses) (hm : t.hostMem = s.hostMem)
    (hh : t.hearths = (coldReset s).hearths) : Kept s t :=
  (Kept.refl s).coldReset.congr hp hf hm hh

theorem steps_execPowerUp : Steps s (execPowerUp s) :=
  steps_nextOf ((Kept.refl s).ite (Kept.of_coldReset rfl rfl rfl rfl))

/-- A higher SECVER of the active slot is fused (R447). -/
theorem steps_execModuleFirmwareStart : Steps s (execModuleFirmwareStart s) := by
  refine steps_done ?_
  split
  case h_1 => exact Kept.refl s
  case h_2 i x _ =>
    refine (Kept.refl s).ite (Kept.onHearths ?_)
    refine (Kept.refl s).fuses (blownFrom_rollbackModule s.fuses _ ?_)
    split
    · exact Nat.le_max_left _ _
    · exact Nat.le_refl _

/-- The mantel shares tokens out hearth by hearth (R474, R475). -/
theorem steps_execTokenShare (demand : List Nat) : Steps s (execTokenShare demand s) := by
  refine steps_nextOf ((Kept.refl s).ite ?_)
  extract_lets hs dem back reported pool target
  have hreported : Kept s reported := (Kept.refl s).onHearths
  clear_value reported
  split
  split
  case _ granted rest hgranted =>
    have hfold : Kept s (granted, rest).1 := by
      rw [← hgranted]
      refine List.foldlRecOn (motive := fun a : State × Nat => Kept s a.1) _ _ hreported fun a ha h _ => ?_
      dsimp only
      split <;> exact ha.updH
    exact hfold

/-- A higher SECVER of the active slot is fused (R447). -/
theorem steps_execHearthBootComplete (h : Nat) (ok : Bool) : Steps s (execHearthBootComplete h ok s) := by
  refine steps_done ((Kept.refl s).ite ?_)
  extract_lets waiting ended
  have hended : Kept s ended := (Kept.refl s).updH
  clear_value ended waiting
  split
  case h_1 i fw _ _ =>
    extract_lets fused ready
    have hfused : Kept s fused := by
      refine hended.fuses (blownFrom_rollbackHearth ended.fuses _ ?_)
      split
      · exact Nat.le_max_left _ _
      · exact Nat.le_refl _
    have hready : Kept s ready := hfused.bootReady
    clear_value ready
    split
    · exact hready.restored.finish
    · exact hready
  case h_2 =>
    split
    · exact (hended.follows (returnTokens_follows _ _)).updH.finish
    · exact hended.updH

/-! ### Units and faults (chapter 13) -/

theorem steps_execRestoreTestComplete (h : Nat) (pass : Bool) : Steps s (execRestoreTestComplete h pass s) := by
  have k := Kept.refl s
  refine steps_done ?_
  split
  · exact k
  · exact k.ite (k.updH.updH.returnUnits.ite k.updH.finish)

theorem steps_execReshapeComplete (h : Nat) : Steps s (execReshapeComplete h s) := by
  refine steps_done ?_
  split
  · exact Kept.refl s
  · exact Kept.memoryGoesOn (Kept.onHearth (Kept.refl s))

theorem steps_execControlMismatch (h : Nat) (u : CtrlUnit) (inRetry : Bool) :
    Steps s (execControlMismatch h u inRetry s) := by
  have k := Kept.refl s
  refine steps_done ?_
  split
  · extract_lets bucket perm counted r logged
    have hcounted : Kept s counted := k
    have hlogged : Kept s logged := hcounted.onHearths
    exact k.ite (hlogged.failPair.ite hlogged)
  · exact k.onHearth

/-! ### Links and cells (chapter 9) -/

section
variable (h t : Nat) (c : Cell)

theorem steps_execLinkCreditReturn (w : BitVec 20) : Steps s (execLinkCreditReturn h t w s) := by
  refine steps_ite (steps_same s) ?_
  split
  case h_1 => exact steps_same s
  case h_2 b hb => exact steps_done ((Kept.refl s).of_takeWord hb).updH

theorem steps_execResyncReport (w : BitVec 20) : Steps s (execResyncReport h t w s) := by
  refine steps_ite (steps_same s) ?_
  split
  case h_1 => exact steps_same s
  case h_2 b hb => exact steps_done ((Kept.refl s).of_takeWord hb).updH

/-- A sequenced cell that arrives is handed over with those it releases (R295). -/
theorem steps_seqCell (row : Nat) : Steps s (seqCell row h t c s) := by
  unfold seqCell
  split
  case h_1 => exact steps_same s
  case h_2 b hb => exact steps_done ((Kept.refl s).of_arrive hb)
  case h_3 b hb => exact steps_done (((Kept.refl s).of_arrive hb).putH.foldl fun _ _ k => k.handOver)

theorem steps_ackCell (row : Nat) (f : State → Nat → Nat → Nat → State)
    (hf : ∀ a i m d, Kept s a → Kept s (f a i m d)) : Steps s (ackCell row h t c s f) := by
  unfold ackCell
  split
  case h_1 => exact steps_same s
  case h_2 b hb => exact steps_done ((Kept.refl s).of_arrive hb)
  case h_3 b hb => exact steps_done (hf _ _ _ _ ((Kept.refl s).of_arrive hb))

theorem steps_execAck : Steps s (execAck h t c s) := steps_ackCell s h t c 16 _ fun _ _ _ _ k => k.updH

theorem steps_execNack : Steps s (execNack h t c s) := steps_ackCell s h t c 17 _ fun _ _ _ _ k => k.updH

theorem steps_execOpen : Steps s (execOpen h t c s) := steps_ackCell s h t c 18 _ fun _ _ _ _ k => k.updH

theorem steps_execOpenAck : Steps s (execOpenAck h t c s) := steps_ackCell s h t c 19 _ fun _ _ _ _ k => k.updH

theorem steps_execReset : Steps s (execReset h t c s) := steps_ackCell s h t c 20 _ fun _ _ _ _ k => k.losePeer.ite k

theorem steps_execTransitCell : Steps s (execTransitCell h t c s) := by
  unfold execTransitCell
  split
  case h_1 => exact steps_same s
  case h_2 b hb =>
    have hoff := (Kept.refl s).of_takeOff hb
    refine steps_ite (steps_same s) (steps_ite (steps_done hoff) ?_)
    extract_lets own
    split
    · exact steps_done hoff.discard
    · exact steps_done hoff.updH

theorem steps_execTimeQuery : Steps s (execTimeQuery h t c s) := by
  unfold execTimeQuery
  split
  case h_1 => exact steps_same s
  case h_2 b hb => exact steps_done ((Kept.refl s).of_arrive hb)
  case h_3 b hb =>
    have harrived := (Kept.refl s).of_arrive hb
    exact steps_ite (steps_done harrived) (steps_done harrived.updH)

theorem steps_execTimeAnswer : Steps s (execTimeAnswer h t c s) := by
  unfold execTimeAnswer
  split
  case h_1 => exact steps_same s
  case h_2 b hb => exact steps_done ((Kept.refl s).of_arrive hb)
  case h_3 b hb =>
    have harrived := (Kept.refl s).of_arrive hb
    exact steps_ite (steps_done harrived) (steps_done harrived)

end

theorem steps_execTimeExchangeTick : Steps s (execTimeExchangeTick s) := by
  unfold execTimeExchangeTick
  split
  · exact steps_same s
  · exact steps_hearthEvent _ _ _

theorem steps_execSignatureForwardTick : Steps s (execSignatureForwardTick s) := by
  unfold execSignatureForwardTick
  split
  · exact steps_same s
  · exact steps_done ((Kept.refl s).foldl fun _ _ k => k.forwardSecond).sendTelemetry

/-! ### Images, steps and trust (chapters 6, 10 and 14) -/

theorem steps_execLoadComplete (h ns : Nat) : Steps s (execLoadComplete h ns s) := by
  refine steps_done ?_
  split
  · exact Kept.refl s
  · exact (Kept.refl s).putH.follows (loadPart_follows _ _ _ _ _ _)

theorem steps_execSlotFill (h cls : Nat) : Steps s (execSlotFill h cls s) := by
  refine steps_ite (steps_same s) ?_
  split
  · exact steps_same s
  · split
    · exact steps_same s
    · exact steps_hearthEvent _ _ _

theorem steps_execSaveComplete (h : Nat) : Steps s (execSaveComplete h s) := by
  unfold execSaveComplete
  split
  · exact steps_same s
  · exact steps_ite (steps_same s) (steps_done (Kept.onHearth (Kept.refl s)))

theorem steps_execFwSwitchComplete (ok : Bool) : Steps s (execFwSwitchComplete ok s) := by
  unfold execFwSwitchComplete
  split
  · exact steps_same s
  · split
    · exact steps_same s
    · refine steps_ite (steps_done (Kept.nextTarget (Kept.refl s))) (steps_ite (steps_same s)
        (steps_ite ?_ (steps_hearthEvent _ _ _)))
      exact steps_done (Kept.nextTarget ((Kept.refl s).updH.congr rfl rfl rfl rfl))

theorem steps_execJtagInstruction (die ir : Nat) : Steps s (execJtagInstruction die ir s) :=
  steps_ite (steps_same s) (steps_ite (steps_nextOf (Kept.refl s))
    (steps_done ((Kept.refl s).raiseAlarm.congr rfl rfl rfl rfl)))

theorem steps_execDebugAccessExpiry : Steps s (execDebugAccessExpiry s) := by
  unfold execDebugAccessExpiry
  dsimp only
  split
  · exact steps_nextOf (Kept.refl s)
  · exact steps_same s

end

/-! ### Every command -/

/-- Every command of the table answers a next state that keeps what `Kept` says. -/
theorem steps_exec (i : Instr) (s : State) : Steps s (exec i s) := by
  have k := Kept.refl s
  cases i
  -- command packets
  case nop p => exact steps_execNop p s
  case identify p => exact steps_execIdentify p s
  case pad p => exact steps_execPad p s
  case getHealth p => exact steps_execGetHealth p s
  case readCensus p => exact steps_execReadCensus p s
  case readSignatures p => exact steps_execReadSignatures p s
  case clearSignatures p => exact steps_execClearSignatures p s
  case readLoadReport p => exact steps_execReadLoadReport p s
  case auditLedgers p => exact steps_execAuditLedgers p s
  case fwStage p => exact steps_execFwStage p s
  case fwActivate p => exact steps_execFwActivate p s
  case loadImage p => exact steps_execLoadImage p s
  case dropImage p => exact steps_execDropImage p s
  case launchStep p => exact steps_execLaunchStep p s
  case preemptStep p => exact steps_nextOf (k.ite (Kept.preemptWith p s))
  case preemptStepHalt p | preemptStepSave p => exact steps_nextOf ((Kept.preemptWith p s).ite k)
  case resumeStep p => exact steps_execResumeStep p s
  case abortStep p => exact steps_execAbortStep p s
  case saveState p => exact steps_execSaveState p s
  case restoreState p => exact steps_execRestoreState p s
  case copy p => exact steps_execCopy p s
  case fill p => exact steps_execFill p s
  case setClassPolicy p => exact steps_execSetClassPolicy p s
  case setRole p => exact steps_execSetRole p s
  case setShares p => exact steps_execSetShares p s
  case setSharesRemove p => exact steps_execSetSharesRemove p s
  case syncTimeSet p => exact steps_execSyncTimeSet p s
  case calibrationRead p => exact steps_execCalibrationRead p s
  case debugUnlockChallenge p => exact steps_execDebugUnlockChallenge p s
  case syncTimeSlew p => exact steps_execSyncTimeSlew p s
  case setRoutes p => exact steps_execSetRoutes p s
  case flueUp p => exact steps_execFlueUp p s
  case flueDown p => exact steps_execFlueDown p s
  case retireUnit p => exact steps_execRetireUnit p s
  case restoreUnit p => exact steps_execRestoreUnit p s
  case resetHearth p => exact steps_execResetHearth p s
  case moduleWarmReset p => exact steps_execModuleWarmReset p s
  case setPowerCap p => exact steps_execSetPowerCap p s
  case sampleStart p => exact steps_execSampleStart p s
  case sampleStop p => exact steps_execSampleStop p s
  case calibrationWrite p => exact steps_execCalibrationWrite p s
  case calibrationReset p => exact steps_execCalibrationReset p s
  case sampleRead p => exact steps_execSampleRead p s
  case attest p => exact steps_execAttest p s
  case setAlarmPolicy p => exact steps_execSetAlarmPolicy p s
  case debugUnlockResponse p => exact steps_execDebugUnlockResponse p s
  case zeroize p => exact steps_execZeroize p s
  -- the host port's registers and memory
  case sqDoorbell => exact steps_nextOf (k.doorbell.ite k)
  case cqHeadWrite => exact steps_nextOf (k.cqHead.ite k)
  case sqEnable | sqDisable => exact steps_nextOf (k.sqSize.ite k)
  case cqEnable | cqDisable => exact steps_nextOf (k.cqSize.ite k)
  case powerCapWrite => exact steps_nextOf (k.capWrite.ite k)
  case biasWrite => exact steps_nextOf (k.biasSet.ite k)
  case healthRead => exact steps_nextOf (Kept.ite (k.clearHealth.congr rfl rfl rfl rfl) (k.congr rfl rfl rfl rfl))
  case registerWrite offset size v => exact steps_execRegisterWrite s offset size v
  case cxlMemRead dpa => exact steps_execCxlMemRead s dpa
  case cxlMemWrite dpa data mask => exact steps_execCxlMemWrite s dpa data mask
  case hostBiasAccess => exact steps_ite (steps_done k.updH) (steps_same s)
  -- events that write registers, answers or the mantel's own fields alone
  case hdmDecoderCommit | d3hotEntry | cxlLinkTraining | bootRomRingEngine | sensorUpdate | flueRefclkLoss | setEndpointId =>
    exact steps_nextOf (Kept.ite k k)
  case hotReset | d0Return | pcieRefclkLoss | dqsTracking | flueRefclkReturn | fruRead | mctpControl | pldmBase
      | getPdrRepositoryInfo | getPdr | getSensorReading | setNumericSensorEnable | challengeExpiry =>
    exact steps_nextOf (k.congr rfl rfl rfl rfl)
  -- power and resets
  case powerUp => exact steps_execPowerUp s
  case inputOutOfRange | perstAssert | mantelOvertemp => exact steps_nextOf (Kept.of_coldReset rfl rfl rfl rfl)
  case perstRelease | perstWaitExpiry => exact steps_nextOf (k.startBoot.ite k)
  case moduleFirmwareStart => exact steps_execModuleFirmwareStart s
  case hearthPowerOn => exact steps_nextOf (k.updH.ite k)
  case hearthBootComplete h ok => exact steps_execHearthBootComplete s h ok
  case tokenShare demand => exact steps_execTokenShare s demand
  case chargeReport => exact steps_nextOf (k.follows (reportCharges_follows _ _))
  case powerOvershoot => exact steps_nextOf (Kept.ite (Kept.onHearths k) k)
  case thermalCheck => exact steps_nextOf (k.onHearth.ite k.updH)
  case thermalShutdown => exact steps_done (Kept.ite (Kept.onHearth k) k)
  case clockStepChange => exact steps_nextOf (k.onHearth.ite k)
  -- units, faults, alarms and trust
  case restoreTestComplete h pass => exact steps_execRestoreTestComplete s h pass
  case deferredRetirement => exact steps_done (k.ite k.memoryGoesOn)
  case reshapeComplete h => exact steps_execReshapeComplete s h
  case bucketLeak => exact steps_nextOf (Kept.ite k k.updH)
  case sampleTick | perBankRefresh => exact steps_nextOf k.updH
  case hearthFatal => exact steps_done (k.onHearth.onHearths.ite k.onHearth)
  case controlMismatch h u inRetry => exact steps_execControlMismatch s h u inRetry
  case hostPortFail | commandProcessorsFail => exact steps_done (k.ite (Kept.logAll k))
  case failover => exact steps_done (k.failPair.ite k)
  case verificationEngineFailure => exact steps_done (k.ite (Kept.mantelFail (k.congr rfl rfl rfl rfl)))
  case powerControllerFailure | sidebandEndpointFailure => exact steps_nextOf (k.ite (Kept.mantelFail k))
  case alarm => exact steps_done (k.raiseAlarm.ite k)
  case jtagInstruction die ir => exact steps_execJtagInstruction s die ir
  case debugAccessExpiry => exact steps_execDebugAccessExpiry s
  case identityEngineStart => exact steps_ite (steps_same s) (steps_done (Kept.serveAttests (Kept.ite k k)))
  case identityEngineFailure => exact steps_done (k.ite (Kept.serveAttests (Kept.mantelFail (k.congr rfl rfl rfl rfl))))
  case fwSwitchComplete ok => exact steps_execFwSwitchComplete s ok
  -- links and cells
  case linkCreditReturn h t w => exact steps_execLinkCreditReturn s h t w
  case eqRequest => exact steps_ite (steps_same s) (steps_done k.sendWord.updH)
  case codewordUncorrectable => exact steps_ite (steps_same s) (steps_ite (steps_done k.updH) (steps_done k.updH.updH))
  case resyncRequest => exact steps_ite (steps_same s) (steps_done (k.sendWord.ite k.sendWord).updH)
  case resyncReport h t w => exact steps_execResyncReport s h t w
  case linkTrainingComplete => exact steps_ite (steps_same s) (steps_done (k.updH.ite k).updH)
  case flueDownDrainEnd => exact steps_ite (steps_done k.linkDown) (steps_same s)
  case flueRefclkHoldoverExpiry =>
    exact steps_ite (steps_same s) (steps_done (Kept.foldl k fun _ _ k => k.foldl fun _ _ k => k.linkDown))
  case transitCell h t c => exact steps_execTransitCell s h t c
  case write | readReq | readReply | command | completion | syncArrive | syncRelease | combine | signature | telemetry | token
      | credit | writeDone | accessFault | dropped => exact steps_seqCell s _ _ _ _
  case ack h t c => exact steps_execAck s h t c
  case nack h t c => exact steps_execNack s h t c
  case openAck h t c => exact steps_execOpenAck s h t c
  case reset h t c => exact steps_execReset s h t c
  case resendTimeout => exact steps_ite (steps_same s) (steps_ite (steps_done k.losePeer) (steps_done k.updH))
  case timeExchangeTick => exact steps_execTimeExchangeTick s
  case timeUnlockExpiry => exact steps_ite (steps_done k) (steps_same s)
  case timeQuery h t c => exact steps_execTimeQuery s h t c
  case timeAnswer h t c => exact steps_execTimeAnswer s h t c
  case signatureForwardTick => exact steps_execSignatureForwardTick s
  -- images and steps
  case loadComplete h ns => exact steps_execLoadComplete s h ns
  case slotFill h cls => exact steps_execSlotFill s h cls
  case saveComplete h => exact steps_execSaveComplete s h
  -- events of one hearth
  case cellInject | laneEvent | laneRetrainComplete | laneChange | linkTrainingTimeout | ackDelayExpiry | writeDoneTimer
      | damperLevelFall | scheduleSlotOpen | endpointTokenSend | putTag | getTag | contributeTag | endpointCombineSum
      | tokenArrival | tokenAdmit | streamCredit | combiningContribution | combiningSumComplete | mma | emit | wload | vfma
      | vbin | sfu | reduce | steer | move | syncOpArrive | syncOpWait | syncOpIncrement | syncOpDecrement | firingEnd
      | bankLoadComplete | hsyncBatch | syncGrantArrival | tagTimeout | syncWaitTimeout | progressCountTrip
      | spillRoundComplete | tileReset | contextChange | contextChangeComplete | stokerLoadTag | stokerStoreTag
      | stokerRelayBatch | stokerCopyTag | stokerTriggerTag | stokerWait | stokerPost | memoryRequest | memoryReadReply
      | writeAck | interfaceRetrain | patrolScrub | reshapeUnitMove | stepDispatch | stepStartComplete | classPreempt
      | haltComplete | restoreComplete | stepComplete | checkFlag | replayComplete | refereeComplete | scrubCfgVote
      | ceSummary | chimneyFault =>
    exact steps_hearthEvent s _ _
  -- the cell OPEN, whose name is a keyword here
  next h t c => exact steps_execOpen s h t c

/-! ### The nanosecond of an empty queue -/

/-- An opcode of no row is rejected as it is read (R379). -/
protected theorem Kept.rejectUnknown {s t : State} (k : Kept s t) : Kept s (rejectUnknown t) := by
  unfold Machine.rejectUnknown
  split
  · exact k
  · exact k.stopped.ite k.takeSlots.post

protected theorem Kept.tickBases {s t : State} (k : Kept s t) : Kept s (tickBases t) :=
  (k.foldl fun _ _ k => k.updH).onHearths

protected theorem Kept.tick (s : State) : Kept s (tick s) := by
  have htime : Kept s { s with time := tickTime (timeFor s) } := Kept.refl s
  exact htime.tickBases.rejectUnknown.settle

/-- A step answers a next state that keeps what `Kept` says, but that the command in hand leaves the queue. -/
theorem steps_step (s : State) : Steps { s with pending := s.pending.drop 1 } (step s) := by
  cases hq : s.pending with
  | nil =>
    rw [show { s with pending := ([] : List Instr).drop 1 } = s by rw [List.drop_nil, ← hq]]
    rw [step, hq]
    exact steps_nextOf (Kept.tick s)
  | cons c rest =>
    rw [step, hq]
    exact steps_exec c { s with pending := rest }

/-! ### The obligations -/

/-- What a command answers is a next state that keeps the queue. -/
theorem kept_of_exec {c : Instr} {s t : State} (ht : exec c s = .next t) : Kept s t := by
  obtain ⟨u, hu, k⟩ := steps_exec c s
  obtain rfl : u = t := by simpa only [hu, Host.Outcome.next.injEq] using ht
  exact k

theorem kept_of_step {s t : State} (ht : step s = .next t) : Kept { s with pending := s.pending.drop 1 } t := by
  obtain ⟨u, hu, k⟩ := steps_step s
  obtain rfl : u = t := by simpa only [hu, Host.Outcome.next.injEq] using ht
  exact k

/-- Settles O4: `Kept` says that the queue stays, of a command and, past the front, of a step. -/
theorem commandsLeaveTheQueue : Obligations.CommandsLeaveTheQueue := by
  refine ⟨fun c s t ht => ?_, fun s t ht => ?_⟩
  · obtain ⟨hqueue, -, -, -⟩ := kept_of_exec ht
    exact hqueue
  · obtain ⟨hqueue, -, -, -⟩ := kept_of_step ht
    exact hqueue

/-- Settles O56: the operations that write fuses blow them or raise a rollback fuse, and every other leaves them. -/
theorem fusesNeverUnblow : Obligations.FusesNeverUnblow := by
  intro s t ht
  obtain ⟨-, hfuses, -, -⟩ := kept_of_step ht
  exact hfuses

/-- Settles O58: host memory is written byte by byte, and the table of hearths hearth by hearth. -/
theorem canonicalFormIsKept : Obligations.CanonicalFormIsKept := by
  rintro s t ⟨hmem, hhearths⟩ ht
  obtain ⟨-, -, hmem', hhearths'⟩ := kept_of_step ht
  exact ⟨hmem' hmem, hhearths' hhearths⟩

/-- Settles O3: `exec` and `step` answer next states alone. -/
theorem everyCommandAnswersANextState : Obligations.EveryCommandAnswersANextState := by
  refine ⟨fun c s => ?_, fun s => ?_⟩
  · obtain ⟨t, ht, -⟩ := steps_exec c s
    exact ⟨t, ht⟩
  · obtain ⟨t, ht, -⟩ := steps_step s
    exact ⟨t, ht⟩

end Sys2Proof.Machine

/-! The bytes of command packets (Table 12-4): a field at a byte offset of a little-endian number is the number of its own bytes,
and what a packet's bytes spell is a well-formed command. -/

namespace Sys2Proof.Machine

/-! ### Little-endian fields -/

@[simp] theorem length_leBytes (n v : Nat) : (leBytes n v).length = n := by
  induction n generalizing v with
  | zero => rfl
  | succ n ih => rw [leBytes, List.length_cons, ih]

theorem leNum_leBytes (n v : Nat) : leNum (leBytes n v) = v % 2 ^ (8 * n) := by
  induction n generalizing v with
  | zero => rw [leBytes, leNum, Nat.mul_zero, Nat.pow_zero, Nat.mod_one]
  | succ n ih =>
    rw [leBytes, leNum, ih, BitVec.toNat_ofNat, Nat.mul_succ, Nat.add_comm (8 * n) 8, Nat.pow_add, Nat.mod_mul]

theorem leNum_lt (bs : List Byte) : leNum bs < 2 ^ (8 * bs.length) := by
  induction bs with
  | nil => exact Nat.one_pos
  | cons b bs ih =>
    have hb := b.isLt
    rw [leNum, List.length_cons, Nat.mul_succ, Nat.add_comm (8 * bs.length) 8, Nat.pow_add]
    omega

theorem leNum_append (a b : List Byte) : leNum (a ++ b) = leNum a + 2 ^ (8 * a.length) * leNum b := by
  induction a with
  | nil => rw [List.nil_append, leNum, List.length_nil, Nat.mul_zero, Nat.pow_zero, Nat.one_mul, Nat.zero_add]
  | cons x a ih =>
    rw [List.cons_append, leNum, leNum, ih, List.length_cons, Nat.mul_succ, Nat.add_comm (8 * a.length) 8, Nat.pow_add]
    rw [show (2 : Nat) ^ 8 = 256 from rfl, Nat.mul_add, Nat.mul_assoc, Nat.add_assoc]

/-- The bytes of list element i, which stand at byte lo of the whole, are its field there. -/
theorem leNum_flatten_field {l : List (List Byte)} {b : List Byte} (i : Nat) {lo n : Nat} (hb : l[i]? = some b)
    (hlo : (l.take i).flatten.length = lo) (hn : b.length = n) :
    leNum l.flatten / 2 ^ (8 * lo) % 2 ^ (8 * n) = leNum b := by
  subst hlo hn
  obtain ⟨hi, hb⟩ := List.getElem?_eq_some_iff.1 hb
  have hsplit : l.flatten = (l.take i).flatten ++ (b ++ (l.drop (i + 1)).flatten) := by
    rw [← List.flatten_cons, ← List.flatten_append, ← hb, ← List.drop_eq_getElem_cons hi, List.take_append_drop]
  rw [hsplit, leNum_append, leNum_append, Nat.add_mul_div_left _ _ (Nat.two_pow_pos _), Nat.div_eq_of_lt (leNum_lt _),
    Nat.zero_add, Nat.add_mul_mod_self_left, Nat.mod_eq_of_lt (leNum_lt b)]

/-- A word written in its bytes reads back. -/
theorem ofNat_leNum_leBytes {w : Nat} (n : Nat) (x : BitVec w) (hw : w = 8 * n) :
    BitVec.ofNat w (leNum (leBytes n x.toNat)) = x := by
  rw [leNum_leBytes, ← hw, Nat.mod_eq_of_lt x.isLt, BitVec.ofNat_toNat, BitVec.setWidth_eq]

/-! ### The packet -/

/-- The bytes of the fields of a packet, in the order of Table 12-4. -/
def packetFields (code : Nat) (p : Pkt) : List (List Byte) :=
  [leBytes 2 code, [p.flags], [p.slots], leBytes 4 p.hostTag.toNat, leBytes 2 p.hearths.toNat, leBytes 2 p.workload.toNat,
    leBytes 4 p.rsvd.toNat, leBytes 1008 p.par.toNat]

theorem pktBytes_eq_flatten (code : Nat) (p : Pkt) : pktBytes code p = (packetFields code p).flatten := by
  simp only [pktBytes, packetFields, List.flatten_cons, List.flatten_nil, List.append_nil, List.append_assoc,
    List.cons_append, List.nil_append]

/-- Field i of a packet's bytes, n bytes from byte lo. -/
theorem field_pktBytes (code : Nat) (p : Pkt) (i lo n : Nat) {b : List Byte} (hb : (packetFields code p)[i]? = some b)
    (hlo : (((packetFields code p).take i).map List.length).sum = lo) (hn : b.length = n) :
    leNum (pktBytes code p) / 2 ^ (8 * lo) % 2 ^ (8 * n) = leNum b := by
  rw [pktBytes_eq_flatten]
  exact leNum_flatten_field i hb (List.length_flatten.trans hlo) hn

theorem ofNat_leNum_singleton (b : Byte) : BitVec.ofNat 8 (leNum [b]) = b := by
  rw [leNum, leNum, Nat.mul_zero, Nat.add_zero, BitVec.ofNat_toNat, BitVec.setWidth_eq]

/-- Settles O5: each field of Table 12-4 reads back from its place, and the opcode with them. -/
theorem packetBytesReadBack : Obligations.PacketBytesReadBack := by
  intro code p hcode
  have hopcode : leNum (pktBytes code p) / 2 ^ (8 * 0) % 2 ^ (8 * 2) = code := by
    rw [field_pktBytes code p 0 0 2 rfl rfl (length_leBytes _ _), leNum_leBytes]
    exact Nat.mod_eq_of_lt hcode
  have hflags : BitVec.ofNat 8 (leNum (pktBytes code p) / 2 ^ (8 * 2) % 2 ^ (8 * 1)) = p.flags := by
    rw [field_pktBytes code p 1 2 1 rfl rfl rfl, ofNat_leNum_singleton]
  have hslots : BitVec.ofNat 8 (leNum (pktBytes code p) / 2 ^ (8 * 3) % 2 ^ (8 * 1)) = p.slots := by
    rw [field_pktBytes code p 2 3 1 rfl rfl rfl, ofNat_leNum_singleton]
  have htag : BitVec.ofNat 32 (leNum (pktBytes code p) / 2 ^ (8 * 4) % 2 ^ (8 * 4)) = p.hostTag := by
    rw [field_pktBytes code p 3 4 4 rfl rfl (length_leBytes _ _), ofNat_leNum_leBytes 4 _ rfl]
  have hhearths : BitVec.ofNat 16 (leNum (pktBytes code p) / 2 ^ (8 * 8) % 2 ^ (8 * 2)) = p.hearths := by
    rw [field_pktBytes code p 4 8 2 rfl rfl (length_leBytes _ _), ofNat_leNum_leBytes 2 _ rfl]
  have hworkload : BitVec.ofNat 16 (leNum (pktBytes code p) / 2 ^ (8 * 10) % 2 ^ (8 * 2)) = p.workload := by
    rw [field_pktBytes code p 5 10 2 rfl rfl (length_leBytes _ _), ofNat_leNum_leBytes 2 _ rfl]
  have hrsvd : BitVec.ofNat 32 (leNum (pktBytes code p) / 2 ^ (8 * 12) % 2 ^ (8 * 4)) = p.rsvd := by
    rw [field_pktBytes code p 6 12 4 rfl rfl (length_leBytes _ _), ofNat_leNum_leBytes 4 _ rfl]
  have hpar : BitVec.ofNat 8064 (leNum (pktBytes code p) / 2 ^ (8 * 16) % 2 ^ (8 * 1008)) = p.par := by
    rw [field_pktBytes code p 7 16 1008 rfl rfl (length_leBytes _ _), ofNat_leNum_leBytes 1008 _ rfl]
  unfold decodePacket
  dsimp only
  rw [hopcode, hflags, hslots, htag, hhearths, hworkload, hrsvd, hpar]

/-- The rows of an opcode are well formed for the selectors that choose them. -/
theorem wf_of_packetOf {code : Nat} {p : Pkt} {c : Instr} (hp : p.src.wf = true) (h : packetOf code p = some c) :
    c.wf = true := by
  unfold packetOf at h
  dsimp only at h
  split at h
  -- an opcode of no row
  case h_39 => cases h
  -- the opcodes whose rows the selector tells apart
  case h_13 | h_33 | h_34 =>
    obtain rfl := Option.some.inj h
    by_cases h1 : p.selector = 1
    · simp [Instr.wf, hp, h1]
    · by_cases h2 : p.selector = 2 <;> simp [Instr.wf, hp, h1, h2]
  case h_21 | h_26 | h_31 | h_37 =>
    obtain rfl := Option.some.inj h
    by_cases h1 : p.selector = 1 <;> simp [Instr.wf, hp, h1]
  -- the opcodes of one row
  all_goals exact Option.some.inj h ▸ hp

/-- Settles O6: the packet keeps its source, and its opcode's row is chosen by its selector. -/
theorem decodedPacketsAreWellFormed : Obligations.DecodedPacketsAreWellFormed :=
  fun _ _ _ hsrc h => wf_of_packetOf hsrc h

end Sys2Proof.Machine

/-! Memories: what a write of bytes leaves, in host memory and in a hearth's (R239, R399), and the 72/64 code (R411, R412), whose
columns are distinct and of odd weight: two wrong bits make a syndrome of even weight, which no single one does. -/

namespace Sys2Proof.Machine

/-! ### Bytes written -/

/-- What a canonical memory with ranges of free values reads as after bytes are written: the byte written, or what was there. -/
theorem rdByte_memPuts (m : Mem) (w : List (Nat × Nat × Nat)) (a : Nat) (bs : List Byte) (j : Nat) (h : Memory.wf m = true) :
    rdByte (memPuts m a bs) (unwild w a (a + bs.length)) j =
      if a ≤ j ∧ j < a + bs.length then bs.getD (j - a) 0 else rdByte m w j := by
  unfold rdByte
  rw [wildAt_unwild, mget_memPuts m a bs j h]
  by_cases hj : a ≤ j ∧ j < a + bs.length
  · simp only [if_pos hj]
  · simp only [if_neg hj]

theorem getD_fillBytes (pattern a n i : Nat) (h : i < n) :
    (fillBytes pattern a n).getD i 0 = BitVec.ofNat 8 (pattern / 256 ^ ((a + i) % 8)) := by
  simp only [fillBytes, List.getD_eq_getElem?_getD, List.getElem?_map, List.getElem?_range h, Option.map_some, Option.getD_some]

@[simp] theorem length_fillBytes (pattern a n : Nat) : (fillBytes pattern a n).length = n := by
  rw [fillBytes, List.length_map, List.length_range]

/-- A copy of sound bytes to host memory is a write of host memory. -/
theorem copyWrite_host (s : State) (w : Nat) (bs : List Byte) (h : spaceOf w = false) :
    copyWrite s w bs [] = hostWrite s (hostAddr w) bs := by
  simp only [copyWrite, h, Bool.false_eq_true, if_false, List.foldl_nil]

/-- Settles O13: FILL's write of host memory is a write of its bytes, byte by byte. -/
theorem fillOfHostMemoryWritesExactlyItsBytes : Obligations.FillOfHostMemoryWritesExactlyItsBytes := by
  intro s w pattern n hspace hwf t
  have ht : t = hostWrite s (hostAddr w) (fillBytes pattern (hostAddr w) n) := copyWrite_host s w _ hspace
  rw [ht]
  refine ⟨fun i hi => ?_, fun a ha => ?_, hostWrite_hearths _ _ _, (hostWrite_follows _ _ _).mem hwf⟩
  · rw [hostByte_hostWrite _ _ _ _ hwf, length_fillBytes, if_pos (by omega), Nat.add_sub_cancel_left, getD_fillBytes _ _ _ _ hi]
  · rw [hostByte_hostWrite _ _ _ _ hwf, length_fillBytes, if_neg (by omega)]

/-! ### A hearth's memory -/

/-- A byte of a hearth that holds no error pattern reads as it is stored. -/
theorem hByte_of_no_errs (hh : Hearth) (a : Nat) (h : hh.errs = []) : hByte hh a = rdByte hh.mem hh.wild a := by
  have hpattern : errAt hh (a / 8) = (0, 0) := by rw [errAt, h]; rfl
  have hclean : wordReads hh (a / 8) = .clean := by rw [wordReads, hpattern]; decide +kernel
  rw [hByte, hclean]

/-- A write of bytes leaves no error pattern where there was none. -/
theorem hWrite_errs (hh : Hearth) (a : Nat) (bs : List Byte) (h : hh.errs = []) : (hWrite hh a bs).errs = [] := by
  unfold hWrite
  split
  · exact h
  · simp only

/-- A byte of a hearth after bytes are written there. -/
theorem hByte_hWrite (hh : Hearth) (a : Nat) (bs : List Byte) (j : Nat) (hm : Memory.wf hh.mem = true) (he : hh.errs = []) :
    hByte (hWrite hh a bs) j = if a ≤ j ∧ j < a + bs.length then bs.getD (j - a) 0 else hByte hh j := by
  rw [hByte_of_no_errs _ _ (hWrite_errs hh a bs he), hByte_of_no_errs _ _ he]
  unfold hWrite
  split
  case isTrue hnil => rw [hnil, List.length_nil, if_neg (by omega)]
  case isFalse => exact rdByte_memPuts hh.mem hh.wild a bs j hm

/-- A write of bytes changes the memory, its ranges of free values and its error patterns alone. -/
theorem hWrite_frame (hh : Hearth) (a : Nat) (bs : List Byte) :
    { hWrite hh a bs with mem := hh.mem, wild := hh.wild, errs := hh.errs } = hh := by
  unfold hWrite
  split <;> rfl

/-- Settles O26: a hearth without error patterns reads as its memory, and a write is one of bytes. -/
theorem hearthWritesReadBackAndFrameTheRest : Obligations.HearthWritesReadBackAndFrameTheRest := by
  intro hh a bs hm he
  have herrs := hWrite_errs hh a bs he
  refine ⟨fun i hi => ?_, fun b hb => ?_, hWrite_wf hh a bs hm, herrs, ?_⟩
  · rw [hByte_hWrite _ _ _ _ hm he, if_pos (by omega), Nat.add_sub_cancel_left]
  · rw [hByte_hWrite _ _ _ _ hm he, if_neg (by omega)]
  · have hframe := hWrite_frame hh a bs
    rwa [he, ← herrs] at hframe

/-! ### Parity -/

/-- A sum without carries is, modulo 2, the sum. -/
theorem xor_mod_two (x y : Nat) : (x ^^^ y) % 2 = (x + y) % 2 := by
  have hone := @Nat.xor_mod_two_eq_one x y
  omega

/-- The number of set bits of a sum without carries is, modulo 2, that of both together. -/
theorem popcount_xor_mod_two (n x y : Nat) : popcount n (x ^^^ y) % 2 = (popcount n x + popcount n y) % 2 := by
  induction n generalizing x y with
  | zero => rfl
  | succ n ih =>
    have hbit := xor_mod_two x y
    have hrest := ih (x / 2) (y / 2)
    rw [← Nat.xor_div_two] at hrest
    simp only [popcount]
    omega

/-- The parity of a word is linear. -/
theorem parity64_xor (x y : W64) : parity64 (x ^^^ y) = (parity64 x ^^ parity64 y) := by
  have h := popcount_xor_mod_two 64 x.toNat y.toNat
  unfold parity64
  rw [BitVec.toNat_xor, h]
  rcases Nat.mod_two_eq_zero_or_one (popcount 64 x.toNat) with hx | hx <;>
    rcases Nat.mod_two_eq_zero_or_one (popcount 64 y.toNat) with hy | hy <;>
    simp [Nat.add_mod, hx, hy]

/-- A sum of a number and a bit that it lacks has no carry. -/
theorem add_two_pow_of_not_testBit (x j : Nat) (h : x.testBit j = false) : x + 2 ^ j = x ^^^ 2 ^ j := by
  induction j generalizing x with
  | zero =>
    have hx : x % 2 = 0 := by simpa [Nat.testBit_zero] using h
    have hdiv := @Nat.xor_div_two x 1
    have hmod := xor_mod_two x 1
    simp only [Nat.reduceDiv, Nat.xor_zero] at hdiv
    simp only [Nat.pow_zero]
    omega
  | succ j ih =>
    have hhalf := ih (x / 2) (by rwa [← Nat.testBit_succ])
    have hdiv := @Nat.xor_div_two x (2 ^ (j + 1))
    have hmod := xor_mod_two x (2 ^ (j + 1))
    rw [Nat.pow_succ, Nat.mul_div_cancel _ (by decide), ← hhalf] at hdiv
    rw [Nat.pow_succ] at hmod ⊢
    omega

/-- Bit i of the mask of a list of positions. -/
theorem testBit_maskOf_foldl (l : List Nat) (a i : Nat) :
    (l.foldl (fun a i => if nbit a i then a else a + 2 ^ i) a).testBit i = (a.testBit i || decide (i ∈ l)) := by
  induction l generalizing a with
  | nil => simp
  | cons j l ih =>
    rw [List.foldl_cons, ih]
    rw [nbit_eq_testBit]
    by_cases hbit : a.testBit j = true
    · by_cases hij : i = j <;> simp [hbit, hij]
    · have hsum := add_two_pow_of_not_testBit a j (by simpa using hbit)
      by_cases hij : j = i
      · subst hij
        simp [hbit, hsum]
      · simp [hbit, hij, hsum, Ne.symm hij]

theorem testBit_maskOf (l : List Nat) (i : Nat) : (maskOf l).testBit i = decide (i ∈ l) := by
  rw [maskOf, testBit_maskOf_foldl, Nat.zero_testBit, Bool.false_or]

/-- Bit i of a check byte is the parity under M_0 rotated left by 8i bits (R411). -/
theorem getLsbD_checkByte (d : W64) (i : Nat) (h : i < 8) :
    (checkByte d).getLsbD i = parity64 (d &&& eccMask0.rotateLeft (8 * i)) := by
  simp only [checkByte, BitVec.getLsbD_ofNat, testBit_maskOf, List.mem_filter, List.mem_range, h, decide_true, Bool.true_and, true_and, Bool.decide_eq_true]

/-- A mask selects from a sum of two words what it selects from both. -/
theorem xor_and (x y m : W64) : (x ^^^ y) &&& m = (x &&& m) ^^^ (y &&& m) := by
  apply BitVec.eq_of_toNat_eq
  simp only [BitVec.toNat_and, BitVec.toNat_xor, Nat.and_xor_distrib_right]

/-- The check byte is linear. -/
theorem checkByte_xor (x y : W64) : checkByte (x ^^^ y) = checkByte x ^^^ checkByte y := by
  apply BitVec.eq_of_getLsbD_eq
  intro i hi
  rw [BitVec.getLsbD_xor, getLsbD_checkByte _ _ hi, getLsbD_checkByte _ _ hi, getLsbD_checkByte _ _ hi, xor_and, parity64_xor]

/-! ### The columns of the code -/

/-- The check bytes of the words with one set data bit, by the bit. -/
def eccColumns : List Byte := [7, 11, 19, 35, 67, 21, 37, 31, 14, 22, 38, 70, 134, 42, 74, 62, 28, 44, 76, 140, 13, 84, 148, 124,
  56, 88, 152, 25, 26, 168, 41, 248, 112, 176, 49, 50, 52, 81, 82, 241, 224, 97, 98, 100, 104, 162, 164, 227, 193, 194, 196, 200,
  208, 69, 73, 199, 131, 133, 137, 145, 161, 138, 146, 143]

/-- The column of data bit j. -/
def eccColumn (j : Nat) : Byte := eccColumns.getD j 0

theorem checkByte_two_pow : ∀ j, j < 64 → checkByte (BitVec.ofNat 64 (2 ^ j)) = eccColumn j := by decide +kernel

/-- The search of a syndrome's data bit, over the columns. -/
theorem find_dataBit (syn : Byte) :
    (List.range 64).find? (fun j => checkByte (BitVec.ofNat 64 (2 ^ j)) == syn) = (List.range 64).find? (fun j => eccColumn j == syn) := by
  have hsame : ∀ j ∈ List.range 64, (checkByte (BitVec.ofNat 64 (2 ^ j)) == syn) = (eccColumn j == syn) := fun j hj => by
    rw [checkByte_two_pow j (List.mem_range.mp hj)]
  rw [← List.head?_filter, ← List.head?_filter, List.filter_congr hsame]

/-- Every column has odd weight. -/
theorem eccColumn_odd : ∀ j, j < 64 → popcount 8 (eccColumn j).toNat % 2 = 1 := by decide +kernel

/-- A check bit alone has weight one. -/
theorem checkBit_odd : ∀ j, j < 8 → popcount 8 (BitVec.ofNat 8 (2 ^ j)).toNat = 1 := by decide

/-- A syndrome of even weight, neither clean nor the poison's, is that of no single error. -/
theorem syndromeMeaning_of_even (syn : Byte) (heven : popcount 8 syn.toNat % 2 = 0) (h0 : syn ≠ 0) (hpoison : syn ≠ 0xFF) :
    syndromeMeaning syn = .uncorrectable := by
  have hnone : (List.range 64).find? (fun j => eccColumn j == syn) = none := by
    rw [List.find?_eq_none]
    intro j hj hsyn
    have hodd := eccColumn_odd j (List.mem_range.mp hj)
    rw [eq_of_beq hsyn] at hodd
    omega
  have hone : popcount 8 syn.toNat ≠ 1 := by omega
  simp only [syndromeMeaning, find_dataBit, hnone, if_neg h0, if_neg hpoison, if_neg hone]

/-- The sum of two syndromes of odd weight has even weight. -/
theorem popcount_xor_even (x y : Byte) (hx : popcount 8 x.toNat % 2 = 1) (hy : popcount 8 y.toNat % 2 = 1) :
    popcount 8 (x ^^^ y).toNat % 2 = 0 := by
  rw [BitVec.toNat_xor, popcount_xor_mod_two]
  omega

/-- The pairs of data bits whose syndrome is the poison's (R412). -/
abbrev PoisonPair (i j : Nat) : Prop :=
  (i % 8 = 7 ∧ j = 8 * ((i / 8 + 5) % 8)) ∨ (j % 8 = 7 ∧ i = 8 * ((j / 8 + 5) % 8))

/-- Two columns differ, and add up to the poison's syndrome in the eight pairs alone. -/
theorem eccColumn_pair : ∀ i, i < 64 → ∀ j, j < 64 → i < j →
    eccColumn i ^^^ eccColumn j ≠ 0 ∧ (eccColumn i ^^^ eccColumn j = 0xFF ↔ PoisonPair i j) := by decide +kernel

/-- No column is, or completes, a check bit. -/
theorem eccColumn_checkBit : ∀ i, i < 64 → ∀ j, j < 8 →
    eccColumn i ^^^ BitVec.ofNat 8 (2 ^ j) ≠ 0 ∧ eccColumn i ^^^ BitVec.ofNat 8 (2 ^ j) ≠ 0xFF := by decide +kernel

/-- A sum of two distinct bits has no carry. -/
theorem two_pow_add_two_pow (i j : Nat) (h : i < j) : 2 ^ i + 2 ^ j = 2 ^ i ^^^ 2 ^ j := by
  rw [add_two_pow_of_not_testBit _ _ (by rw [Nat.testBit_two_pow]; simpa using Nat.ne_of_lt h)]

/-- One wrong data bit reads corrected at that bit. -/
theorem syndromeMeaning_eccColumn : ∀ j, j < 64 → syndromeMeaning (eccColumn j) = .data j := by
  have hfind : ∀ j, j < 64 → eccColumn j ≠ 0 ∧ eccColumn j ≠ 0xFF ∧
      (List.range 64).find? (fun k => eccColumn k == eccColumn j) = some j := by decide +kernel
  intro j hj
  obtain ⟨h0, hpoison, hsome⟩ := hfind j hj
  simp only [syndromeMeaning, find_dataBit, hsome, if_neg h0, if_neg hpoison]

/-- One wrong check bit reads corrected. -/
theorem syndromeMeaning_checkBit : ∀ j, j < 8 → syndromeMeaning (BitVec.ofNat 8 (2 ^ j)) = .check := by decide +kernel

/-- Two wrong data bits read uncorrectable, or poisoned. -/
theorem syndromeMeaning_dataPair (i j : Nat) (hij : i < j) (hj : j < 64) :
    syndromeMeaning (eccColumn i ^^^ eccColumn j) = if PoisonPair i j then .poisoned else .uncorrectable := by
  obtain ⟨h0, hpair⟩ := eccColumn_pair i (by omega) j hj hij
  by_cases hp : PoisonPair i j
  · rw [if_pos hp, hpair.mpr hp]
    rfl
  · rw [if_neg hp]
    exact syndromeMeaning_of_even _ (popcount_xor_even _ _ (eccColumn_odd i (by omega)) (eccColumn_odd j hj)) h0 (mt hpair.mp hp)

/-- A wrong data bit with a wrong check bit reads uncorrectable. -/
theorem syndromeMeaning_dataCheck (i j : Nat) (hi : i < 64) (hj : j < 8) :
    syndromeMeaning (eccColumn i ^^^ BitVec.ofNat 8 (2 ^ j)) = .uncorrectable := by
  obtain ⟨h0, hpoison⟩ := eccColumn_checkBit i hi j hj
  have hodd : popcount 8 (BitVec.ofNat 8 (2 ^ j)).toNat % 2 = 1 := by rw [checkBit_odd j hj]
  exact syndromeMeaning_of_even _ (popcount_xor_even _ _ (eccColumn_odd i hi) hodd) h0 hpoison

/-- Two wrong check bits read uncorrectable. -/
theorem syndromeMeaning_checkPair (i j : Nat) (hij : i < j) (hj : j < 8) :
    syndromeMeaning (BitVec.ofNat 8 (2 ^ i) ^^^ BitVec.ofNat 8 (2 ^ j)) = .uncorrectable := by
  have hne : ∀ i, i < 8 → ∀ j, j < 8 → i < j → (BitVec.ofNat 8 (2 ^ i) ^^^ BitVec.ofNat 8 (2 ^ j) : Byte) ≠ 0 ∧
      (BitVec.ofNat 8 (2 ^ i) ^^^ BitVec.ofNat 8 (2 ^ j) : Byte) ≠ 0xFF := by decide
  obtain ⟨h0, hpoison⟩ := hne i (by omega) j hj hij
  have hi : popcount 8 (BitVec.ofNat 8 (2 ^ i)).toNat % 2 = 1 := by rw [checkBit_odd i (by omega)]
  have hj' : popcount 8 (BitVec.ofNat 8 (2 ^ j)).toNat % 2 = 1 := by rw [checkBit_odd j hj]
  exact syndromeMeaning_of_even _ (popcount_xor_even _ _ hi hj') h0 hpoison

theorem xor_xor_xor_swap (a b c d : Byte) : (a ^^^ b) ^^^ (c ^^^ d) = (a ^^^ c) ^^^ (b ^^^ d) := by ac_rfl

theorem checkByte_zero : checkByte 0 = 0 := by decide +kernel

/-- A pattern of the check byte alone is its own syndrome. -/
theorem errSyndrome_check (e : Byte) : errSyndrome (0, e) = e := by
  simp only [errSyndrome, checkByte_zero]
  exact BitVec.zero_xor

/-- A pattern of the data alone has its check byte as syndrome. -/
theorem errSyndrome_data (d : W64) : errSyndrome (d, 0) = checkByte d := BitVec.xor_zero

/-- Settles O27: the columns are distinct and of odd weight, so two wrong bits make a syndrome of even weight, which none
of the single errors has; the eight pairs of columns that add up to the poison's syndrome read poisoned. -/
theorem codeCorrectsSingleAndDetectsDoubleErrors : Obligations.CodeCorrectsSingleAndDetectsDoubleErrors := by
  refine ⟨⟨checkByte_zero, rfl, fun j hj => ?_, fun j hj => ?_, fun i j hij hj => ?_, fun i j hi hj => ?_, fun i j hij hj => ?_, ?_⟩,
    fun a b => ?_⟩
  · rw [errSyndrome_data, checkByte_two_pow j hj, syndromeMeaning_eccColumn j hj]
  · rw [errSyndrome_check, syndromeMeaning_checkBit j hj]
  · rw [errSyndrome_data, two_pow_add_two_pow i j hij, BitVec.ofNat_xor, checkByte_xor, checkByte_two_pow i (by omega),
      checkByte_two_pow j hj, syndromeMeaning_dataPair i j hij hj]
  · rw [errSyndrome, checkByte_two_pow i hi, syndromeMeaning_dataCheck i j hi hj]
  · rw [errSyndrome_check, two_pow_add_two_pow i j hij, BitVec.ofNat_xor, syndromeMeaning_checkPair i j hij hj]
  · rw [poisonErr, errSyndrome_check]; rfl
  · simp only [errSyndrome]
    rw [checkByte_xor, xor_xor_xor_swap]

end Sys2Proof.Machine

/-! Power tokens (R474, R475): a share moves tokens between the hearths and the pool. The reports return what a hearth holds above its
grant, the budget follows the cap, and each grant comes out of the pool. -/

namespace Sys2Proof.Machine

/-! ### What the hearths hold together -/

/-- The tokens that the hearths hold together. -/
def heldTokens (s : State) : Nat := (allHearths.map fun h => (hearthOf s h).tokens).sum

theorem foldl_add_eq_sum (l : List Nat) (f : Nat → Nat) (a : Nat) : l.foldl (fun a h => a + f h) a = a + (l.map f).sum := by
  induction l generalizing a with
  | nil => rfl
  | cons h l ih => rw [List.foldl_cons, ih, List.map_cons, List.sum_cons, Nat.add_assoc]

theorem totalTokens_eq (s : State) : totalTokens s = s.power.pool + heldTokens s := foldl_add_eq_sum _ _ _

/-- A sum of which one place changes. -/
theorem sum_map_of_eq_off {l : List Nat} {h : Nat} {f g : Nat → Nat} (hnodup : l.Nodup) (hmem : h ∈ l)
    (hoff : ∀ k ∈ l, k ≠ h → g k = f k) : (l.map g).sum + f h = (l.map f).sum + g h := by
  have hperm := List.perm_cons_erase hmem
  have hrest : (l.erase h).map g = (l.erase h).map f := List.map_congr_left fun k hk =>
    have hk' := (hnodup.mem_erase_iff).mp hk
    hoff k hk'.2 hk'.1
  rw [(hperm.map g).sum_nat, (hperm.map f).sum_nat, List.map_cons, List.map_cons, List.sum_cons, List.sum_cons, hrest]
  omega

theorem heldTokens_updH (s : State) (h : Nat) (f : Hearth → Hearth) (hw : smapWf ({} : Hearth) s.hearths = true) (hh : h < 9) :
    heldTokens (updH s h f) + (hearthOf s h).tokens = heldTokens s + (f (hearthOf s h)).tokens := by
  have hsum := sum_map_of_eq_off (l := allHearths) (h := h) (f := fun k => (hearthOf s k).tokens)
    (g := fun k => (hearthOf (updH s h f) k).tokens) List.nodup_range (List.mem_range.mpr hh)
    (fun k _ hk => by simp only [updH, hearthOf_putH s h k _ hw hh, if_neg hk])
  rwa [hearthOf_updH s h f hw hh] at hsum

/-! ### A share changes tokens, grants and demands alone -/

/-- A hearth but for its tokens, its grant and its demand. -/
def SameButTokens (a b : Hearth) : Prop := { b with tokens := a.tokens, grant := a.grant, demand := a.demand } = a

/-- A module but for the tokens, the grants and the demands of its hearths. -/
structure TokensOnly (s t : State) : Prop where
  rest : { t with hearths := s.hearths } = s
  wf : smapWf ({} : Hearth) s.hearths = true → smapWf ({} : Hearth) t.hearths = true
  hearths : smapWf ({} : Hearth) s.hearths = true → ∀ h, SameButTokens (hearthOf s h) (hearthOf t h)

namespace TokensOnly
variable {s t u : State}

protected theorem refl (s : State) : TokensOnly s s := ⟨rfl, id, fun _ _ => rfl⟩

theorem sameButTokens_trans {a b c : Hearth} (h : SameButTokens a b) (k : SameButTokens b c) : SameButTokens a c := by
  unfold SameButTokens at *
  rw [← h, ← k]

protected theorem trans (h : TokensOnly s t) (k : TokensOnly t u) : TokensOnly s u where
  rest := by rw [← h.rest, ← k.rest]
  wf hw := k.wf (h.wf hw)
  hearths hw g := sameButTokens_trans (h.hearths hw g) (k.hearths (h.wf hw) g)

protected theorem updH (k : TokensOnly s t) (h : Nat) (f : Hearth → Hearth) (hf : ∀ a, SameButTokens a (f a)) :
    TokensOnly s (updH t h f) :=
  k.trans {
    rest := by unfold updH putH; split <;> rfl
    wf := (updH_follows t h f).hearths
    hearths := fun hw g => by
      by_cases hh : h < 9
      · rw [updH, hearthOf_putH t h g _ hw hh]
        split
        · next hg => rw [hg]; exact hf _
        · exact rfl
      · rw [updH, putH, if_neg hh]
        exact rfl }

protected theorem foldl {l : List Nat} {f : State → Nat → State} (k : TokensOnly s t)
    (hf : ∀ t h, TokensOnly s t → TokensOnly s (f t h)) : TokensOnly s (l.foldl f t) := by
  induction l generalizing t with
  | nil => exact k
  | cons h l ih => exact ih (hf t h k)

theorem tokenBudget_eq (k : TokensOnly s t) : tokenBudget t = tokenBudget s := by rw [← k.rest]; rfl

theorem power_eq (k : TokensOnly s t) : t.power = s.power := by rw [← k.rest]

/-- The power record apart, which a share writes too. -/
theorem rest_power (k : TokensOnly s t) (p : Power) :
    { ({ t with power := p } : State) with hearths := s.hearths, power := s.power } = s := by
  rw [← k.power_eq]
  exact k.rest

end TokensOnly

/-! ### The parts of a share -/

/-- What a hearth may keep when it reports: its last grant (R475). -/
def keepable (hh : Hearth) : Nat := if reporting hh.st then hh.grant else 0

/-- A hearth's report: it keeps what its grant allows, and says its demand. -/
def reportTokens (demand : List Nat) (h : Nat) (hh : Hearth) : Hearth :=
  { hh with tokens := min hh.tokens (keepable hh), demand := if reporting hh.st then max 140 (demand.getD h 140) else 0 }

/-- The module after the reports. -/
def reportedTokens (demand : List Nat) (s : State) : State := onHearths s allHearths fun e hh => reportTokens demand e.h hh

/-- The tokens that the reports return to the pool. -/
def returnedTokens (s : State) : Nat := allHearths.foldl (fun a h => a + ((hearthOf s h).tokens - keepable (hearthOf s h))) 0

/-- The pool and the budget after the budget followed the cap (R475). -/
def budgetAfter (budget target pool : Nat) : Nat × Nat :=
  if budget ≤ target then (pool + (target - budget), target)
  else (pool - min pool (budget - target), budget - min pool (budget - target))

/-- One hearth's new grant: at most what it holds and the pool has. -/
def grantTokens (share : SMap Nat) (a : State × Nat) (h : Nat) : State × Nat :=
  let hh := hearthOf a.1 h
  let g := mget 0 share h
  if g ≤ hh.tokens then (updH a.1 h (fun hh => { hh with grant := g }), a.2)
  else
    let d := min (g - hh.tokens) a.2
    (updH a.1 h (fun hh => { hh with tokens := hh.tokens + d, grant := hh.tokens + d }), a.2 - d)

/-- The shares that the demands of the reporting hearths give. -/
def tokenShares (demand : List Nat) (s : State) : SMap Nat :=
  let hs := allHearths.filter fun h => reporting (hearthOf s h).st
  shareRound (fun h => max 140 (demand.getD h 140)) hs 64 (hs.map fun h => (h, 140))
    (tokenBudget (reportedTokens demand s) - 140 * hs.length)

/-- The module and the pool after the grants. -/
def grantedTokens (demand : List Nat) (s : State) (pool : Nat) : State × Nat :=
  (allHearths.filter fun h => reporting (hearthOf s h).st).foldl (grantTokens (tokenShares demand s)) (reportedTokens demand s, pool)

/-- The pool and the budget of a share, before its grants. -/
def budgetShared (demand : List Nat) (s : State) : Nat × Nat :=
  budgetAfter (reportedTokens demand s).power.budget (tokenBudget (reportedTokens demand s))
    ((reportedTokens demand s).power.pool + returnedTokens s)

/-- A share is the reports, the new budget and the grants. -/
theorem execTokenShare_eq (demand : List Nat) (s : State) (hc : s.power.controllerFailed = false) (hb : s.mod ≠ .boot) :
    execTokenShare demand s = .next
      { (grantedTokens demand s (budgetShared demand s).1).1 with
        power := { (grantedTokens demand s (budgetShared demand s).1).1.power with
          pool := (grantedTokens demand s (budgetShared demand s).1).2, budget := (budgetShared demand s).2 } } := by
  unfold execTokenShare
  rw [if_neg (by simp only [hc, hb, Bool.false_eq_true, or_self, not_false_eq_true])]
  rfl

/-- Without a power controller, and in BOOT, nothing is shared. -/
theorem execTokenShare_idle (demand : List Nat) (s : State) (h : s.power.controllerFailed = true ∨ s.mod = .boot) :
    execTokenShare demand s = .next s := by
  unfold execTokenShare
  rw [if_pos h]
  rfl

/-! ### Each part keeps the tokens -/

theorem tokensOnly_reportedTokens (demand : List Nat) (s : State) : TokensOnly s (reportedTokens demand s) :=
  (TokensOnly.refl s).foldl fun _ h k => k.updH h _ fun _ => rfl

theorem tokensOnly_grantTokens {s : State} (share : SMap Nat) (a : State × Nat) (h : Nat) (k : TokensOnly s a.1) :
    TokensOnly s (grantTokens share a h).1 := by
  unfold grantTokens
  extract_lets hh g d
  split
  · exact k.updH h (fun hh => { hh with grant := g }) fun _ => rfl
  · exact k.updH h (fun hh => { hh with tokens := hh.tokens + d, grant := hh.tokens + d }) fun _ => rfl

/-- The grants change tokens, grants and demands alone. -/
theorem tokensOnly_grantedTokens (demand : List Nat) (s : State) (pool : Nat) : TokensOnly s (grantedTokens demand s pool).1 := by
  have hgrants : ∀ (l : List Nat) (share : SMap Nat) (a : State × Nat), TokensOnly s a.1 →
      TokensOnly s (l.foldl (grantTokens share) a).1 := by
    intro l share
    induction l with
    | nil => exact fun _ k => k
    | cons h l ih => exact fun a k => ih _ (tokensOnly_grantTokens share a h k)
  exact hgrants _ _ _ (tokensOnly_reportedTokens demand s)

/-- What the reports leave with the hearths and return to the pool is what the hearths held: each list of hearths returns what
its own held above their grants. -/
theorem heldTokens_onHearths_report (demand : List Nat) (l : List Nat) (s : State) (hl : ∀ h ∈ l, h < 9) (hnodup : l.Nodup)
    (hw : smapWf ({} : Hearth) s.hearths = true) :
    heldTokens (onHearths s l fun e hh => reportTokens demand e.h hh)
      + (l.map fun h => (hearthOf s h).tokens - keepable (hearthOf s h)).sum = heldTokens s := by
  induction l generalizing s with
  | nil => rfl
  | cons h l ih =>
    obtain ⟨hh, hl⟩ := List.forall_mem_cons.mp hl
    obtain ⟨hnot, hnodup⟩ := List.nodup_cons.mp hnodup
    let t := updH s h (reportTokens demand h)
    have hwt : smapWf ({} : Hearth) t.hearths = true := (updH_follows s h _).hearths hw
    have hoff : (l.map fun k => (hearthOf t k).tokens - keepable (hearthOf t k)) =
        l.map fun k => (hearthOf s k).tokens - keepable (hearthOf s k) := List.map_congr_left fun k hk => by
      have hne : k ≠ h := fun e => hnot (e ▸ hk)
      simp only [t, updH, hearthOf_putH s h k _ hw hh, if_neg hne]
    have hrest := ih t hl hnodup hwt
    have hone := heldTokens_updH s h (reportTokens demand h) hw hh
    rw [hoff] at hrest
    rw [List.map_cons, List.sum_cons]
    change heldTokens (onHearths t l fun e hh => reportTokens demand e.h hh) + _ = _
    change heldTokens t + _ = heldTokens s + min _ _ at hone
    omega

theorem heldTokens_reportedTokens (demand : List Nat) (s : State) (hw : smapWf ({} : Hearth) s.hearths = true) :
    heldTokens (reportedTokens demand s) + returnedTokens s = heldTokens s := by
  rw [returnedTokens, foldl_add_eq_sum, Nat.zero_add]
  exact heldTokens_onHearths_report demand allHearths s (fun _ h => List.mem_range.mp h) List.nodup_range hw

/-- A grant takes from the pool what it gives. -/
theorem heldTokens_grantTokens (share : SMap Nat) (a : State × Nat) (h : Nat) (hh : h < 9)
    (hw : smapWf ({} : Hearth) a.1.hearths = true) :
    heldTokens (grantTokens share a h).1 + (grantTokens share a h).2 = heldTokens a.1 + a.2 := by
  unfold grantTokens
  extract_lets hh' g d
  split
  · have hone := heldTokens_updH a.1 h (fun hh => { hh with grant := g }) hw hh
    dsimp only at hone ⊢
    omega
  · have hone := heldTokens_updH a.1 h (fun hh => { hh with tokens := hh.tokens + d, grant := hh.tokens + d }) hw hh
    have hd : d ≤ a.2 := Nat.min_le_right _ _
    dsimp only at hone ⊢
    omega

theorem heldTokens_foldl_grantTokens (share : SMap Nat) (l : List Nat) (a : State × Nat) (hl : ∀ h ∈ l, h < 9)
    (hw : smapWf ({} : Hearth) a.1.hearths = true) :
    heldTokens (l.foldl (grantTokens share) a).1 + (l.foldl (grantTokens share) a).2 = heldTokens a.1 + a.2 := by
  induction l generalizing a with
  | nil => rfl
  | cons h l ih =>
    obtain ⟨hh, hl⟩ := List.forall_mem_cons.mp hl
    have hwf := (tokensOnly_grantTokens share a h (TokensOnly.refl _)).wf hw
    rw [List.foldl_cons, ih _ hl hwf, heldTokens_grantTokens share a h hh hw]

/-- The grants take from the pool what they give. -/
theorem heldTokens_grantedTokens (demand : List Nat) (s : State) (pool : Nat) (hw : smapWf ({} : Hearth) s.hearths = true) :
    heldTokens (grantedTokens demand s pool).1 + (grantedTokens demand s pool).2 = heldTokens (reportedTokens demand s) + pool :=
  heldTokens_foldl_grantTokens _ _ _ (fun _ h => List.mem_range.mp (List.mem_filter.mp h).1)
    ((tokensOnly_reportedTokens demand s).wf hw)

/-- The pool changes with the budget. -/
theorem budgetAfter_conserves (budget target pool : Nat) :
    (budgetAfter budget target pool).1 + budget = pool + (budgetAfter budget target pool).2 := by
  unfold budgetAfter
  split <;> dsimp only <;> omega

/-- The budget rises to that of the cap at once, and never falls below it. -/
theorem budgetAfter_follows (budget target pool : Nat) :
    (budget ≤ target → (budgetAfter budget target pool).2 = target) ∧ target ≤ (budgetAfter budget target pool).2 := by
  unfold budgetAfter
  split <;> dsimp only <;> omega

/-- The pool and the budget of a share, over the state it began in. -/
theorem budgetShared_eq (demand : List Nat) (s : State) :
    budgetShared demand s = budgetAfter s.power.budget (tokenBudget s) (s.power.pool + returnedTokens s) := by
  have k := tokensOnly_reportedTokens demand s
  rw [budgetShared, k.power_eq, k.tokenBudget_eq]

/-- What the hearths and the pool hold together changes as the budget does. -/
theorem execTokenShare_conserves (s t : State) (demand : List Nat) (hw : smapWf ({} : Hearth) s.hearths = true)
    (h : execTokenShare demand s = .next t) : totalTokens t + s.power.budget = totalTokens s + t.power.budget := by
  by_cases hidle : s.power.controllerFailed = true ∨ s.mod = .boot
  · rw [execTokenShare_idle demand s hidle] at h
    cases h
    rfl
  · obtain ⟨hc, hb⟩ := not_or.mp hidle
    rw [execTokenShare_eq demand s (by simpa using hc) hb] at h
    cases h
    have hgrants := heldTokens_grantedTokens demand s (budgetShared demand s).1 hw
    have hreports := heldTokens_reportedTokens demand s hw
    have hbudget := budgetAfter_conserves s.power.budget (tokenBudget s) (s.power.pool + returnedTokens s)
    rw [← budgetShared_eq demand s] at hbudget
    rw [totalTokens_eq, totalTokens_eq]
    change (grantedTokens demand s (budgetShared demand s).1).2 + heldTokens (grantedTokens demand s (budgetShared demand s).1).1 +
      s.power.budget = s.power.pool + heldTokens s + (budgetShared demand s).2
    omega

/-- Settles O33: the reports, the new budget and the grants each keep what the hearths and the pool hold together but for the
change of the budget. -/
theorem tokenSharesFollowTheBudget : Obligations.TokenSharesFollowTheBudget := by
  refine ⟨fun s demand hc hb => ⟨_, execTokenShare_eq demand s hc hb, ?_, ?_, ?_, ?_⟩, fun s t demand => execTokenShare_conserves s t demand⟩
  all_goals have k := tokensOnly_grantedTokens demand s (budgetShared demand s).1
  · exact k.rest_power _
  · dsimp only
    rw [k.power_eq]
  · exact k.hearths
  · dsimp only
    rw [budgetShared_eq]
    exact budgetAfter_follows _ _ _

end Sys2Proof.Machine

/-! Sequenced cells in an open context (R295, R296). -/

namespace Sys2Proof.Machine

/-- No cell ahead is held where RXMAP is clear. -/
theorem heldRun_of_clear (p : PeerCtx) (h : p.rxmap = 0) :
    (List.range 32).foldl (fun (a : Nat × Bool) j => if a.2 && nbit p.rxmap.toNat j then (a.1 + 1, true) else (a.1, false)) (0, true) =
      (0, false) := by
  rw [h]
  decide

section
variable {e : Env} {hh : Hearth} {i m d : Nat} {c : Cell} {p : PeerCtx}
variable (hp : peerOf hh i = p) (hfree : ctxFree p m d = true) (hst : p.st = .open) (hepoch : (hdrOf c).epoch = p.rxEpoch)
include hp hfree hst hepoch

/-- The cell with the expected number, with none held ahead of it, is delivered alone (R295). -/
theorem acceptSeq_expected (hseq : BitVec.ofNat 16 (hdrOf c).seq = p.expect) (hmap : p.rxmap = 0) (hsince : p.sinceAck < 63) :
    acceptSeq e hh i m d c = (putPeer { hh with reorder := hh.reorder.filter (fun x =>
        !(x.1 == i && (x.2.1 - p.expect).toNat ≤ 0)) } i { p with expect := p.expect + 1, rxmap := 0, sinceAck := p.sinceAck + 1 },
      [c]) := by
  have hahead : (BitVec.ofNat 16 (hdrOf c).seq - p.expect).toNat = 0 := by rw [hseq, BitVec.sub_self]; rfl
  have hshift : p.rxmap >>> (0 + 1) = 0 := by rw [hmap]; rfl
  have hack : ¬ 64 ≤ p.sinceAck + 0 + 1 := by omega
  have hclosed : ¬ (p.st = .closed ∨ (hdrOf c).epoch ≠ p.rxEpoch) := by simp [hst, hepoch]
  have hother : ¬ ((!ctxFree p m d) = true ∧ i < 262144 ∨
      (hdrOf c).type < 2 ∧ p.st ≠ .open ∧ p.st ≠ .closed ∧ (hdrOf c).epoch = p.rxEpoch) := by simp [hst, hfree]
  simp only [acceptSeq, hp, if_neg hother, if_neg hclosed, if_pos hahead, heldRun_of_clear p hmap, if_neg hack, hshift]
  rfl

/-- A cell of at most 32 ahead is held, marked in RXMAP and answered with a NACK (R296). -/
theorem acceptSeq_ahead (k : Nat) (hk : 1 ≤ k) (hk' : k ≤ 32)
    (hseq : BitVec.ofNat 16 (hdrOf c).seq = p.expect + BitVec.ofNat 16 k) (hbit : nbit p.rxmap.toNat (k - 1) = false)
    (hroom : hh.reorder.length < 4096) :
    acceptSeq e hh i m d c = (nackNow e (putPeer { hh with reorder := hh.reorder ++ [(i, BitVec.ofNat 16 (hdrOf c).seq, c)] } i
      { p with rxmap := p.rxmap ||| BitVec.ofNat 32 (2 ^ (k - 1)), held := p.held + 1 }) i, []) := by
  have hahead : (BitVec.ofNat 16 (hdrOf c).seq - p.expect).toNat = k := by
    rw [hseq, BitVec.add_comm, BitVec.add_sub_cancel, BitVec.toNat_ofNat]
    omega
  have hclosed : ¬ (p.st = .closed ∨ (hdrOf c).epoch ≠ p.rxEpoch) := by simp [hst, hepoch]
  have hother : ¬ ((!ctxFree p m d) = true ∧ i < 262144 ∨
      (hdrOf c).type < 2 ∧ p.st ≠ .open ∧ p.st ≠ .closed ∧ (hdrOf c).epoch = p.rxEpoch) := by simp [hst, hfree]
  have hfull : ¬ (nbit p.rxmap.toNat (k - 1) = true ∨ 4096 ≤ hh.reorder.length) := by simp only [hbit]; simp; omega
  simp only [acceptSeq, hp, if_neg hother, if_neg hclosed, hahead, if_neg (Nat.one_le_iff_ne_zero.mp hk), if_pos hk', if_neg hfull]

end

/-- Settles O39: the context is open and the peer's, so the distance from EXPECT alone decides. -/
theorem sequencedCellsAreTakenInOrder : Obligations.SequencedCellsAreTakenInOrder :=
  fun _ _ _ _ _ _ _ hp hfree hst hepoch =>
    ⟨fun hseq hmap hsince => acceptSeq_expected hp hfree hst hepoch hseq hmap hsince,
      fun k hk hk' hseq hbit hroom => acceptSeq_ahead hp hfree hst hepoch k hk hk' hseq hbit hroom⟩

end Sys2Proof.Machine

/-! The commands of one hearth (R13, R16). -/

namespace Sys2Proof.Machine

/-- A fatal event other than the loss of the command link is one of its hearth (R433). -/
theorem execHearthFatal_eq (h : Nat) (ev : FatalEvent) (permanent : Bool) (s : State) (hev : ev ≠ .commandLink) :
    execHearthFatal h ev permanent s = hearthEvent s h (fun e hh => fatalEvent e ev permanent hh) := by
  have hlink : ¬ (ev = .commandLink ∧ present (hearthOf s h).st = true) := fun hl => hev hl.1
  simp only [execHearthFatal, if_neg hlink]
  rfl

/-- A command of one hearth changes that hearth by its own rules, and what follows at once settles. -/
theorem exec_of_hearthOnly (c : Instr) (h : Nat) (s : State) (hc : hearthOnly c = some h) :
    ∃ f, exec c s = hearthEvent s h f := by
  cases c
  case hearthFatal g ev permanent =>
    by_cases hev : ev = .commandLink
    · simp only [hearthOnly, if_pos hev, reduceCtorEq] at hc
    · simp only [hearthOnly, if_neg hev, Option.some.injEq] at hc
      subst hc
      exact ⟨_, execHearthFatal_eq g ev permanent s hev⟩
  all_goals cases hc
  all_goals exact ⟨_, rfl⟩

/-- A hearth put into a module is all that changes of it. -/
theorem putH_rest (s : State) (h : Nat) (hh : Hearth) : { putH s h hh with hearths := s.hearths } = s := by
  unfold putH
  split <;> rfl

/-- The other hearths read as before, whatever number one is put at. -/
theorem hearthOf_putH_of_ne (s : State) (h g : Nat) (hh : Hearth) (hw : smapWf ({} : Hearth) s.hearths = true) (hne : g ≠ h) :
    hearthOf (putH s h hh) g = hearthOf s g := by
  by_cases hlt : h < 9
  · rw [hearthOf_putH s h g hh hw hlt, if_neg hne]
  · rw [putH, if_neg hlt]

/-- Settles O54: every such command is a change of its hearth by the hearth's own rules, which is one entry of the table of
hearths. -/
theorem hearthCommandsTouchOneHearth : Obligations.HearthCommandsTouchOneHearth := by
  refine ⟨fun c h s hc => ?_, fun s h hh hw => ⟨putH_rest s h hh, fun hlt => ?_, fun g => hearthOf_putH_of_ne s h g hh hw⟩⟩
  · obtain ⟨f, hf⟩ := exec_of_hearthOnly c h s hc
    exact ⟨f (envOf s h) (hearthOf s h), hf⟩
  · rw [hearthOf_putH s h h hh hw hlt, if_pos rfl]

end Sys2Proof.Machine

/-! Rounding (R118, R132): a magnitude that a format holds rounds to its own code. Every magnitude is m · 2^E with E at least that of
the subnormals, and rounding finds E again. -/

namespace Sys2Proof.Machine

/-! ### A number m · 2^E -/

theorem rne_mul_self (m d : Nat) (hd : 0 < d) : rne (m * d) d = m := by
  simp only [rne, Nat.mul_div_cancel _ hd, Nat.mul_mod_left, Nat.mul_zero, if_pos hd]

/-- A power of two as a quotient: its numerator and denominator. -/
theorem qMul_qInt_qPow2 (m : Nat) (E : Int) : qMul (qInt m) (qPow2 E) =
    if 0 ≤ E then ⟨((m * 2 ^ E.toNat : Nat) : Int), 1⟩ else ⟨(m : Int), 2 ^ (-E).toNat⟩ := by
  unfold qMul qInt qPow2
  split <;> simp

theorem log2_mul_two_pow (m e : Nat) (hm : m ≠ 0) : Nat.log2 (m * 2 ^ e) = Nat.log2 m + e := by
  have hlow : 2 ^ Nat.log2 m ≤ m := (Nat.le_log2 hm).mp (Nat.le_refl _)
  have hhigh : m < 2 ^ (Nat.log2 m + 1) := (Nat.log2_lt hm).mp (Nat.lt_succ_self _)
  have hpos := Nat.two_pow_pos e
  refine (Nat.log2_eq_iff (Nat.mul_ne_zero hm (Nat.ne_of_gt hpos))).mpr ⟨?_, ?_⟩
  · rw [Nat.pow_add]
    exact Nat.mul_le_mul_right _ hlow
  · rw [Nat.add_right_comm, Nat.pow_add]
    exact Nat.mul_lt_mul_of_pos_right hhigh hpos

/-- The exponent of a multiple of a power of two. -/
theorem floorLog2_mul_pow (m e : Nat) (hm : m ≠ 0) : floorLog2 (m * 2 ^ e) 1 = Nat.log2 m + e := by
  have hlow : 2 ^ Nat.log2 m ≤ m := (Nat.le_log2 hm).mp (Nat.le_refl _)
  have hlog : (Nat.log2 (m * 2 ^ e) : Int) - Nat.log2 1 = (Nat.log2 m + e : Nat) := by
    rw [log2_mul_two_pow m e hm, show Nat.log2 1 = 0 from rfl]
    omega
  have hfloor : ¬ m * 2 ^ e < 1 * 2 ^ (Nat.log2 m + e) := by
    rw [Nat.one_mul, Nat.pow_add, Nat.not_lt]
    exact Nat.mul_le_mul_right _ hlow
  simp only [floorLog2, hlog, Int.toNat_natCast, if_neg hfloor, Int.natCast_nonneg, if_true]
  omega

/-- The exponent of a quotient by a power of two. -/
theorem floorLog2_div_pow (m e : Nat) (hm : m ≠ 0) : floorLog2 m (2 ^ e) = (Nat.log2 m : Int) - e := by
  have hlow : 2 ^ Nat.log2 m ≤ m := (Nat.le_log2 hm).mp (Nat.le_refl _)
  simp only [floorLog2, Nat.log2_two_pow]
  split
  case isTrue h =>
    have hsum : e + ((Nat.log2 m : Int) - e).toNat = Nat.log2 m := by omega
    rw [if_neg (by rw [← Nat.pow_add, hsum, Nat.not_lt]; exact hlow)]
  case isFalse h =>
    have hsum : Nat.log2 m + (-((Nat.log2 m : Int) - e)).toNat = e := by omega
    have hfloor : ¬ m * 2 ^ (-((Nat.log2 m : Int) - e)).toNat < 2 ^ e := by
      rw [Nat.not_lt]
      calc 2 ^ e = 2 ^ Nat.log2 m * 2 ^ (-((Nat.log2 m : Int) - e)).toNat := by rw [← Nat.pow_add, hsum]
        _ ≤ _ := Nat.mul_le_mul_right _ hlow
    rw [if_neg hfloor]

/-- The exponent of m · 2^E is E with that of m. -/
theorem floorLog2_qPow2 (m : Nat) (E : Int) (hm : m ≠ 0) :
    floorLog2 (qMul (qInt m) (qPow2 E)).n.natAbs (qMul (qInt m) (qPow2 E)).d = Nat.log2 m + E := by
  rw [qMul_qInt_qPow2]
  split
  · rw [Int.natAbs_natCast, floorLog2_mul_pow m _ hm]
    omega
  · rw [Int.natAbs_natCast, floorLog2_div_pow m _ hm]
    omega

/-- Rounded at its own exponent, m · 2^E is m. -/
theorem rne_qPow2 (m : Nat) (E : Int) : (if 0 ≤ E then
      rne (qMul (qInt m) (qPow2 E)).n.natAbs ((qMul (qInt m) (qPow2 E)).d * 2 ^ E.toNat)
    else rne ((qMul (qInt m) (qPow2 E)).n.natAbs * 2 ^ (-E).toNat) (qMul (qInt m) (qPow2 E)).d) = m := by
  rw [qMul_qInt_qPow2]
  split
  · rw [Int.natAbs_natCast, Nat.one_mul, rne_mul_self _ _ (Nat.two_pow_pos _)]
  · rw [Int.natAbs_natCast, rne_mul_self _ _ (Nat.two_pow_pos _)]

theorem natAbs_qPow2_ne_zero (m : Nat) (E : Int) (hm : m ≠ 0) : (qMul (qInt m) (qPow2 E)).n.natAbs ≠ 0 := by
  rw [qMul_qInt_qPow2]
  split
  · rw [Int.natAbs_natCast]
    exact Nat.mul_ne_zero hm (Nat.ne_of_gt (Nat.two_pow_pos _))
  · rwa [Int.natAbs_natCast]

/-! ### A format's magnitudes -/

/-- A magnitude code's number below 2 to the fraction bits and one more, and its exponent (R108 to R112). -/
theorem magOf_eq (f : Fmt) (k : Nat) : magOf f k =
    if k < 2 ^ f.fb then qMul (qInt k) (qPow2 (f.emin - f.fb))
    else qMul (qInt ((2 ^ f.fb + k % 2 ^ f.fb : Nat) : Int)) (qPow2 (((k / 2 ^ f.fb : Nat) : Int) - 1 + f.emin - f.fb)) := by
  simp [magOf]

/-- A magnitude that a format holds rounds to its own code (R118). -/
theorem roundMag_magOf (f : Fmt) (k : Nat) : roundMag f.fb f.emin (magOf f k).n.natAbs (magOf f k).d = k := by
  have hpos := Nat.two_pow_pos f.fb
  rw [magOf_eq]
  by_cases hsub : k < 2 ^ f.fb
  · rw [if_pos hsub]
    by_cases hk : k = 0
    · subst hk
      rw [roundMag, if_pos (by simp [qMul, qInt])]
    · have hlog : Nat.log2 k < f.fb := (Nat.log2_lt hk).mpr hsub
      have he : max ((Nat.log2 k : Int) + (f.emin - f.fb)) f.emin = f.emin := by omega
      rw [roundMag, if_neg (natAbs_qPow2_ne_zero k _ hk)]
      simp only [floorLog2_qPow2 k _ hk, he, rne_qPow2, Int.sub_self, Int.toNat_zero, Nat.zero_mul, Nat.zero_add]
  · rw [if_neg hsub]
    have hmod := Nat.mod_lt k hpos
    have hlog : Nat.log2 (2 ^ f.fb + k % 2 ^ f.fb) = f.fb :=
      (Nat.log2_eq_iff (by omega)).mpr ⟨Nat.le_add_right _ _, by rw [Nat.pow_succ]; omega⟩
    have hdiv : 1 ≤ k / 2 ^ f.fb := (Nat.one_le_div_iff hpos).mpr (Nat.not_lt.mp hsub)
    have he : max ((f.fb : Int) + (((k / 2 ^ f.fb : Nat) : Int) - 1 + f.emin - f.fb)) f.emin =
        ((k / 2 ^ f.fb : Nat) : Int) - 1 + f.emin := by omega
    have hs : ((k / 2 ^ f.fb : Nat) : Int) - 1 + f.emin - f.emin = ((k / 2 ^ f.fb - 1 : Nat) : Int) := by omega
    rw [roundMag, if_neg (natAbs_qPow2_ne_zero _ _ (by omega))]
    simp only [floorLog2_qPow2 _ _ (show 2 ^ f.fb + k % 2 ^ f.fb ≠ 0 by omega), hlog, he, rne_qPow2, hs, Int.toNat_natCast]
    rw [Nat.sub_mul, Nat.one_mul]
    have hk := Nat.div_add_mod' k (2 ^ f.fb)
    have hle : 2 ^ f.fb ≤ k / 2 ^ f.fb * 2 ^ f.fb := Nat.le_mul_of_pos_left _ hdiv
    omega

/-- A magnitude is not negative. -/
theorem magOf_nonneg (f : Fmt) (k : Nat) : 0 ≤ (magOf f k).n := by
  rw [magOf_eq]
  split <;> rw [qMul_qInt_qPow2] <;> split <;> exact Int.natCast_nonneg _

/-! ### Flue32 -/

/-- A magnitude with a sign. -/
def signedMag (f : Fmt) (neg : Bool) (k : Nat) : Q := if neg then qNeg (magOf f k) else magOf f k

/-- A magnitude with a sign has that sign, the sign of a zero beside it. -/
theorem sign_signedMag (f : Fmt) (neg : Bool) (k : Nat) :
    (if (signedMag f neg k).n = 0 then neg else decide ((signedMag f neg k).n < 0)) = neg := by
  have hmag := magOf_nonneg f k
  by_cases hzero : (signedMag f neg k).n = 0
  · rw [if_pos hzero]
  · rw [if_neg hzero]
    cases neg
    · exact decide_eq_false (Int.not_lt.mpr hmag)
    · have hneg : (signedMag f true k).n = -(magOf f k).n := rfl
      rw [hneg] at hzero ⊢
      exact decide_eq_true (by omega)

/-- A sign leaves the magnitude's code. -/
theorem roundMag_signedMag (f : Fmt) (neg : Bool) (k : Nat) :
    roundMag f.fb f.emin (signedMag f neg k).n.natAbs (signedMag f neg k).d = k := by
  cases neg
  · exact roundMag_magOf f k
  · have habs : (signedMag f true k).n.natAbs = (magOf f k).n.natAbs := Int.natAbs_neg _
    rw [habs]
    exact roundMag_magOf f k

/-- A finite value of Flue32 rounds to its sign and magnitude code. -/
theorem round32_signedMag (neg : Bool) (k : Nat) (hk : k ≤ 0x7F7FFFFF) :
    round32 (.fin (signedMag (fmtOf flue) neg k) neg) = BitVec.ofNat 32 (signed flue neg k) := by
  have hround : roundMag 23 (-126) (signedMag (fmtOf flue) neg k).n.natAbs (signedMag (fmtOf flue) neg k).d = k :=
    roundMag_signedMag (fmtOf flue) neg k
  simp only [round32, sign_signedMag, hround, Nat.min_eq_right (show k ≤ 0x7F800000 by omega)]

/-- A Flue32 word's value: a finite one, an infinity or a NaN by its magnitude code. -/
theorem f32_eq (x : W32) : f32 x =
    if x.toNat % 2 ^ 31 ≤ 0x7F7FFFFF then
      .fin (signedMag (fmtOf flue) (decide (2 ^ 31 ≤ x.toNat)) (x.toNat % 2 ^ 31)) (decide (2 ^ 31 ≤ x.toNat))
    else if x.toNat % 2 ^ 31 = 0x7F800000 then .inf (decide (2 ^ 31 ≤ x.toNat)) else .nan := by
  have hx : x.toNat % (2 * 2 ^ 31) = x.toNat := Nat.mod_eq_of_lt x.isLt
  simp only [f32, decodeVal]
  rw [show (fmtOf flue).bits - 1 = 31 from rfl, show (fmtOf flue).top = 0x7F7FFFFF from rfl, hx, if_pos (show wideFmt flue = true from rfl)]
  simp only [signedMag, decide_eq_true_eq]

/-- A Flue32 word is its sign and its magnitude code. -/
theorem signed_flue (x : W32) : BitVec.ofNat 32 (signed flue (decide (2 ^ 31 ≤ x.toNat)) (x.toNat % 2 ^ 31)) = x := by
  have hx := x.isLt
  apply BitVec.eq_of_toNat_eq
  have hwide : wideFmt flue = true := rfl
  have hbits : 2 ^ ((fmtOf flue).bits - 1) = 2 ^ 31 := rfl
  rw [BitVec.toNat_ofNat, signed, hwide, hbits]
  by_cases hneg : 2 ^ 31 ≤ x.toNat <;> simp only [hneg, decide_true, decide_false, true_or, and_true, if_true, Bool.false_eq_true,
    if_false] <;> omega

/-- A word that is no NaN keeps its value's code. -/
theorem round32_f32 (x : W32) (h : isNan32 x = false) : round32 (f32 x) = x := by
  have hle : x.toNat % 2 ^ 31 ≤ 0x7F800000 := Nat.not_lt.mp (of_decide_eq_false h)
  rw [f32_eq]
  by_cases hfin : x.toNat % 2 ^ 31 ≤ 0x7F7FFFFF
  · rw [if_pos hfin, round32_signedMag _ _ hfin, signed_flue]
  · have hinf : x.toNat % 2 ^ 31 = 0x7F800000 := by omega
    rw [if_neg hfin, if_pos hinf]
    calc round32 (.inf (decide (2 ^ 31 ≤ x.toNat)))
        = BitVec.ofNat 32 (signed flue (decide (2 ^ 31 ≤ x.toNat)) (x.toNat % 2 ^ 31)) := by rw [hinf]; rfl
      _ = x := signed_flue x

/-- A NaN rounds to the canonical one. -/
theorem round32_f32_nan (x : W32) (h : isNan32 x = true) : round32 (f32 x) = nan32 := by
  have hlt : 0x7F800000 < x.toNat % 2 ^ 31 := of_decide_eq_true h
  rw [f32_eq, if_neg (by omega), if_neg (by omega)]
  rfl

/-! ### The narrow formats -/

/-- Each of the 532 codes of the formats without infinities converts to itself, unclipped. -/
theorem convElem_decodeVal : ∀ c, c ≤ 3 → ∀ x, x < 2 ^ (fmtOf c).bits →
    (convElem c (decodeVal c x)).1 = x ∧ (convElem c (decodeVal c x)).2.1 = false := by decide +kernel

/-- Settles O55: a Flue32 word's value is m · 2^E, and rounding finds its code; the narrow formats are finite. -/
theorem roundingKeepsExactValues : Obligations.RoundingKeepsExactValues := by
  refine ⟨fun x => ⟨round32_f32 x, round32_f32_nan x⟩, fun c x hc hx => ?_⟩
  obtain ⟨hcode, hclip⟩ := convElem_decodeVal c hc x hx
  exact ⟨_, Prod.ext hcode (Prod.ext hclip rfl)⟩

end Sys2Proof.Machine

/-! The command packets (chapter 12): what an accepted command does is its own part of `submit`, run in the state `begun`. -/

namespace Sys2Proof.Machine

/-! ### The queue, the clock and the reset state -/

/-- Settles O1: the model's step, at a queue with a front. -/
theorem stepRunsTheFrontCommand : Obligations.StepRunsTheFrontCommand := fun _ _ _ => rfl

/-- Time runs at its full rate with nothing to slew: one tick of one nanosecond (R328). -/
theorem tickTime_idle (t : Time) (hslew : t.slew = 0) (hhalf : t.half = false) :
    tickTime t = { t with ns := t.ns + 1, acc := 0 } := by
  simp only [tickTime, hhalf, Bool.false_eq_true, if_false, hslew, if_true]

/-- Settles O2: an empty queue ticks, and at full rate with nothing to slew the tick is one nanosecond. -/
theorem stepTicksWhenIdle : Obligations.StepTicksWhenIdle := by
  intro s hqueue hslew hhalf
  have htime : timeFor s = s.time := by simp only [timeFor, hhalf, Bool.false_and, Bool.false_eq_true, if_false]
  simp only [step, hqueue, tick, htime, tickTime_idle s.time hslew hhalf]

/-- Settles O60: the reset state has empty tables and no command. -/
theorem resetIsCanonicalAndEmpty : Obligations.ResetIsCanonicalAndEmpty :=
  ⟨⟨rfl, rfl⟩, Nat.zero_le _, rfl⟩

/-! ### Submission -/

section
variable {s : State} {p : Pkt} {c : CmdSpec} {run : Nat → State → State}

/-- A packet whose effect settles nothing at once. -/
theorem nextOf_submit (h : Accepted s c p) : nextOf (submit s p c run) = .next (run s.nextCmd (begun s c p)) :=
  congrArg nextOf (submit_accepted s p c run h)

/-- A packet after whose effect the module settles. -/
theorem done_submit (h : Accepted s c p) : done (submit s p c run) = .next (settle (run s.nextCmd (begun s c p))) :=
  congrArg done (submit_accepted s p c run h)

end

/-! ### What turning a command away leaves -/

/-- A fold of operations that each keep what g reads keeps it. -/
theorem foldl_keeps {α β γ : Type} (g : β → γ) (f : β → α → β) (hf : ∀ b x, g (f b x) = g b) (l : List α) (b : β) :
    g (l.foldl f b) = g b := by
  induction l generalizing b with
  | nil => rfl
  | cons x l ih => exact (ih _).trans (hf b x)

theorem takeSlots_mod (s : State) (p : Pkt) : (takeSlots s p).mod = s.mod := by unfold takeSlots; cases p.src <;> rfl

theorem takeSlots_trust (s : State) (p : Pkt) : (takeSlots s p).trust = s.trust := by unfold takeSlots; cases p.src <;> rfl

theorem takeSlots_started (s : State) (p : Pkt) : (takeSlots s p).started = s.started := by unfold takeSlots; cases p.src <;> rfl

theorem blocked_started (s : State) (b : Option Nat) (a : Nat) : (blocked s b a).started = s.started := by
  cases b with
  | some h => exact onHearth_started _ _ _
  | none => exact onHearths_started _ _ _

theorem putRecord_started (s : State) (n : Nat) (r : List Byte) (more : Bool) : (putRecord s n r more).started = s.started :=
  hostWrite_started _ _ _

/-- A completion ring takes records, or drops them: no started command changes. -/
theorem writeCompletion_started (s : State) (n : Nat) (l : List (List Byte)) : (writeCompletion s n l).started = s.started := by
  unfold writeCompletion
  extract_lets q size pads used
  split
  · exact dropRecords_started _ _
  split
  · exact dropRecords_started _ _
  split
  · exact (dropRecords_started _ _).trans (blocked_started _ _ _)
  · exact (foldl_keeps State.started _ (fun a i => putRecord_started a n _ _) _ _).trans
      (foldl_keeps State.started _ (fun a _ => putRecord_started a n _ _) _ _)

/-- A completion sent to its requester changes no started command. -/
theorem post_started (s : State) (o : Origin) (st : Status) (det r0 r1 : Nat) (two : Option (Nat × Nat × Nat × Nat)) :
    (post s o st det r0 r1 two).started = s.started := by
  unfold post
  extract_lets cellRec
  split
  · exact writeCompletion_started _ _ _
  · split
    · rfl
    · exact updH_started _ _ _
  · exact updH_started _ _ _

/-- Settles O19: the check fails before the command is started, and its completion record starts none. -/
theorem rejectedCommandsExecuteNothing : Obligations.RejectedCommandsExecuteNothing := by
  refine ⟨fun s p c run hmod hc hstart hwin => ?_, fun s p c run st det hstart hwin hcheck =>
    ⟨submit_rejected s p c run st det hstart hwin hcheck, (post_started _ _ _ _ _ _ _).trans (takeSlots_started s p)⟩⟩
  rw [submit_rejected s p c run .alarmLocked _ hstart hwin (checks_of_alarm p _ ((takeSlots_mod s p).trans hmod) hc), sourcesOf,
    takeSlots_trust]

/-! ### NOP, PAD and IDENTIFY -/

/-- Settles O7: each is its effect in `begun`; a PAD only takes its slots. -/
theorem nopPadAndIdentify : Obligations.NopPadAndIdentify := by
  refine fun s p => ⟨fun h => nextOf_submit h, fun hstart hwin hover hlow hhigh => ?_, fun h m f r ht => ?_⟩
  · have hzero : p.slots ≠ 0 := fun hz => by rw [hz] at hlow; exact absurd hlow (by decide)
    have hlen : ¬ (overruns s p = true ∨ p.slots = 0 ∨ 16 < p.slots.toNat) := by
      simp only [hover, hzero, Bool.false_eq_true, false_or]
      omega
    change execPad p s = _
    simp only [execPad, hstart, hwin, Bool.not_true, Bool.false_eq_true, if_false, if_neg hlen]
    rfl
  · refine (nextOf_submit h).trans ?_
    dsimp only
    rw [ht]

/-! ### Reports -/

/-- Settles O8: each report is its effect in `begun`. -/
theorem reportCommandsWriteAndClear : Obligations.ReportCommandsWriteAndClear :=
  ⟨fun _ _ => ⟨fun h => nextOf_submit h, fun h => nextOf_submit h, fun h => nextOf_submit h, fun h => done_submit h⟩,
    fun _ _ h => done_submit h, fun _ _ h => nextOf_submit h⟩

/-! ### Firmware and images -/

/-- Fails with a detail of Table 14-5: the details that count, counted. -/
theorem failSecurity_eq (s : State) (id d : Nat) :
    failSecurity s id d = if 2 ≤ d ∧ d ≤ 6 then countSig (finish s id .rejectedSecurity d 0 0)
      else finish s id .rejectedSecurity d 0 0 := by
  simp only [failSecurity, sigCounts, Bool.and_eq_true, decide_eq_true_eq]

section
variable {s : State} {p : Pkt} (h : Accepted s (fwStageSpec p) p)
include h

/-- Without the verification engine no image is staged. -/
theorem exec_fwStage_engineFailed (hfailed : (begun s (fwStageSpec p) p).trust.verifyFailed = true) :
    exec (.fwStage p) s = completes (begun s (fwStageSpec p) p) s.nextCmd .abortedFault 2 0 0 := by
  refine (done_submit h).trans ?_
  rw [if_pos hfailed]
  rfl

variable {bs : List Byte} (hengine : (begun s (fwStageSpec p) p).trust.verifyFailed = false)
  (hbuf : bufRead (begun s (fwStageSpec p) p) (fld p 0x10 8) (fld p 0x18 4) = some bs)
include hengine hbuf

/-- An image that is read is staged by what its verification says. -/
theorem exec_fwStage_read : exec (.fwStage p) s = .next (settle (
    let r := bufTouch (begun s (fwStageSpec p) p) (fld p 0x10 8) (fld p 0x18 4)
    match verifyImage r bs (fld p 0x1C 1) with
    | some d => failSecurity r s.nextCmd d
    | none =>
      if (clearSig r).activation.any (fun a => a.target == fld p 0x1C 1) then
        setWait (clearSig r) s.nextCmd (.fwStage (fld p 0x1C 1) (imageOf bs))
      else finishStage (clearSig r) s.nextCmd (fld p 0x1C 1) (imageOf bs))) := by
  refine (done_submit h).trans ?_
  rw [if_neg (by simp only [hengine, Bool.false_eq_true, not_false_eq_true]), hbuf] <;> rfl

end

/-- FW_STAGE: verified images are staged, and others refused. -/
theorem exec_fwStage (s : State) (p : Pkt) (h : Accepted s (fwStageSpec p) p) (bs : List Byte)
    (hengine : (begun s (fwStageSpec p) p).trust.verifyFailed = false)
    (hbuf : bufRead (begun s (fwStageSpec p) p) (fld p 0x10 8) (fld p 0x18 4) = some bs) :
    let r := bufTouch (begun s (fwStageSpec p) p) (fld p 0x10 8) (fld p 0x18 4)
    (verifyImage r bs (fld p 0x1C 1) = none →
      ((clearSig r).activation.any (fun a => a.target == fld p 0x1C 1) = false → (clearSig r).flash.writable = true →
        exec (.fwStage p) s = completes (stageImage (clearSig r) (fld p 0x1C 1) (imageOf bs)) s.nextCmd .done 0 0 0) ∧
      ((clearSig r).activation.any (fun a => a.target == fld p 0x1C 1) = true →
        exec (.fwStage p) s = .next (settle (setWait (clearSig r) s.nextCmd (.fwStage (fld p 0x1C 1) (imageOf bs)))))) ∧
    (∀ d, verifyImage r bs (fld p 0x1C 1) = some d →
      exec (.fwStage p) s = .next (settle (let t := finish r s.nextCmd .rejectedSecurity d 0 0
        if 2 ≤ d ∧ d ≤ 6 then countSig t else t))) := by
  have hread := exec_fwStage_read h hengine hbuf
  refine ⟨fun hok => ⟨fun hfree hwritable => ?_, fun hbusy => ?_⟩, fun d hbad => ?_⟩
  · simp only [hok, hfree, Bool.false_eq_true, if_false, finishStage, hwritable, if_true] at hread
    exact hread
  · simp only [hok, hbusy, if_true] at hread
    exact hread
  · simp only [hbad, failSecurity_eq] at hread
    exact hread

/-- FW_ACTIVATE with flash writable: the staged slot becomes active, and the activation joins those in progress. -/
theorem exec_fwActivate (s : State) (p : Pkt) (h : Accepted s (fwActivateSpec p s) p)
    (hwritable : (begun s (fwActivateSpec p s) p).flash.writable = true) :
    let b := begun s (fwActivateSpec p s) p
    exec (.fwActivate p) s = .next (settle (setWait { activateSlot b (fld p 0x10 1) with
      activation := b.activation ++ [{ cmd := s.nextCmd, target := fld p 0x10 1
                                       left := if fld p 0x10 1 = 1 then named p else if b.standbyOk then [0, 1] else [0]
                                       switched := 0 }] } s.nextCmd .fwActivate)) := by
  refine (done_submit h).trans ?_
  rw [if_neg (by simp only [hwritable, Bool.not_true, Bool.false_eq_true, not_false_eq_true])]

/-- LOAD_IMAGE of one hearth: its part ends at once, or its load begins. -/
theorem exec_loadImage_one (s : State) (p : Pkt) (h : Nat) (hacc : Accepted s (loadImageSpec p s) p) (hnamed : named p = [h]) :
    let b := setWait (begun s (loadImageSpec p s) p) s.nextCmd (.load p.hearths .done 0 0 0)
    let addr := fld p 0x20 8 % 2 ^ 40
    let granted : Region :=
      { dieMask := BitVec.ofNat 10 (fld p 0x12 2), sliceFirst := fld p 0x14 1, sliceGroups := fld p 0x15 1
        hsyncFirst := fld p 0x16 2, hsyncCount := fld p 0x18 2, epFirst := fld p 0x1A 2, epCount := fld p 0x1C 2 }
    (∀ d, fatalLoad (seenAt (hearthOf b h) addr) addr (fld p 0x28 8) = some d →
      exec (.loadImage p) s = .next (settle (loadPart b s.nextCmd h .rejectedParameter d 0))) ∧
    (fatalLoad (seenAt (hearthOf b h) addr) addr (fld p 0x28 8) = none → exec (.loadImage p) s =
      .next (settle (onHearth b h (startLoad s.nextCmd (fld p 0x10 1) addr (fld p 0x28 8) granted)))) := by
  intro b addr granted
  have hload : exec (.loadImage p) s = .next (settle (
      match fatalLoad (seenAt (hearthOf b h) addr) addr (fld p 0x28 8) with
      | some d => loadPart b s.nextCmd h .rejectedParameter d 0
      | none => onHearth b h (startLoad s.nextCmd (fld p 0x10 1) addr (fld p 0x28 8) granted))) := by
    refine (done_submit hacc).trans ?_
    rw [hnamed]
    rfl
  constructor
  · intro d hbad
    rw [hload, hbad]
  · intro hok
    rw [hload, hok]

/-- Settles O9: FW_STAGE by its verification, FW_ACTIVATE, LOAD_IMAGE and DROP_IMAGE as their effects in `begun`. -/
theorem firmwareAndImagesLoad : Obligations.FirmwareAndImagesLoad :=
  ⟨fun s p => ⟨fun h => ⟨fun hfailed => exec_fwStage_engineFailed h hfailed,
      fun bs hengine hbuf => exec_fwStage s p h bs hengine hbuf⟩, fun h hwritable => exec_fwActivate s p h hwritable⟩,
    fun s p => ⟨fun h => ⟨done_submit h, fun g hnamed => exec_loadImage_one s p g h hnamed⟩, fun h => done_submit h⟩⟩

/-! ### Steps -/

/-- Settles O10: the steps are added one by one, in the order of the named hearths. -/
theorem launchAddsAPendingStep : Obligations.LaunchAddsAPendingStep := fun _ _ h => done_submit h

/-- PREEMPT_STEP of an accepted packet runs its round. -/
theorem preemptWith_accepted (s : State) (p : Pkt) (h : Accepted s (preemptSpec p s) p) :
    preemptWith p s = settle (preemptRun p s.nextCmd (begun s (preemptSpec p s) p)) :=
  congrArg settle (submit_accepted s p _ _ h)

/-- PREEMPT_STEP by its ROUND. -/
theorem exec_preempt (s : State) (p : Pkt) (h : Accepted s (preemptSpec p s) p) :
    let t := settle (preemptRun p s.nextCmd (begun s (preemptSpec p s) p))
    (fld p 0x10 1 ≠ 1 → fld p 0x10 1 ≠ 2 → exec (.preemptStep p) s = .next t) ∧
    (fld p 0x10 1 = 1 → exec (.preemptStepHalt p) s = .next t) ∧
    (fld p 0x10 1 = 2 → exec (.preemptStepSave p) s = .next t) := by
  intro t
  have hrun : preemptWith p s = t := preemptWith_accepted s p h
  refine ⟨fun h1 h2 => ?_, fun h1 => ?_, fun h2 => ?_⟩
  · change nextOf _ = _
    rw [if_neg (not_or.mpr ⟨h1, h2⟩), hrun]
    rfl
  · change nextOf _ = _
    rw [if_pos h1, hrun]
    rfl
  · change nextOf _ = _
    rw [if_pos h2, hrun]
    rfl

/-- SAVE_STATE of a step frozen by the host, into a buffer that the windows have. -/
theorem exec_saveState (s : State) (p : Pkt) (hacc : Accepted s (saveStateSpec p s) p) (x : Step) (sn : Snapshot) :
    let b := begun s (saveStateSpec p s) p
    let h := named1 p
    let a := fld p 0x10 8
    hostFrozen (hearthOf b h) (wl p) = some x → (hearthOf b h).snap = some sn →
    (spaceOf a || inWindow b.regs (hostAddr a) saveBytes) = true →
    let img := saveImageOf (hearthOf b h) b.fresh
    let t := putImage { b with fresh := b.fresh + 1 } a img.1 img.2
    exec (.saveState p) s = completes (onHearth { t with saves := t.saves ++ [(a,
        { serial := b.fuses.serial, hearth := h, census := sn.census, ctx := x.ctx
          digest := (mget {} (hearthOf b h).ctxs x.ctx).digest, step := x, snap := sn, bytes := img.1, wild := img.2 })] } h
      (fun e hh => endStepH e (updStep hh x.id (fun y => { y with told := true })) x.id .preempted)) s.nextCmd .done 0 0 0 := by
  intro b h a hfrozen hsnap hwin img t
  have hblocked : ¬ ((!spaceOf a && !inWindow b.regs (hostAddr a) saveBytes) = true) := by
    rw [← Bool.not_or, hwin]
    exact Bool.false_ne_true
  have hb : begun s (saveStateSpec p s) p = b := rfl
  refine (done_submit hacc).trans ?_
  rw [hb]
  clear_value b
  dsimp only
  rw [hfrozen, hsnap]
  dsimp only
  rw [if_neg hblocked]
  rfl

/-- RESTORE_STATE of a buffer that holds a saved step. -/
theorem exec_restoreState (s : State) (p : Pkt) (hacc : Accepted s (restoreStateSpec p s) p) (i : SaveImage)
    (hsaved : savedIn (begun s (restoreStateSpec p s) p) (fld p 0x10 8) = some i) :
    exec (.restoreState p) s = completes (
      let b := begun s (restoreStateSpec p s) p
      let t := activate { b with order := b.order + 1 } (wl p)
      updH t (named1 p) (fun hh => refreshSt { hh with
        steps := hh.steps ++ [{ i.step with
          id := t.order - 1, waiter := t.nextCmd, workload := wl p, state := .frozen, byHost := true, told := true
          mark := t.time.ns, causeWorkload := wl p, order := t.order - 1 }]
        snap := some { i.snap with step := t.order - 1 }
        eps := i.snap.eps.foldl (fun m y => mput {} m y.1 y.2) hh.eps })) s.nextCmd .done 0 0 0 := by
  refine (done_submit hacc).trans ?_
  rw [hsaved]
  rfl

/-- Settles O11: each is its effect in `begun`, with the branch that its hypotheses choose. -/
theorem stepCommandsAct : Obligations.StepCommandsAct :=
  ⟨fun s p => ⟨fun h => exec_preempt s p h, fun h => done_submit h, fun h => done_submit h⟩,
    fun s p => ⟨fun h x sn => exec_saveState s p h x sn, fun h i hsaved => exec_restoreState s p h i hsaved⟩⟩

end Sys2Proof.Machine

/-! The command packets that move data, set the module up and hold its trust (chapter 12): each accepted packet is its own effect in
the state `begun`. -/

namespace Sys2Proof.Machine

/-! ### Data movement -/

/-- COPY by its REMOTE bit. -/
theorem exec_copy (s : State) (p : Pkt) (h : Accepted s (copySpec p) p) :
    exec (.copy p) s = .next (settle (if nbit (fld p 0x28 4) 31 = true then
        startRemote (begun s (copySpec p) p) s.nextCmd (nbits (fld p 0x28 4) 17 0) (copySegs p)
      else finish ((copySegs p).foldl copyLocal (begun s (copySpec p) p)) s.nextCmd .done 0 0 0)) :=
  done_submit h

/-- Settles O12: COPY by its REMOTE bit, and FILL, as their effects in `begun`. -/
theorem copyAndFillWriteTheirBytes : Obligations.CopyAndFillWriteTheirBytes := by
  refine fun s p => ⟨fun h => ⟨fun hlocal => ?_, fun hremote => ?_⟩, fun h => done_submit h⟩
  · rw [exec_copy s p h, if_neg (by simp only [hlocal, Bool.false_eq_true, not_false_eq_true])]
    rfl
  · rw [exec_copy s p h, if_pos hremote]

/-! ### Settings -/

section
variable {s : State} {p : Pkt} {c : CmdSpec} {run : Nat → State → State} {q : Prop} [Decidable q]

/-- A packet whose opcode's variant is another's does nothing here; this one's does. -/
theorem done_submit_of_not (h : Accepted s c p) (hq : ¬ q) :
    (if q then nextOf s else done (submit s p c run)) = .next (settle (run s.nextCmd (begun s c p))) := by
  rw [if_neg hq]
  exact done_submit h

/-- The same where the variant is chosen by the negation. -/
theorem done_submit_of (h : Accepted s c p) (hq : q) :
    (if ¬ q then nextOf s else done (submit s p c run)) = .next (settle (run s.nextCmd (begun s c p))) :=
  done_submit_of_not h (not_not_intro hq)

end

/-- Settles O14: each setting is its effect in `begun`. -/
theorem settingsAreSet : Obligations.SettingsAreSet :=
  ⟨fun _ _ => ⟨fun h => done_submit h, fun h hadd => done_submit_of_not h hadd, fun h hremove => done_submit_of h hremove⟩,
    fun _ _ => ⟨fun h => done_submit h, fun h => done_submit h⟩,
    fun _ _ => ⟨fun h => done_submit h, fun h => done_submit h⟩,
    fun _ _ => ⟨fun h hset => done_submit_of_not h hset, fun h hslew => done_submit_of h hslew⟩⟩

/-! ### Units and resets -/

/-- RETIRE_UNIT by whether its unit is out already. -/
theorem exec_retireUnit (s : State) (p : Pkt) (h : Accepted s (retireUnitSpec p s) p) :
    let b := begun s (retireUnitSpec p s) p
    exec (.retireUnit p) s = .next (settle (if isOut (hearthOf b (named1 p)) (unitRefOf p) = true then finish b s.nextCmd .done 1 0 0
      else updH (setWait b s.nextCmd (.retire (named1 p) (unitRefOf p))) (named1 p)
        (fun hh => permanent hh (selKey (unitRefOf p)) 1 0 0 (some s.nextCmd)))) :=
  done_submit h

/-- Settles O15: RETIRE_UNIT by whether its unit is out, and RESTORE_UNIT, as their effects in `begun`. -/
theorem unitsRetireAndRestore : Obligations.UnitsRetireAndRestore := by
  refine fun s p => ⟨fun h => ⟨fun hout => ?_, fun hin => ?_⟩, fun h => done_submit h⟩
  · rw [exec_retireUnit s p h, if_pos hout]
    rfl
  · rw [exec_retireUnit s p h, if_neg (by simp only [hin, Bool.false_eq_true, not_false_eq_true])]

/-- Counting a boot changes flash alone. -/
theorem countBoot_eq (s : State) : countBoot s = { s with flash := (countBoot s).flash } := by
  unfold countBoot
  split <;> rfl

/-- What a module warm reset sets, whatever the steps and the commands were (R469). -/
theorem warmReset_sets (id : Nat) (s : State) : let t := warmReset id s
    t.mod = .boot ∧ t.ringsOn = false ∧ t.romEngine = false ∧ t.accounts = [] ∧ t.role = {} ∧ t.activation = [] ∧
      t.cmdCells = [] ∧ t.linkCells = [] ∧ t.trust.debug = [] ∧ t.trust.challenge = none ∧ t.power.warm = some id := by
  intro t
  have ht : t = warmReset id s := rfl
  clear_value t
  unfold warmReset at ht
  extract_lets ended settled aborted waiting hearths at ht
  clear_value hearths
  rw [ht, countBoot_eq]
  exact ⟨rfl, rfl, rfl, rfl, rfl, rfl, rfl, rfl, rfl, rfl, rfl⟩

/-- Settles O16: RESET_HEARTH and the warm reset as their effects in `begun`, and the fields that the two resets set. -/
theorem resetCommandsAct : Obligations.ResetCommandsAct :=
  ⟨fun _ _ h => done_submit h, fun _ _ => ⟨rfl, rfl, rfl, rfl, rfl⟩, fun _ _ h => done_submit h, fun s id => warmReset_sets id s⟩

/-! ### Power, sampling and calibration -/

/-- CAP_W takes the value, whether the hearths go to step 16 or not. -/
theorem takeCap_regs (s : State) (w : Nat) : (takeCap s w).regs = { s.regs with capW := w } := by
  unfold takeCap
  extract_lets _ t
  split
  · exact onHearths_regs t _ _
  · rfl

/-- With the power controller working a cap is one register. -/
theorem takeCap_of_controller (s : State) (w : Nat) (h : s.power.controllerFailed = false) :
    takeCap s w = { s with regs := { s.regs with capW := w } } := by
  unfold takeCap
  extract_lets _ t
  have hshort : capShort t = false := by
    have hpower : t.power.controllerFailed = false := h
    rw [capShort, hpower, Bool.false_and]
  rw [if_neg (by simp only [hshort, Bool.false_eq_true, not_false_eq_true])]

/-- Settles O17: each is its effect in `begun`. -/
theorem powerSamplingAndCalibrationCommandsAct : Obligations.PowerSamplingAndCalibrationCommandsAct :=
  ⟨fun _ _ => ⟨fun h => done_submit h, fun h h1 h2 => done_submit_of_not h (not_or.mpr ⟨h1, h2⟩), fun h hstop => done_submit_of h hstop,
      fun h hread => done_submit_of h hread⟩,
    fun s w => congrArg Regs.capW (takeCap_regs s w),
    fun _ _ => ⟨fun h h1 h2 => done_submit_of_not h (not_or.mpr ⟨h1, h2⟩), fun h hwrite => done_submit_of h hwrite,
      fun h hreset => done_submit_of h hreset⟩⟩

/-- A write of JD_POWER_CAP by its range (R363). -/
theorem exec_powerCapWrite (s : State) (v : W64) (hbar : barOk s = true) : exec (.powerCapWrite v) s = .next (
    if 1500 ≤ v.toNat / 2 ^ 48 ∧ v.toNat / 2 ^ 48 ≤ 4800 then
      takeCap { s with regs := { s.regs with capReject := s.regs.capReject && !nbit v.toNat 0 } } (v.toNat / 2 ^ 48)
    else { s with regs := { s.regs with capReject := true } }) := by
  have hcap : nbits v.toNat 63 48 = v.toNat / 2 ^ 48 :=
    Nat.mod_eq_of_lt (Nat.div_lt_of_lt_mul (Nat.lt_of_lt_of_le v.isLt (by decide)))
  change nextOf _ = _
  rw [if_pos hbar, capWrite, hcap]
  rfl

/-- Settles O23: the range of the value decides, and the cap is one register while the power controller works. -/
theorem powerCapWriteChecksItsRange : Obligations.PowerCapWriteChecksItsRange := by
  refine fun s v hbar => ⟨fun hlow hhigh => ?_, fun b w => ⟨takeCap_regs b w, takeCap_of_controller b w⟩, fun hout => ?_⟩
  · rw [exec_powerCapWrite s v hbar, if_pos ⟨hlow, hhigh⟩]
  · rw [exec_powerCapWrite s v hbar, if_neg (by omega)]

/-! ### Trust -/

/-- ATTEST is signed at once, or waits for the identity engine. -/
theorem exec_attest (s : State) (p : Pkt) (h : Accepted s (attestSpec p) p) :
    let b := begun s (attestSpec p) p
    let nonce := BitVec.ofNat 256 (fld p 0x10 32)
    exec (.attest p) s = .next (settle (if b.trust.engineOn = true ∨ b.trust.engineFailed = true ∨ b.fuses.kill = true then
        attestNow b s.nextCmd (fld p 0x30 8) nonce
      else setWait b s.nextCmd (.attest (BitVec.ofNat 64 (fld p 0x30 8)) nonce))) :=
  done_submit h

section
variable {s : State} {id addr opcode d : Nat} {scope : Option Nat} {timed : Bool} {run : List Byte → State → State} {bs : List Byte}

/-- An authorised command whose block is read and fails (R448). -/
theorem authorised_fails (hbuf : bufRead s addr 5500 = some bs)
    (hfails : authFails (bufTouch s addr 5500) bs opcode scope timed = some d) :
    authorised s id addr opcode scope timed run =
      (let t := finish (bufTouch s addr 5500) id .rejectedSecurity d 0 0
       if 2 ≤ d ∧ d ≤ 6 then countSig t else t) := by
  simp only [authorised, hbuf, hfails, failSecurity_eq]

/-- An authorised command whose block holds: the challenge is consumed, SIG_FAILS is cleared, and the command acts. -/
theorem authorised_holds (hbuf : bufRead s addr 5500 = some bs)
    (hholds : authFails (bufTouch s addr 5500) bs opcode scope timed = none) :
    authorised s id addr opcode scope timed run = run bs (clearSig { bufTouch s addr 5500 with
      trust := { (bufTouch s addr 5500).trust with challenge := none } }) := by
  simp only [authorised, hbuf, hholds]

end

/-- Settles O18: ATTEST by the identity engine, the authorised commands by their block, and the challenge. -/
theorem trustCommandsAct : Obligations.TrustCommandsAct := by
  intro s p refuses
  refine ⟨fun h => ⟨fun hnow => ?_, fun hoff hworks halive => ?_⟩, fun h bs => ?_, fun h bs => ?_, fun h hphase bs => ?_,
    fun h hphase => done_submit_of_not h hphase⟩
  · rw [exec_attest s p h, if_pos hnow]
  · rw [exec_attest s p h, if_neg (by simp only [hoff, hworks, halive, Bool.false_eq_true, or_self, not_false_eq_true])]
  · intro b r hbuf
    refine ⟨fun d hfails => (done_submit h).trans ?_, fun hholds => (done_submit h).trans ?_⟩
    · rw [authorised_fails hbuf hfails]
    · rw [authorised_holds hbuf hholds]
      rfl
  · intro b r hbuf
    refine ⟨fun d hfails => (done_submit h).trans ?_, fun hholds => (done_submit h).trans ?_⟩
    · rw [authorised_fails hbuf hfails]
    · rw [authorised_holds hbuf hholds]
      rfl
  · intro b r hbuf
    refine ⟨fun d hfails => (done_submit_of h hphase).trans ?_, fun hholds => (done_submit_of h hphase).trans ?_⟩
    · rw [authorised_fails hbuf hfails]
    · rw [authorised_holds hbuf hholds]
      rfl

end Sys2Proof.Machine

/-! The host port, resets, boot, power and the mantel's units (chapters 8, 11, 14 and 15): each event under the premises that let it
act. -/

namespace Sys2Proof.Machine

/-! ### Events under their premises -/

section
variable {q : Prop} [Decidable q] {a b : State}

theorem nextOf_if_pos (h : q) : nextOf (if q then a else b) = .next a := congrArg nextOf (if_pos h)

theorem nextOf_if_neg (h : ¬ q) : nextOf (if q then a else b) = .next b := congrArg nextOf (if_neg h)

theorem done_if_pos (h : q) : done (if q then a else b) = .next (settle a) := congrArg done (if_pos h)

theorem done_if_neg (h : ¬ q) : done (if q then a else b) = .next (settle b) := congrArg done (if_neg h)

end

/-- A flag that is clear is not set. -/
theorem not_true_of_false {b : Bool} (h : b = false) : ¬ b = true := Bool.eq_false_iff.mp h

/-- A flag that is clear, negated. -/
theorem not_of_false {b : Bool} (h : b = false) : (!b) = true := congrArg not h

/-- A flag that is set, negated. -/
theorem not_not_of_true {b : Bool} (h : b = true) : ¬ (!b) = true := not_true_of_false (congrArg not h)

/-! ### CXL.mem -/

/-- A read of a line with CXL up, by what serves it. -/
theorem exec_cxlMemRead (s : State) (dpa : Nat) (hup : cxlUp s = true) : exec (.cxlMemRead dpa) s =
    match cxlLocal s (dpa / 64 * 64) with
    | none => .next (settle { updH s (dpa / 64 * 64 / 0x4000000000) (fun hh =>
        { hh with holeReads := sat 64 (hh.holeReads + 1) }) with rsp := .line 0 true })
    | some (h, a) =>
      let r := outsideRead (envOf s h) (hearthOf s h) a 64
      .next (settle { putH s h r.1 with rsp := .line (BitVec.ofNat 512 (ofLE r.2.1)) r.2.2 }) := by
  change execCxlMemRead dpa s = _
  unfold execCxlMemRead
  rw [if_neg (not_not_of_true hup)] <;> rfl

/-- A write of a line with CXL up, by what serves it. -/
theorem exec_cxlMemWrite (s : State) (dpa : Nat) (data : BitVec 512) (mask : W64) (hup : cxlUp s = true) :
    exec (.cxlMemWrite dpa data mask) s = match cxlLocal s (dpa / 64 * 64) with
    | none => .next (settle (updH s (dpa / 64 * 64 / 0x4000000000) (fun hh =>
        { hh with holeWrites := sat 64 (hh.holeWrites + 1) })))
    | some (h, a) => .next (settle (updH s h (fun hh =>
        (maskRuns (leBytes 64 data.toNat) mask.toNat).foldl (fun hh r => outsideWrite hh (a + r.1) r.2) hh))) := by
  change execCxlMemWrite dpa data mask s = _
  unfold execCxlMemWrite
  rw [if_neg (not_not_of_true hup)] <;> rfl

/-- A host-bias access that memory serves brings the host's line in (R367). -/
theorem exec_hostBiasAccess (s : State) (h a : Nat) (line : BitVec 512) (hup : cxlUp s = true) (hlt : h < 9)
    (hserved : cxlServed (hearthOf s h) = true) (hbias : hostBias s h (a / 64 * 64) = true)
    (hplace : a / 64 * 64 < topOf (hearthOf s h) ∨ (sliceOf (hearthOf s h) (a / 64 * 64)).isSome = true) :
    exec (.hostBiasAccess h a line) s =
      .next (settle (updH s h (fun hh => outsideWrite hh (a / 64 * 64) (leBytes 64 line.toNat)))) := by
  have hcond : (cxlUp s && decide (h < 9) && cxlServed (hearthOf s h) && hostBias s h (a / 64 * 64) &&
      (decide (a / 64 * 64 < topOf (hearthOf s h)) || (sliceOf (hearthOf s h) (a / 64 * 64)).isSome)) = true := by
    simp only [hup, hlt, hserved, hbias, decide_true, Bool.and_self, Bool.true_and, Bool.or_eq_true, decide_eq_true_eq]
    exact hplace
  change execHostBiasAccess h a line s = _
  unfold execHostBiasAccess
  rw [if_pos hcond]
  rfl

/-- Settles O25: what serves the line decides. -/
theorem cxlReadsAndWritesLines : Obligations.CxlReadsAndWritesLines := by
  refine ⟨fun s dpa hup => ⟨fun h a hlocal => ?_, fun hhole => ?_⟩, fun s hup => ⟨fun dpa data mask h a hlocal => ?_,
    fun dpa data mask hhole => ?_, fun h a line => exec_hostBiasAccess s h a line hup⟩⟩
  · intro r
    rw [exec_cxlMemRead s dpa hup, hlocal]
  · rw [exec_cxlMemRead s dpa hup, hhole]
  · rw [exec_cxlMemWrite s dpa data mask hup, hlocal]
  · rw [exec_cxlMemWrite s dpa data mask hup, hhole]

/-! ### The port -/

/-- Settles O28: each event of the port under its premises. -/
theorem portEventsChangeThePortOnly : Obligations.PortEventsChangeThePortOnly :=
  fun _ => ⟨rfl, rfl, fun hlink => nextOf_if_pos hlink, rfl, fun _ _ _ hwidth hlow hhigh hon hperst hdown hport =>
    nextOf_if_pos ⟨⟨hwidth, hlow, hhigh⟩, hon, not_of_false hperst, not_of_false hdown, not_of_false hport⟩, rfl, rfl, rfl, rfl, rfl, rfl⟩

/-! ### Resets and boot -/

/-- What a mapped table answers: a mapped value, or the default. -/
theorem mget_mmap_of_forall {α : Type} [DecidableEq α] {d : α} {f : Nat → α → α} (q : α → Prop) (hd : q d) (hf : ∀ k v, q (f k v))
    (m : SMap α) (i : Nat) : q (mget d (mmap d f m) i) := by
  induction m with
  | nil => exact hd
  | cons x t ih =>
    obtain ⟨k, v⟩ := x
    simp only [mmap]
    split
    · exact ih
    · simp only [mget]
      split
      · exact hf k v
      · exact ih

/-- Settles O29: each cold reset is `coldReset` with its own rails and pin, and every hearth is mapped to an ABSENT one. -/
theorem coldResetsKeepFusesAndFlash : Obligations.ColdResetsKeepFusesAndFlash :=
  fun s => ⟨rfl, rfl, rfl, fun hinput => nextOf_if_neg (not_true_of_false hinput), rfl, rfl, rfl, rfl, rfl, rfl, rfl, rfl,
    fun h => mget_mmap_of_forall (fun hh : Hearth => hh.st = .absent) rfl (fun _ _ => rfl) s.hearths h⟩

/-- What a boot of the module sets, and the count of boots in flash (R446, R468). -/
theorem startBoot_sets (s : State) : (startBoot s).mod = .boot ∧ (startBoot s).power.booted = true ∧ (startBoot s).power.perst = false ∧
    (s.flash.writable = true → (startBoot s).flash.bootCount = (s.flash.bootCount + 1) % 2 ^ 32) := by
  have hboot := countBoot_eq { s with
    mod := .boot, fuses := finishKill s.fuses, power := { s.power with booted := true, perst := false } }
  refine ⟨?_, ?_, ?_, fun hwritable => ?_⟩
  · rw [startBoot, hboot]
  · rw [startBoot, hboot]
  · rw [startBoot, hboot]
  · rw [startBoot, countBoot, if_pos hwritable]

/-- The module firmware starts with the first image that verifies (R446, R447). -/
theorem exec_moduleFirmwareStart (s : State) (i : Nat) (x : FwImage) (himage : moduleImage s = some (i, x)) (hmod : s.mod = .boot)
    (hbooted : s.power.booted = true) (hrings : s.ringsOn = false) (hrom : s.romEngine = false) (hpairs : s.pairsFailed = false) :
    exec .moduleFirmwareStart s = .next (settle (markRetired { s with
      mod := .service, ringsOn := true, standbyOk := true, sidebandOn := !s.sidebandFailed
      fuses := { s.fuses with rollbackModule :=
        if i = s.flash.modActive then max s.fuses.rollbackModule x.secver else s.fuses.rollbackModule }
      trust := { s.trust with measModule := x.hash, fwVersion := x.version }
      regs := { s.regs with cfgOk := true } })) := by
  have hstarts : ¬ (s.mod ≠ .boot ∨ (!s.power.booted) = true ∨ s.ringsOn = true ∨ s.romEngine = true ∨ s.pairsFailed = true) := by
    simp [hmod, hbooted, hrings, hrom, hpairs]
  change execModuleFirmwareStart s = _
  unfold execModuleFirmwareStart
  rw [himage]
  exact done_if_neg hstarts

/-- Settles O30: the boot starts, and firmware or the boot ROM's ring engine answers. -/
theorem moduleBootReachesService : Obligations.ModuleBootReachesService :=
  fun s => ⟨fun hon hperst => nextOf_if_pos ⟨hon, hperst⟩, fun hon hbooted hmod => nextOf_if_pos ⟨hon, not_of_false hbooted, hmod⟩,
    startBoot_sets s, fun hmod hbooted hrings hrom hpairs i x himage =>
      exec_moduleFirmwareStart s i x himage hmod hbooted hrings hrom hpairs,
    fun hmod hbooted hrings himage => nextOf_if_pos ⟨hmod, hbooted, not_of_false hrings, himage⟩⟩

/-! ### Hearths power on and boot -/

theorem hearthImage_updH (s : State) (h : Nat) (f : Hearth → Hearth) : hearthImage (updH s h f) = hearthImage s := by
  simp only [hearthImage, updH_trust, updH_flash, updH_fuses]

/-- A hearth leaves BOOTING: what its boot asked for is settled, and a boot that failed was its first (R391). -/
def bootEnded (s : State) (h : Nat) (ok : Bool) : State := updH s h fun hh => { hh with
  firstBoot := hh.firstBoot || !ok, fromPower := false, restoring := hh.restoring.filter (fun x => x.1 != .hearth) }

theorem bootEnded_true (s : State) (h : Nat) : bootEnded s h true =
    updH s h (fun hh => { hh with fromPower := false, restoring := hh.restoring.filter (fun x => x.1 != .hearth) }) := by
  simp only [bootEnded, Bool.not_true, Bool.or_false]

theorem bootEnded_false (s : State) (h : Nat) : bootEnded s h false = updH s h (fun hh =>
    { hh with firstBoot := true, fromPower := false, restoring := hh.restoring.filter (fun x => x.1 != .hearth) }) := by
  simp only [bootEnded, Bool.not_false, Bool.or_true]

/-- The RESTORE_UNIT of a hearth that waits for its boot. -/
def bootWaiter (s : State) (h : Nat) : Option (UnitSel × Nat) := (hearthOf s h).restoring.find? (fun x => x.1 == .hearth)

/-- The hearth under the image that its boot verified, with a higher SECVER of the active slot fused (R446, R447). -/
def bootedUnder (s : State) (h i : Nat) (fw : FwImage) : State :=
  let b := bootEnded s h true
  bootReady { b with fuses := { b.fuses with
    rollbackHearth := if i = b.flash.hearthActive then max b.fuses.rollbackHearth fw.secver else b.fuses.rollbackHearth } } h fw

/-- A boot that succeeds, with an image that verifies. -/
theorem exec_hearthBootComplete_ok (s : State) (h i : Nat) (fw : FwImage) (hst : (hearthOf s h).st = .booting)
    (himage : hearthImage s = some (i, fw)) : exec (.hearthBootComplete h true) s = .next (settle (match bootWaiter s h with
      | some (_, id) => finish (restored (bootedUnder s h i fw) h .hearth) id .done 0 0 0
      | none => bootedUnder s h i fw)) := by
  change execHearthBootComplete h true s = _
  unfold execHearthBootComplete
  refine (done_if_neg (not_not_intro hst)).trans ?_
  dsimp only
  rw [hearthImage_updH, himage] <;> rfl

/-- A boot that fails. -/
theorem exec_hearthBootComplete_fails (s : State) (h : Nat) (hst : (hearthOf s h).st = .booting) :
    exec (.hearthBootComplete h false) s = .next (settle (match bootWaiter s h with
      | some (_, id) => finish (updH (returnTokens (bootEnded s h false) h) h (fun hh => { railsOff hh with firstBoot := true })) id
          .abortedFault 6 0 0
      | none => updH (bootEnded s h false) h (fun hh => { hh with st := .faulted, firstBoot := true }))) := by
  change execHearthBootComplete h false s = _
  unfold execHearthBootComplete
  refine (done_if_neg (not_not_intro hst)).trans ?_
  dsimp only
  rw [hearthImage_updH]
  cases hearthImage s <;> rfl

/-- Settles O31: the rails, and a boot by whether it succeeds and whether RESTORE_UNIT waits for it. -/
theorem hearthsPowerOnAndBoot : Obligations.HearthsPowerOnAndBoot := by
  refine fun s h => ⟨fun hmod hrings hst hlower => nextOf_if_pos ⟨hmod, hrings, hst, not_of_false hlower⟩, fun hst => ?_⟩
  intro b waiting
  have hb : b = bootEnded s h true := (bootEnded_true s h).symm
  have hwaiting : waiting = bootWaiter s h := rfl
  refine ⟨fun i fw himage => ?_, ?_⟩
  · intro r
    have hr : r = bootedUnder s h i fw := by
      simp only [r, hb]
      rw [bootedUnder, bootEnded, updH_fuses, updH_flash]
    have hboot := exec_hearthBootComplete_ok s h i fw hst himage
    rw [← hwaiting, ← hr] at hboot
    refine ⟨fun hnone => ?_, fun u id hsome => ?_⟩
    · rw [hboot, hnone]
    · rw [hboot, hsome]
      rfl
  · intro f
    have hf : f = bootEnded s h false := (bootEnded_false s h).symm
    have hboot := exec_hearthBootComplete_fails s h hst
    rw [← hwaiting, ← hf] at hboot
    refine ⟨fun hnone => ?_, fun u id hsome => ?_⟩
    · rw [hboot, hnone]
    · rw [hboot, hsome]
      rfl

/-! ### The mantel's units -/

/-- The identity engine starts (R446, R453). -/
theorem exec_identityEngineStart (s : State) (ok : Bool) (hoff : s.trust.engineOn = false) (hworks : s.trust.engineFailed = false)
    (halive : s.fuses.kill = false) (hmod : s.mod ≠ .alarm) (hbooted : s.power.booted = true)
    (hruns : s.ringsOn = true ∨ s.romEngine = true) : exec (.identityEngineStart ok) s = .next (settle (
      let t := { s with trust := { s.trust with engineOn := true, next := s.flash.leafEnd, leafEnd := s.flash.leafEnd } }
      serveAttests (if ok = true ∧ s.flash.writable = true then { t with
        flash := { s.flash with leafEnd := s.flash.leafEnd + 1024 }
        trust := { t.trust with leafEnd := s.flash.leafEnd + 1024 } } else t))) := by
  have hstarts : ¬ (s.trust.engineOn = true ∨ s.trust.engineFailed = true ∨ s.fuses.kill = true ∨ s.mod = .alarm ∨
      (!s.power.booted) = true ∨ (!decide (s.ringsOn = true ∨ s.romEngine = true)) = true) := by
    simp [hoff, hworks, halive, hmod, hbooted, hruns]
  change execIdentityEngineStart ok s = _
  unfold execIdentityEngineStart
  rw [if_neg hstarts]
  rfl

/-- The active pair fails over to its standby (R415). -/
theorem exec_failover (s : State) (hstandby : s.standbyOk = true) (hpairs : s.pairsFailed = false) :
    exec .failover s = .next (settle (
      let t := logAll { s with pairBucket := [] } 0x0064 (pathOf 10 0 0 0 0 0) 0 (detailOf [(0, 1, 0)])
      { t with standbyOk := false, regs := { t.regs with failover := true } })) := by
  refine (done_if_pos ⟨hstandby, not_of_false hpairs⟩).trans ?_
  have hkept : (logAll { s with pairBucket := [] } 0x0064 (pathOf 10 0 0 0 0 0) 0 (detailOf [(0, 1, 0)])).standbyOk = true :=
    (onHearths_standbyOk _ _ _).trans hstandby
  simp only [failPair, if_pos hstandby, hkept, if_true]

/-- JTAG by its instruction and the debug access that is open for the die (R458). -/
theorem exec_jtagInstruction (s : State) (die ir : Nat) (hon : s.power.mantelOn = true) : exec (.jtagInstruction die ir) s =
    if ir < 4 ∨ (debugScope s.trust).getLsbD (scopeBit die) = true then .next { s with rsp := .jtag true }
    else .next (settle { raiseAlarm s .debug with rsp := .jtag false }) := by
  change execJtagInstruction die ir s = _
  unfold execJtagInstruction
  rw [if_neg (not_not_of_true hon)]
  rfl

/-- The one debug access that is open ends (R458). -/
theorem exec_debugAccessExpiry_one (s : State) (x : BitVec 10 × Nat) (h : s.trust.debug = [x]) :
    exec .debugAccessExpiry s = .next { s with trust := { s.trust with debug := [] } } := by
  have hfirst : [x].findIdx? (fun y => [x].all fun z => decide (y.2 ≤ z.2)) = some 0 := by simp
  change execDebugAccessExpiry s = _
  unfold execDebugAccessExpiry
  simp only [h, hfirst]
  rfl

/-- The power controller fails: module sensors 3 to 5 read STATE 4 (Table 1-12). -/
theorem exec_powerControllerFailure (s : State) (hworks : s.power.controllerFailed = false) (hon : s.power.mantelOn = true) :
    exec .powerControllerFailure s = .next (mantelFail { s with
      power := { s.power with controllerFailed := true }
      sensors := [3, 4, 5].foldl (fun m i => mupd {} m i (fun x => { x with state := 4 })) s.sensors } 0) := by
  change execPowerControllerFailure s = _
  unfold execPowerControllerFailure
  rw [if_neg (not_or.mpr ⟨not_true_of_false hworks, not_not_of_true hon⟩)]
  rfl

/-- Settles O32: each unit's start or failure under its premises. -/
theorem mantelUnitsStartAndFail : Obligations.MantelUnitsStartAndFail := by
  refine ⟨fun s => ⟨fun hoff hworks halive hmod hbooted hruns ok =>
      exec_identityEngineStart s ok hoff hworks halive hmod hbooted hruns,
    fun hworks => done_if_neg (not_true_of_false hworks), fun hworks => done_if_neg (not_true_of_false hworks),
    fun hworks hon => exec_powerControllerFailure s hworks hon,
    fun hworks => nextOf_if_neg (not_true_of_false hworks)⟩,
    fun s => ⟨fun hworks => done_if_neg (not_true_of_false hworks), fun hstandby hpairs => exec_failover s hstandby hpairs,
      fun hworks => done_if_neg (not_true_of_false hworks), fun src hon hperst => done_if_pos ⟨hon, not_of_false hperst⟩,
      fun die ir hon => ⟨fun hopen => ?_, fun hir hclosed => ?_⟩, fun x h => exec_debugAccessExpiry_one s x h, rfl⟩⟩
  · rw [exec_jtagInstruction s die ir hon, if_pos hopen]
  · rw [exec_jtagInstruction s die ir hon, if_neg (not_or.mpr ⟨by omega, not_true_of_false hclosed⟩)]

/-! ### Clocks, temperature and sensors -/

theorem heldStep_of_controller (s : State) (step : Nat) (h : s.power.controllerFailed = false) : heldStep s step = step := by
  have hshort : capShort s = false := by rw [capShort, h, Bool.false_and]
  rw [heldStep, if_neg (not_true_of_false hshort)]

/-- Settles O34: each event of a hearth's clock, temperature and charges, and of the sensors, under its premises. -/
theorem clocksHeatAndSensorsAct : Obligations.ClocksHeatAndSensorsAct :=
  ⟨fun _ _ hrail => ⟨fun _ hlow hhigh => nextOf_if_pos ⟨hlow, hhigh, hrail⟩, fun _ => nextOf_if_pos hrail,
      fun _ hdraw hworks => nextOf_if_pos ⟨hdraw, not_of_false hworks⟩, fun hst => done_if_pos ⟨hrail, hst⟩⟩,
    fun s => ⟨fun hworks step => heldStep_of_controller s step hworks, fun _ => rfl,
      fun _ hon hperst => nextOf_if_neg (not_or.mpr ⟨not_not_of_true hon, not_true_of_false hperst⟩)⟩⟩

end Sys2Proof.Machine

/-! Flue ports and links (chapter 9): credits, lanes, training and resynchronisation. -/

namespace Sys2Proof.Machine

/-! ### Events of one hearth -/

/-- An event of one hearth, by what its rules make of it. -/
theorem hearthEvent_becomes {s : State} {h : Nat} {f : Env → Hearth → Hearth} {hh x : Hearth} (hof : hearthOf s h = hh)
    (hf : f (envOf s h) hh = x) : hearthEvent s h f = becomes s h x := by
  subst hof
  subst hf
  rfl

/-- A change of one hearth, by what it makes of it. -/
theorem updH_congr {s : State} {h : Nat} {f g : Hearth → Hearth} (hf : f (hearthOf s h) = g (hearthOf s h)) :
    updH s h f = updH s h g := congrArg (putH s h) hf

/-! ### A channel's turn -/

section
variable {s : State} {h t c : Nat} {hh hh' : Hearth} (hof : hearthOf s h = hh) (ht : t < 14) (hc : c < 4)
  (hturn : chanTurn h hh t c = true)
  (hh'_eq : hh' = if c % 2 = 0 then putPort hh t { fport hh t with altBulk := c == 0 } else hh)
include hof ht hc hturn hh'_eq

/-- With no transit cell waiting the injection queue's next cell takes the turn (R279). -/
theorem exec_cellInject_injection (x : Nat × QCell × Turn) (hempty : mget [] (fport hh t).transit c = [])
    (hnext : injNext h hh t c = some x) :
    exec (.cellInject h t c) s = becomes s h (injTurn (envOf s h) hh' t c x) := by
  have hhas : ¬ (14 ≤ t ∨ 4 ≤ c ∨ (!chanTurn h hh t c) = true) :=
    not_or.mpr ⟨by omega, not_or.mpr ⟨by omega, not_not_of_true hturn⟩⟩
  refine hearthEvent_becomes hof ?_
  rw [if_neg hhas, hh'_eq]
  dsimp only
  rw [hempty, hnext]

variable {q : QCell} {rest : List QCell} (htransit : mget [] (fport hh t).transit c = q :: rest)
include htransit

/-- A transit cell goes when its port forwards it, its link takes it, and the injection queue has none to go or went last. -/
theorem exec_cellInject_transit (hfwd : flueForwards hh = true) (htakes : linkTakes hh t c = true)
    (hfree : injNext h hh t c = none ∨ mget false (fport hh t).altTransit c = false) :
    exec (.cellInject h t c) s = becomes s h (place (envOf s h) (freeSlot (putPort hh' t { fport hh' t with
      transit := mput [] (fport hh' t).transit c rest, altTransit := mput false (fport hh' t).altTransit c true })
        q.port c) t c q) := by
  have hhas : ¬ (14 ≤ t ∨ 4 ≤ c ∨ (!chanTurn h hh t c) = true) :=
    not_or.mpr ⟨by omega, not_or.mpr ⟨by omega, not_not_of_true hturn⟩⟩
  have hgoes : flueForwards hh = true ∧ linkTakes hh t c = true ∧
      ((injNext h hh t c).isNone = true ∨ (!mget false (fport hh t).altTransit c) = true) :=
    ⟨hfwd, htakes, hfree.imp Option.isNone_iff_eq_none.mpr not_of_false⟩
  refine hearthEvent_becomes hof ?_
  rw [if_neg hhas, hh'_eq]
  dsimp only
  rw [htransit]
  exact if_pos hgoes

/-- Otherwise the injection queue's next cell takes the turn. -/
theorem exec_cellInject_instead (x : Nat × QCell × Turn) (hstays : ¬ (flueForwards hh = true ∧ linkTakes hh t c = true ∧
      (injNext h hh t c = none ∨ mget false (fport hh t).altTransit c = false))) (hnext : injNext h hh t c = some x) :
    exec (.cellInject h t c) s = becomes s h (injTurn (envOf s h) hh' t c x) := by
  have hhas : ¬ (14 ≤ t ∨ 4 ≤ c ∨ (!chanTurn h hh t c) = true) :=
    not_or.mpr ⟨by omega, not_or.mpr ⟨by omega, not_not_of_true hturn⟩⟩
  have hgoes : ¬ (flueForwards hh = true ∧ linkTakes hh t c = true ∧
      ((injNext h hh t c).isNone = true ∨ (!mget false (fport hh t).altTransit c) = true)) := by
    simpa only [Option.isNone_iff_eq_none, Bool.not_eq_true'] using hstays
  refine hearthEvent_becomes hof ?_
  rw [if_neg hhas, hh'_eq]
  dsimp only
  rw [htransit]
  dsimp only
  rw [if_neg hgoes, hnext]

end

/-! ### Link words -/

section
variable {s : State} {h t : Nat} {w : BitVec 20}

/-- Any word comes in at an off-package port that is UP, which then sends its own (log 135). -/
theorem takeWord_offPackage (ht : t < 6) (hup : linkUp (hearthOf s h) t = true) : takeWord s h t w = some (sendWord s h t) := by
  rw [takeWord, if_neg (not_or.mpr ⟨by omega, not_not_of_true hup⟩), if_pos ht]

/-- On an on-package link the far port's next word comes in, and is sent (log 135). -/
theorem takeWord_onPackage (ht : t < 14) (ht' : 6 ≤ t) (hup : linkUp (hearthOf s h) t = true)
    (hw : w = nextWord s (farHearth h t) (linkTile (farHearth h t) h)) :
    takeWord s h t w = some (sendWord s (farHearth h t) (linkTile (farHearth h t) h)) := by
  rw [takeWord, if_neg (not_or.mpr ⟨by omega, not_not_of_true hup⟩), if_neg (by omega), if_pos hw]

/-- CHANNEL of a link word. -/
theorem nbits_channel (w : BitVec 20) : nbits w.toNat 19 18 = w.toNat / 2 ^ 18 :=
  Nat.mod_eq_of_lt (Nat.div_lt_of_lt_mul (Nat.lt_of_lt_of_le w.isLt (by decide)))

/-- Bits [3:0] of a link word in two parts. -/
theorem nbits_low (w : Nat) : (nbits w 3 2 = 3 ∧ nbits w 1 0 = 2) ↔ w % 16 = 14 := by
  simp only [nbits]
  omega

/-- A link word with CREDITS, by what it makes a port send (R276, R277). -/
theorem exec_linkCreditReturn {b : State} (hword : w.toNat % 16 ≠ 14)
    (hroom : mget 0 (fport (hearthOf s h) t).txCredits (w.toNat / 2 ^ 18) + w.toNat / 2 ^ 10 % 2 ^ 8 ≤ rxSlots t (w.toNat / 2 ^ 18))
    (hsent : takeWord s h t w = some b) : exec (.linkCreditReturn h t w) s = .next (settle (updH b h (fun hh =>
      seeLanes (addCredits hh t (w.toNat / 2 ^ 18) (w.toNat / 2 ^ 10 % 2 ^ 8)) t w.toNat))) := by
  have hcomes : ¬ ((nbits w.toNat 3 2 = 3 ∧ nbits w.toNat 1 0 = 2) ∨
      rxSlots t (nbits w.toNat 19 18) < mget 0 (fport (hearthOf s h) t).txCredits (nbits w.toNat 19 18) + nbits w.toNat 17 10) := by
    rw [nbits_low, nbits_channel]
    exact not_or.mpr ⟨hword, Nat.not_lt.mpr hroom⟩
  change execLinkCreditReturn h t w s = _
  unfold execLinkCreditReturn
  rw [if_neg hcomes, hsent, nbits_channel]
  rfl

end

/-- Cells that have left a link leave the ports as they are. -/
theorem leaveLink_ports (hh : Hearth) (t c n : Nat) : (leaveLink hh t c n).ports = hh.ports := by
  induction n generalizing hh with
  | zero => rfl
  | succ n ih =>
    unfold leaveLink
    split
    · rfl
    · exact ih _

theorem fport_leaveLink (hh : Hearth) (t c n u : Nat) : fport (leaveLink hh t c n) u = fport hh u := by
  rw [fport, leaveLink_ports]
  rfl

/-- The credits of a channel grow by those that come back (R277). -/
theorem txCredits_addCredits (hh : Hearth) (t c n : Nat) (hports : smapWf ({} : FPort) hh.ports = true)
    (hcredits : smapWf 0 (fport hh t).txCredits = true) :
    mget 0 (fport (addCredits hh t c n) t).txCredits c = mget 0 (fport hh t).txCredits c + n := by
  have hport : fport (addCredits hh t c n) t = { fport hh t with txCredits := mupd 0 (fport hh t).txCredits c (· + n) } := by
    unfold addCredits
    split
    · rw [fport_leaveLink, fport_putPort hh t t _ hports, if_pos rfl]
    · rw [fport_putPort hh t t _ hports, if_pos rfl]
  rw [hport]
  exact (mget_mupd 0 _ c c (· + n) hcredits).trans (if_pos rfl)

/-- Settles O35: the channel's turn by what waits, and a word by the port that it comes in at. -/
theorem cellsLeaveAndCreditsReturn : Obligations.CellsLeaveAndCreditsReturn := by
  refine ⟨fun s h t c hh hh' hof ht hc hturn hh'_eq => ⟨fun x hempty hnext =>
      exec_cellInject_injection hof ht hc hturn hh'_eq x hempty hnext,
    fun q rest htransit hfwd htakes hfree => exec_cellInject_transit hof ht hc hturn hh'_eq htransit hfwd htakes hfree,
    fun q rest x htransit hstays hnext => exec_cellInject_instead hof ht hc hturn hh'_eq htransit x hstays hnext⟩,
    fun s h t w ht hup => ?_, fun hh t c n hports hcredits => txCredits_addCredits hh t c n hports hcredits⟩
  intro c n f u takes hword hroom
  exact ⟨fun hoff => exec_linkCreditReturn hword hroom (takeWord_offPackage hoff hup),
    fun hon hw => exec_linkCreditReturn hword hroom (takeWord_onPackage ht hon hup hw)⟩

/-! ### Lanes -/

section
variable {s : State} {h t : Nat} {hh : Hearth} (hof : hearthOf s h = hh) (ht : t < 6)
include hof ht

/-- An equalisation request moves one tap by one step within its limits (R280). -/
theorem exec_eqRequest (hlive : linkUp hh t = true ∨ (fport hh t).st = .training) (w : BitVec 20)
    (htap : w.toNat / 4 % 4 ≠ 3) (hstep : w.toNat % 4 = 1 ∨ w.toNat % 4 = 2) :
    let lane := w.toNat / 16 % 4
    let tap := w.toNat / 4 % 4
    exec (.eqRequest h t w) s = .next (settle (updH (sendWord s h t) h (fun hh =>
      let hs := seeLanes hh t w.toNat
      let v := mget 0 (fport hs t).taps (4 * lane + tap) + (if w.toNat % 4 = 1 then 1 else -1)
      if (Config.tapLimit h t lane tap).1 ≤ v ∧ v ≤ (Config.tapLimit h t lane tap).2 then
        putPort hs t { fport hs t with taps := mput 0 (fport hs t).taps (4 * lane + tap) v } else hs))) := by
  intro lane tap
  have hlow : nbits w.toNat 1 0 = w.toNat % 4 := congrArg (· % 4) (Nat.div_one _)
  have hcomes : ¬ (6 ≤ t ∨ (!(linkUp (hearthOf s h) t || (fport (hearthOf s h) t).st == .training)) = true) := by
    refine not_or.mpr ⟨by omega, not_not_of_true ?_⟩
    simpa only [hof, Bool.or_eq_true, beq_iff_eq] using hlive
  have hmoves : ¬ (nbits w.toNat 3 2 = 3 ∨ (!(nbits w.toNat 1 0 == 1 || nbits w.toNat 1 0 == 2)) = true) := by
    refine not_or.mpr ⟨htap, not_not_of_true ?_⟩
    simpa only [hlow, Bool.or_eq_true, beq_iff_eq] using hstep
  change execEqRequest h t w s = _
  unfold execEqRequest
  rw [if_neg hcomes]
  refine congrArg done (updH_congr ?_)
  dsimp only
  rw [if_neg hmoves]
  simp only [hlow, beq_iff_eq]
  rfl

/-- A lane in service of a port that is UP goes into training, with an event in its bucket (R281). -/
theorem exec_laneEvent (hup : linkUp hh t = true) (lane cause margin : Nat) (hlane : lane < 4)
    (hin : nbit (fport hh t).lanes.toNat lane = true) :
    let key := bucketKey 6 (4 * t + lane)
    exec (.laneEvent h t lane cause margin) s = becomes s h (laneless (eventRec (envOf s h)
      (putPort hh t { fport hh t with
        lanes := (fport hh t).lanes &&& BitVec.ofNat 4 (15 - 2 ^ lane)
        training := (fport hh t).training ||| BitVec.ofNat 4 (2 ^ lane) }) key
      { cls := 0x0032, path := BitVec.ofNat 64 (keyPath key), detail := detailOf [(0, 8, cause), (8, 8, margin)] }).1 t) :=
  hearthEvent_becomes hof (if_neg (not_or.mpr ⟨by omega, not_or.mpr ⟨not_not_of_true hup,
    not_or.mpr ⟨not_not_of_true hin, by omega⟩⟩⟩))

/-- A lane in training returns, or its fault is permanent (R281). -/
theorem exec_laneRetrainComplete (lane : Nat) (ok : Bool) (hlane : lane < 4)
    (htraining : nbit (fport hh t).training.toNat lane = true) :
    let p := { fport hh t with training := (fport hh t).training &&& BitVec.ofNat 4 (15 - 2 ^ lane) }
    exec (.laneRetrainComplete h t lane ok) s = becomes s h (if ok = true then
        (if hh.lanesOut.contains (4 * t + lane) ∨ hh.portsOut.contains t then putPort hh t p
         else putPort hh t { p with lanes := p.lanes ||| BitVec.ofNat 4 (2 ^ lane) })
      else permanent (putPort hh t p) (bucketKey 6 (4 * t + lane)) 0 0x0032 (hh.ashNext - 1)) :=
  hearthEvent_becomes hof (if_neg (not_or.mpr ⟨by omega, not_or.mpr ⟨by omega, not_not_of_true htraining⟩⟩))

/-- A change of lanes that both ends agree on takes effect with a resynchronisation (R281). -/
theorem exec_laneChange (hup : linkUp hh t = true) : exec (.laneChange h t (fport hh t).lanes) s =
    becomes s h (startResync (putPort hh t { fport hh t with lanesFar := (fport hh t).lanes }) t 0) :=
  hearthEvent_becomes hof (if_neg (not_or.mpr ⟨by omega, not_or.mpr ⟨not_not_of_true hup, not_not_intro rfl⟩⟩))

end

/-- Settles O36: each event of a lane under its premises. -/
theorem lanesTrainAndReturn : Obligations.LanesTrainAndReturn := by
  refine fun s h t hh hof ht => ⟨fun hlive w => ?_, fun hup lane cause margin hlane hin =>
      exec_laneEvent hof ht hup lane cause margin hlane hin, fun lane hlane htraining => ⟨?_, ?_⟩,
    fun hup => exec_laneChange hof ht hup⟩
  · intro lane tap htap hstep
    exact exec_eqRequest hof ht hlive w htap hstep
  · exact (exec_laneRetrainComplete hof ht lane true hlane htraining).trans (congrArg (becomes s h) (if_pos rfl))
  · exact (exec_laneRetrainComplete hof ht lane false hlane htraining).trans (congrArg (becomes s h) (if_neg Bool.false_ne_true))

end Sys2Proof.Machine

/-! Resynchronisation and training of links (R278, R282), and cells that arrive (R284, R296). -/

namespace Sys2Proof.Machine

/-! ### Resynchronisation -/

section
variable {s : State} {h t : Nat} (ht : t < 14)
include ht

section
variable (hup : linkUp (hearthOf s h) t = true)
include hup

/-- A damaged codeword of an off-package link counts its cells and starts a resynchronisation (R278 step 1). -/
theorem exec_codewordUncorrectable_offPackage (cells : Nat) (hcells : cells ≤ 15) (hoff : t < 6) :
    exec (.codewordUncorrectable h t cells) s = .next (settle (updH s h (fun hh => startResync hh t cells))) := by
  have hlive : ¬ (14 ≤ t ∨ (!linkUp (hearthOf s h) t) = true ∨ 15 < cells) :=
    not_or.mpr ⟨by omega, not_or.mpr ⟨not_not_of_true hup, by omega⟩⟩
  change execCodewordUncorrectable h t cells s = _
  unfold execCodewordUncorrectable
  rw [if_neg hlive, if_pos hoff]
  rfl

/-- On an on-package link the first cells on it are lost, and counted. -/
theorem exec_codewordUncorrectable_onPackage (cells : Nat) (hcells : cells ≤ 15) (hon : 6 ≤ t) :
    let f := farHearth h t
    let u := linkTile f h
    let n := min cells ((hearthOf s f).sent.filter (fun x => x.port == u)).length
    exec (.codewordUncorrectable h t cells) s =
      .next (settle (updH (updH s f (fun hh => loseCells hh u n)) h (fun hh => startResync hh t n))) := by
  have hlive : ¬ (14 ≤ t ∨ (!linkUp (hearthOf s h) t) = true ∨ 15 < cells) :=
    not_or.mpr ⟨by omega, not_or.mpr ⟨not_not_of_true hup, by omega⟩⟩
  intro f u n
  change execCodewordUncorrectable h t cells s = _
  unfold execCodewordUncorrectable
  rw [if_neg hlive, if_neg (by omega)]
  rfl

/-- The request of a resynchronisation gives the other end four reports to send (R278 step 3). -/
theorem exec_resyncRequest_offPackage (hoff : t < 6) : exec (.resyncRequest h t) s =
    .next (settle (updH (sendWord s h t) h (fun hh => putPort hh t { fport hh t with reports := [0, 1, 2, 3] }))) := by
  change execResyncRequest h t s = _
  unfold execResyncRequest
  rw [if_neg (not_or.mpr ⟨by omega, not_or.mpr ⟨not_not_of_true hup, fun hon => by omega⟩⟩), if_pos hoff]
  rfl

/-- On an on-package link the request is the next word of a far port that has not asked yet. -/
theorem exec_resyncRequest_onPackage (hon : 6 ≤ t) (hresync : (farPort s h t).st = .resync) (hasked : (farPort s h t).asked = false)
    (hreports : (farPort s h t).reports = []) : exec (.resyncRequest h t) s =
    .next (settle (updH (sendWord s (farHearth h t) (linkTile (farHearth h t) h)) h (fun hh =>
      putPort hh t { fport hh t with reports := [0, 1, 2, 3] }))) := by
  have hasks : ¬ (6 ≤ t ∧ ((farPort s h t).st ≠ .resync ∨ (farPort s h t).asked = true ∨ (farPort s h t).reports ≠ [])) := by
    rintro ⟨-, hst | hset | hleft⟩
    · exact hst hresync
    · exact not_true_of_false hasked hset
    · exact hleft hreports
  change execResyncRequest h t s = _
  unfold execResyncRequest
  refine (if_neg (not_or.mpr ⟨by omega, not_or.mpr ⟨not_not_of_true hup, hasks⟩⟩)).trans ?_
  rw [if_neg (by omega)]
  rfl

end

/-- A report gives its channel its credits, by what it makes a port send (R278 step 4). -/
theorem exec_resyncReport {w : BitVec 20} {b : State} (hst : (fport (hearthOf s h) t).st = .resync) (hw : w.toNat % 16 = 14)
    (hfree : w.toNat / 2 ^ 6 % 2 ^ 12 ≤ rxSlots t (w.toNat / 2 ^ 18)) (hsent : takeWord s h t w = some b) :
    exec (.resyncReport h t w) s =
      .next (settle (updH b h (fun hh => takeReport hh t (w.toNat / 2 ^ 18) (w.toNat / 2 ^ 6 % 2 ^ 12)))) := by
  have hlow : nbits w.toNat 3 0 = 14 := (congrArg (· % 16) (Nat.div_one _)).trans hw
  have hcomes : ¬ (14 ≤ t ∨ (fport (hearthOf s h) t).st ≠ .resync ∨ nbits w.toNat 3 0 ≠ 14 ∨
      rxSlots t (nbits w.toNat 19 18) < nbits w.toNat 17 6) := by
    rw [nbits_channel]
    exact not_or.mpr ⟨by omega, not_or.mpr ⟨not_not_intro hst, not_or.mpr ⟨not_not_intro hlow, Nat.not_lt.mpr hfree⟩⟩⟩
  change execResyncReport h t w s = _
  unfold execResyncReport
  rw [if_neg hcomes, hsent, nbits_channel]
  rfl

end

/-- A port in RESYNC is one whose link is UP. -/
theorem linkUp_of_resync {hh : Hearth} {t : Nat} (h : (fport hh t).st = .resync) : linkUp hh t = true := by
  simp only [linkUp, h]
  decide

/-- A report that is taken: the channel's credits, and what is still awaited; the fourth brings the link UP. -/
theorem fport_takeReport (hh : Hearth) (t c free : Nat) (hports : smapWf ({} : FPort) hh.ports = true) :
    let seen := if (fport hh t).report.contains c then (fport hh t).report else (fport hh t).report ++ [c]
    fport (takeReport hh t c free) t = { fport hh t with
      txCredits := mput 0 (fport hh t).txCredits c free, report := if seen.length = 4 then [] else seen
      st := if seen.length = 4 then .up else .resync } := by
  intro seen
  unfold takeReport
  extract_lets p seen' gone left
  have hleft : smapWf ({} : FPort) left.ports = true := by
    simp only [left]
    split
    · rw [leaveLink_ports]
      exact hports
    · exact hports
  rw [fport_putPort left t t _ hleft, if_pos rfl]

theorem takeReport_sets (hh : Hearth) (t c free : Nat) (hports : smapWf ({} : FPort) hh.ports = true)
    (hcredits : smapWf 0 (fport hh t).txCredits = true) :
    let p := fport (takeReport hh t c free) t
    let seen := if (fport hh t).report.contains c then (fport hh t).report else (fport hh t).report ++ [c]
    mget 0 p.txCredits c = free ∧ (seen.length = 4 → p.st = .up ∧ p.report = []) ∧
      (seen.length ≠ 4 → p.st = .resync ∧ p.report = seen) := by
  intro p seen
  have hp : p = _ := fport_takeReport hh t c free hports
  refine ⟨?_, fun hall => ?_, fun hmore => ?_⟩
  · rw [hp]
    exact (mget_mput 0 _ c c free hcredits).trans (if_pos rfl)
  · rw [hp]
    exact ⟨if_pos hall, if_pos hall⟩
  · rw [hp]
    exact ⟨if_neg hmore, if_neg hmore⟩

/-! ### Training -/

section
variable {s : State} {h t : Nat} {hh : Hearth} (hof : hearthOf s h = hh) (ht : t < 14)
include hof ht

section
variable (hst : (fport hh t).st = .training) (hin : portIn hh t = true) (href : s.power.flueRef ≠ 2)
include hst hin href

/-- A link in training comes UP on its working lanes with full credits (R277, R282). -/
theorem exec_linkTrainingComplete_offPackage (lanes far : BitVec 4) (hoff : t < 6) (hlanes : lanes ≠ 0)
    (hworking : lanes.toNat &&& lanesIn hh t = lanes.toNat) : exec (.linkTrainingComplete h t lanes far) s =
    .next (settle (updH s h (fun hh => putPort (anew hh t) t { fport (anew hh t) t with
      st := .up, lanes := lanes, lanesFar := far, training := 0 }))) := by
  have hzero : lanes.toNat ≠ 0 := fun hz => hlanes (BitVec.eq_of_toNat_eq hz)
  have hnot : ¬ 6 ≤ t := by omega
  subst hof
  change execLinkTrainingComplete h t lanes far s = _
  unfold execLinkTrainingComplete
  simp only [if_neg hnot]
  rw [if_neg (not_or.mpr ⟨by omega, not_or.mpr ⟨not_not_intro hst, not_or.mpr ⟨not_not_of_true hin, not_or.mpr ⟨href,
    not_or.mpr ⟨hzero, not_or.mpr ⟨not_not_intro hworking, fun hon => hnot hon.1⟩⟩⟩⟩⟩⟩), if_neg (fun hon => hnot hon.1),
    BitVec.ofNat_toNat, BitVec.setWidth_eq]
  rfl

/-- An on-package link whose far port trains too comes UP. -/
theorem exec_linkTrainingComplete_training (lanes far : BitVec 4) (hon : 6 ≤ t) (hfar : (farPort s h t).st = .training) :
    exec (.linkTrainingComplete h t lanes far) s = .next (settle (updH s h (fun hh =>
      putPort (anew hh t) t { fport (anew hh t) t with st := .up, lanes := 15, lanesFar := 15, training := 0 }))) := by
  have hlanes : (15 : Nat) &&& lanesIn hh t = 15 := by rw [lanesIn, if_pos hon]; rfl
  subst hof
  change execLinkTrainingComplete h t lanes far s = _
  unfold execLinkTrainingComplete
  simp only [if_pos hon]
  rw [if_neg (not_or.mpr ⟨by omega, not_or.mpr ⟨not_not_intro hst, not_or.mpr ⟨not_not_of_true hin, not_or.mpr ⟨href,
    not_or.mpr ⟨by decide, not_or.mpr ⟨not_not_intro hlanes, fun hf => hf.2.1 hfar⟩⟩⟩⟩⟩⟩), if_neg (fun hf => hf.2 hfar)]
  rfl

/-- An on-package link whose far port is UP starts anew at both ends. -/
theorem exec_linkTrainingComplete_farUp (lanes far : BitVec 4) (hon : 6 ≤ t) (hfar : (farPort s h t).st = .up) :
    let f := farHearth h t
    let u := linkTile f h
    exec (.linkTrainingComplete h t lanes far) s = .next (settle (updH
      (updH s f (fun hh => putPort (anew hh u) u { fport (anew hh u) u with st := .up })) h (fun hh =>
        putPort (anew hh t) t { fport (anew hh t) t with st := .up, lanes := 15, lanesFar := 15, training := 0 }))) := by
  intro f u
  have hlanes : (15 : Nat) &&& lanesIn hh t = 15 := by rw [lanesIn, if_pos hon]; rfl
  have hfst : (farPort s h t).st ≠ .training := fun hf => by rw [hfar] at hf; exact absurd hf (by decide)
  have hup : linkUp (hearthOf s f) u = true := by
    have hport : (fport (hearthOf s f) u).st = .up := hfar
    simp only [linkUp, hport]
    decide
  subst hof
  change execLinkTrainingComplete h t lanes far s = _
  unfold execLinkTrainingComplete
  simp only [if_pos hon]
  rw [if_neg (not_or.mpr ⟨by omega, not_or.mpr ⟨not_not_intro hst, not_or.mpr ⟨not_not_of_true hin, not_or.mpr ⟨href,
    not_or.mpr ⟨by decide, not_or.mpr ⟨not_not_intro hlanes, fun hf => not_not_of_true hup hf.2.2⟩⟩⟩⟩⟩⟩), if_pos ⟨hon, hfst⟩]
  rfl

end

/-- A link that draws out its training returns to DOWN (R282). -/
theorem exec_linkTrainingTimeout (hst : (fport hh t).st = .training) :
    exec (.linkTrainingTimeout h t) s = becomes s h (putPort hh t { fport hh t with st := .down }) :=
  hearthEvent_becomes hof (if_pos ⟨ht, hst⟩)

/-- A link that drains goes DOWN at the end of the drain (R282). -/
theorem exec_flueDownDrainEnd (hdraining : (fport hh t).draining = true) :
    exec (.flueDownDrainEnd h t) s = .next (settle (linkDown s h t)) := by
  subst hof
  exact if_pos ⟨ht, hdraining⟩

/-- The damper falls a level (R314). -/
theorem exec_damperLevelFall (hlevel : 0 < (fport hh t).damper) (hqueue : injCount (fport hh t) < damperLeave (fport hh t).damper) :
    exec (.damperLevelFall h t) s = becomes s h (putPort hh t { fport hh t with damper := (fport hh t).damper - 1 }) :=
  hearthEvent_becomes hof (if_pos ⟨ht, hlevel, hqueue⟩)

end

/-- Settles O37: each event of a link under its premises. -/
theorem linksTrainAndResynchronise : Obligations.LinksTrainAndResynchronise := by
  refine ⟨fun s h t ht => ?_, fun hh t c free hports hcredits => takeReport_sets hh t c free hports hcredits,
    fun s h t hh hof ht => ?_, fun s => ⟨fun hon href => nextOf_if_pos ⟨hon, href⟩, fun href => if_neg (not_not_intro href), rfl⟩⟩
  · intro f u
    refine ⟨fun hup => ⟨fun cells hcells hoff => exec_codewordUncorrectable_offPackage ht hup cells hcells hoff,
      fun cells hcells hon => exec_codewordUncorrectable_onPackage ht hup cells hcells hon,
      fun hoff => exec_resyncRequest_offPackage ht hup hoff,
      fun hon hresync hasked hreports => exec_resyncRequest_onPackage ht hup hon hresync hasked hreports⟩, fun w hst hw => ?_⟩
    intro c free takes hfree
    have hup := linkUp_of_resync hst
    exact ⟨fun hoff => exec_resyncReport ht hst hw hfree (takeWord_offPackage hoff hup),
      fun hon hnext => exec_resyncReport ht hst hw hfree (takeWord_onPackage ht hon hup hnext)⟩
  · intro f u
    refine ⟨fun lanes far hst hin href => ?_, fun hst => exec_linkTrainingTimeout hof ht hst,
      fun hdraining => exec_flueDownDrainEnd hof ht hdraining, fun hlevel hqueue => exec_damperLevelFall hof ht hlevel hqueue⟩
    intro up
    exact ⟨fun hoff hlanes hworking => exec_linkTrainingComplete_offPackage hof ht hst hin href lanes far hoff hlanes hworking,
      fun hon hfar => exec_linkTrainingComplete_training hof ht hst hin href lanes far hon hfar,
      fun hon hfar => exec_linkTrainingComplete_farUp hof ht hst hin href lanes far hon hfar⟩

/-! ### Cells that arrive -/

/-- A cell for another hearth that no port which is UP takes is dropped and counted (R318). -/
theorem exec_transitCell_dropped (s b : State) (h t : Nat) (c : Cell) (htaken : takeOff s h t c = some b)
    (hother : addressedHere h (hearthOf b h) (hdrOf c) = false) (hfwd : flueForwards (hearthOf b h) = true)
    (hnone : transitPort h (hearthOf b h) (hdrOf c) (!comesForeign s h t (chanOf (hdrOf c))) = none) :
    exec (.transitCell h t c) s = .next (settle (discard b h)) := by
  change execTransitCell h t c s = _
  unfold execTransitCell
  rw [htaken]
  dsimp only
  rw [if_neg (not_true_of_false hother), if_neg (not_not_of_true hfwd), hnone]
  rfl

/-- A cell for another hearth goes into the transit queue of the port that routing gives (R284). -/
theorem exec_transitCell_queued (s b : State) (h t u : Nat) (c : Cell) (htaken : takeOff s h t c = some b)
    (hother : addressedHere h (hearthOf b h) (hdrOf c) = false) (hfwd : flueForwards (hearthOf b h) = true)
    (hsome : transitPort h (hearthOf b h) (hdrOf c) (!comesForeign s h t (chanOf (hdrOf c))) = some u) :
    exec (.transitCell h t c) s = .next (settle (updH b h (fun hh =>
      let hh := putPort hh t { fport hh t with owed := mupd 0 (fport hh t).owed (chanOf (hdrOf c)) (· - 1) }
      putPort hh u { fport hh u with transit := mupd [] (fport hh u).transit (chanOf (hdrOf c)) (· ++
        [{ cell := c, dstModule := (hdrOf c).dstModule, dstHearth := (hdrOf c).dstHearth, transit := true, port := some t
           since := s.time.ns, own := !comesForeign s h t (chanOf (hdrOf c)) }]) }))) := by
  change execTransitCell h t c s = _
  unfold execTransitCell
  rw [htaken]
  dsimp only
  rw [if_neg (not_true_of_false hother), if_neg (not_not_of_true hfwd), hsome]
  rfl

/-- A cell arrives under the row of its own type (Table 9-10). -/
theorem rowCode_of_arrive {row h t : Nat} {s b : State} {c : Cell} (harrive : arrive row s h t c = some (b, true)) : rowCode c = row := by
  unfold arrive at harrive
  split at harrive
  · cases harrive
  · dsimp only at harrive
    split at harrive
    · cases harrive
    split at harrive
    · cases harrive
    split at harrive
    · cases harrive
    split at harrive
    · cases harrive
    next hrow => exact Classical.not_not.mp hrow

/-- The row of a cell below 16 is its type. -/
theorem type_of_rowCode_low {c : Cell} {row : Nat} (h : rowCode c = row) (hlow : row < 16) : (hdrOf c).type = row := by
  unfold rowCode at h
  dsimp only at h
  split at h
  · omega
  split at h
  · omega
  split at h
  · omega
  exact h

/-- The rows from 48 on are those of NOTICE cells. -/
theorem type_of_rowCode_notice {c : Cell} {row : Nat} (h : rowCode c = row) (hhigh : 48 ≤ row) : (hdrOf c).type = 13 := by
  have hnet : (hdrOf c).net < 2 := Nat.mod_lt _ (by decide)
  have htype : (hdrOf c).type < 16 := Nat.mod_lt _ (by decide)
  have hkind : nbits (pay c 0 8) 63 60 < 16 := Nat.mod_lt _ (by decide)
  unfold rowCode at h
  dsimp only at h
  split at h
  · omega
  split at h
  · omega
  split at h
  · assumption
  · omega

section
variable {s b : State} {h t i m d row : Nat} {c : Cell} {hh : Hearth} (harrive : arrive row s h t c = some (b, true))
  (hctx : cellCtx (hearthOf b h) t c = (i, m, d)) (haccept : acceptSeq (envOf b h) (hearthOf b h) i m d c = (hh, [c]))
include harrive hctx haccept

/-- A sequenced cell that its context takes in order is handed over (R296). -/
theorem seqCell_inOrder : seqCell row h t c s = .next (settle (handOver h t i (putH b h hh) c)) := by
  unfold seqCell
  rw [harrive]
  dsimp only
  rw [hctx]
  dsimp only
  rw [haccept]
  rfl

/-- Handed over by its type, below 16. -/
theorem seqCell_byType {r : State} (hlow : row < 16)
    (hr : (hdrOf c).type = row → handOver h t i (putH b h hh) c = r) : seqCell row h t c s = .next (settle r) := by
  rw [seqCell_inOrder harrive hctx haccept, hr (type_of_rowCode_low (rowCode_of_arrive harrive) hlow)]

/-- A cell of a row of the endpoints goes to its endpoint. -/
theorem seqCell_endpoint (hrow : row = 2 ∨ row = 6 ∨ row = 7 ∨ row = 8 ∨ row = 12) :
    seqCell row h t c s = .next (settle (onHearth (putH b h hh) h (fun e hh => epCell e hh c))) := by
  refine seqCell_byType harrive hctx haccept (by omega) fun htype => ?_
  unfold handOver
  rw [htype]
  rcases hrow with rfl | rfl | rfl | rfl | rfl <;> rfl

/-- A NOTICE goes to what it is for. -/
theorem seqCell_notice (hhigh : 48 ≤ row) : seqCell row h t c s = .next (settle (noticeCell (putH b h hh) h c)) := by
  rw [seqCell_inOrder harrive hctx haccept, handOver, type_of_rowCode_notice (rowCode_of_arrive harrive) hhigh]
  rfl

end

/-- Settles O38: transit by the port that routing gives, and delivery by the type of the cell. -/
theorem cellsArriveAndAreDelivered : Obligations.CellsArriveAndAreDelivered := by
  refine ⟨fun s b h t c htaken hother hfwd => ⟨fun hnone => exec_transitCell_dropped s b h t c htaken hother hfwd hnone,
    fun u hsome => exec_transitCell_queued s b h t u c htaken hother hfwd hsome⟩,
    fun s b h t i m d row c hh harrive hctx haccept => ?_⟩
  intro r toEndpoint notice
  refine ⟨?_, ?_, ?_, ?_, ?_, ?_, ?_, ?_, ?_, ?_, ?_, ?_, ?_, ?_, ?_⟩ <;> intro hrow <;> subst hrow
  case refine_1 | refine_2 | refine_4 | refine_5 | refine_9 | refine_10 =>
    exact seqCell_byType harrive hctx haccept (by decide) fun htype => by rw [handOver, htype]; rfl
  case refine_3 | refine_6 | refine_7 | refine_8 | refine_11 => exact seqCell_endpoint harrive hctx haccept (by decide)
  case refine_12 | refine_13 | refine_14 | refine_15 => exact seqCell_notice harrive hctx haccept (by decide)

/-! ### Contexts -/

/-- A record of a context acts on the state that its arrival left (R294, R298). -/
theorem ackCell_arrived {row h t i m d : Nat} {s b : State} {c : Cell} {f : State → Nat → Nat → Nat → State}
    (harrive : arrive row s h t c = some (b, true)) (hctx : ackCtx t c = (i, m, d)) :
    ackCell row h t c s f = .next (settle (f b i m d)) := by
  unfold ackCell
  rw [harrive]
  dsimp only
  rw [hctx]
  rfl

section
variable {s : State} {h i : Nat} {hh : Hearth} (hof : hearthOf s h = hh) (hon : flueOn hh = true)
include hof hon

/-- A context that has been sent again eight times is lost (R299). -/
theorem exec_resendTimeout_lost (hwaits : (peerOf hh i).st = .open ∧ (peerOf hh i).ack ≠ (peerOf hh i).send ∨ (peerOf hh i).st = .opening)
    (hretry : 8 ≤ (peerOf hh i).retry) : exec (.resendTimeout h i) s = .next (settle (losePeer s h i)) := by
  subst hof
  change execResendTimeout h i s = _
  unfold execResendTimeout
  refine (if_neg (not_or.mpr ⟨not_not_of_true hon, not_not_of_true (decide_eq_true hwaits.symm)⟩)).trans ?_
  exact if_pos hretry

/-- Unacknowledged cells of an open context are sent again with RETRY one higher (R298). -/
theorem exec_resendTimeout_open (hst : (peerOf hh i).st = .open) (hack : (peerOf hh i).ack ≠ (peerOf hh i).send)
    (hretry : (peerOf hh i).retry < 8) : exec (.resendTimeout h i) s = becomes s h
      (resendSeqs h (putPeer hh i { peerOf hh i with retry := (peerOf hh i).retry + 1 }) i
        (resendSet (peerOf hh i).ack (peerOf hh i).send (peerOf hh i).lastMap)) := by
  have hnot : (peerOf hh i).st ≠ .opening := fun hf => by rw [hst] at hf; exact absurd hf (by decide)
  subst hof
  change execResendTimeout h i s = _
  unfold execResendTimeout
  refine (if_neg (not_or.mpr ⟨not_not_of_true hon, not_not_of_true (decide_eq_true (.inr ⟨hst, hack⟩))⟩)).trans ?_
  refine (if_neg (Nat.not_le.mpr hretry)).trans ?_
  exact congrArg (fun x => done (putH s h x)) (if_neg hnot)

/-- The OPEN of a context that is opening is sent again with RETRY one higher (R298). -/
theorem exec_resendTimeout_opening (hst : (peerOf hh i).st = .opening) (hretry : (peerOf hh i).retry < 8) :
    exec (.resendTimeout h i) s = becomes s h (sendAck h (putPeer hh i { peerOf hh i with retry := (peerOf hh i).retry + 1 }) i 2
      (peerOf hh i).txEpoch (peerOf hh i).send.toNat 0) := by
  subst hof
  change execResendTimeout h i s = _
  unfold execResendTimeout
  refine (if_neg (not_or.mpr ⟨not_not_of_true hon, not_not_of_true (decide_eq_true (.inl hst))⟩)).trans ?_
  refine (if_neg (Nat.not_le.mpr hretry)).trans ?_
  exact congrArg (fun x => done (putH s h x)) (if_pos hst)

/-- Performed writes that no notice covers get one (R309). -/
theorem exec_writeDoneTimer (k m d ep n : Nat) (hk : hh.performed[k]? = some (m, d, ep, n)) :
    exec (.writeDoneTimer h k) s = becomes s h (sendNotice h
      { hh with performed := hh.performed.eraseIdx k } (writerDest m d) ep 1 0 0 0 n 0) := by
  refine hearthEvent_becomes hof ?_
  rw [hk]
  exact if_neg (not_not_of_true hon)

end

/-- Settles O40: each record by its context's state, and each timer under its premises. -/
theorem contextRecordsAndTimersAct : Obligations.ContextRecordsAndTimersAct := by
  refine ⟨fun s b h t i m d row c harrive hctx => ?_, fun s h i hh hof hon =>
    ⟨fun hsince => hearthEvent_becomes hof (if_pos ⟨hon, hsince⟩),
      fun hwaits hretry => exec_resendTimeout_lost hof hon hwaits hretry,
      fun hst hack hretry => exec_resendTimeout_open hof hon hst hack hretry,
      fun hst hretry => exec_resendTimeout_opening hof hon hst hretry,
      fun k m d ep n hk => exec_writeDoneTimer hof hon k m d ep n hk⟩⟩
  intro p
  refine ⟨?_, ?_, ?_, ?_, ?_⟩ <;> intro hrow <;> subst hrow
  · intro hst hserves
    change execAck h t c s = _
    rw [execAck, ackCell_arrived harrive hctx]
    exact congrArg (fun x => done (putH b h x)) (if_pos ⟨hst, hserves⟩)
  · intro hst hserves
    change execNack h t c s = _
    rw [execNack, ackCell_arrived harrive hctx]
    exact congrArg (fun x => done (putH b h x)) (if_pos ⟨hst, hserves⟩)
  · intro hfree
    change execOpen h t c s = _
    rw [execOpen, ackCell_arrived harrive hctx]
    exact congrArg (fun x => done (putH b h x)) (if_neg fun hbusy => not_not_of_true hfree hbusy.1)
  · intro hst hserves
    change execOpenAck h t c s = _
    rw [execOpenAck, ackCell_arrived harrive hctx]
    exact congrArg (fun x => done (putH b h x)) (if_pos ⟨hst, hserves⟩)
  · intro hst hserves
    change execReset h t c s = _
    rw [execReset, ackCell_arrived harrive hctx]
    exact congrArg done (if_pos ⟨hst, hserves⟩)

/-! ### Module time -/

/-- The tree hearth answers a query with the times it took (R327). -/
theorem exec_timeQuery (s b : State) (h t : Nat) (c : Cell) (harrive : arrive 32 s h t c = some (b, true))
    (htree : h = b.role.treeHearth) : exec (.timeQuery h t c) s = .next (settle (updH b h (fun hh =>
      sendTime h hh (replyDest t (hdrOf c)) 1 (b2n b.time.isSet) (pay c 0 8) (time16 b) (pay c 24 4)))) := by
  change execTimeQuery h t c s = _
  unfold execTimeQuery
  rw [harrive]
  exact if_neg (not_not_intro htree)

/-- An answer from the parent gives the offset that is applied, and locks module time (R327, R330). -/
theorem exec_timeAnswer (s b : State) (h t : Nat) (c : Cell) (harrive : arrive 33 s h t c = some (b, true))
    (htree : h = b.role.treeHearth) (hparent : b.role.parent = some ((hdrOf c).srcModule, (hdrOf c).srcHearth)) :
    exec (.timeAnswer h t c) s = .next (settle (
      let x := offset2 (pay c 0 8) (pay c 8 8) (pay c 16 8) (time16 b) (pay c 24 4) (pay c 28 4)
      let t := applyOffset b.time (!anyStepActive b) x
      { b with
        time := { t with isSet := t.isSet || nbit (hdrOf c).spare 0, lastExchange := t.ns }
        regs := { b.regs with timeUnlocked := false } })) := by
  change execTimeAnswer h t c s = _
  unfold execTimeAnswer
  rw [harrive]
  exact if_neg (not_or.mpr ⟨not_not_intro htree, not_not_intro hparent⟩)

/-- A tick of a module with a parent sends it a query (R327). -/
theorem exec_timeExchangeTick (s : State) (m d : Nat) (hparent : s.role.parent = some (m, d))
    (hon : flueOn (hearthOf s s.role.treeHearth) = true) : exec .timeExchangeTick s = becomes s s.role.treeHearth
      (sendTime s.role.treeHearth (hearthOf s s.role.treeHearth) (.peer m d) 0 0 0 0 0) := by
  change execTimeExchangeTick s = _
  unfold execTimeExchangeTick
  rw [hparent]
  exact hearthEvent_becomes rfl (if_pos hon)

/-- One second's records of every hearth, and the module's telemetry, go to the parent (log 139). -/
theorem exec_signatureForwardTick (s : State) (m d : Nat) (hparent : s.role.parent = some (m, d)) : exec .signatureForwardTick s =
    .next (settle (sendTelemetry (allHearths.foldl (fun s h => forwardSecond s m d h) s) m d)) := by
  change execSignatureForwardTick s = _
  unfold execSignatureForwardTick
  rw [hparent]
  rfl

/-- Settles O41: each exchange and tick of module time under its premises. -/
theorem timeExchangesKeepTime : Obligations.TimeExchangesKeepTime :=
  fun s => ⟨fun b h t c harrive htree => exec_timeQuery s b h t c harrive htree,
    fun b h t c harrive htree hparent => exec_timeAnswer s b h t c harrive htree hparent,
    fun m d hparent => ⟨fun hon => exec_timeExchangeTick s m d hparent hon,
      fun hlate => if_pos ⟨hparent ▸ rfl, hlate⟩, exec_signatureForwardTick s m d hparent⟩⟩

end Sys2Proof.Machine

/-! Streams and combining inputs (chapter 7): tokens, credits and contributions, each by what its reader or its window makes of it. -/

namespace Sys2Proof.Machine

section
variable {s : State} {h : Nat} {hh : Hearth} (hof : hearthOf s h = hh)
include hof

/-! ### Tokens that arrive -/

section
variable {snd : UnitRef} {out i : Nat} {f : Flight} (hhead : headFlight hh snd out = some (i, f)) (hcomb : combining hh f = false)
include hhead hcomb

theorem exec_tokenArrival_tile (v : Nat) (hkind : f.rcv.kind.toNat = 1) (htile : tileOfId f.rcv.id.toNat = some v) :
    exec (.tokenArrival h snd out) s = becomes s h (arriveTile (envOf s h) hh i v f) := by
  refine hearthEvent_becomes hof ?_
  rw [hhead]
  refine (if_neg (not_true_of_false hcomb)).trans ?_
  rw [hkind, htile]
  rfl

theorem exec_tokenArrival_thread (hkind : f.rcv.kind.toNat = 2) :
    exec (.tokenArrival h snd out) s = becomes s h (arriveThread (envOf s h) hh i f.rcv.id.toNat f) := by
  refine hearthEvent_becomes hof ?_
  rw [hhead]
  refine (if_neg (not_true_of_false hcomb)).trans ?_
  rw [hkind]
  rfl

theorem exec_tokenArrival_endpoint (hkind : f.rcv.kind.toNat = 4) :
    exec (.tokenArrival h snd out) s = becomes s h (arriveEp (envOf s h) hh i (f.rcv.id.toNat % 512) f) := by
  refine hearthEvent_becomes hof ?_
  rw [hhead]
  refine (if_neg (not_true_of_false hcomb)).trans ?_
  rw [hkind]
  rfl

end

/-- An input that runs admits what R84 to R90 allow. -/
theorem exec_tokenAdmit (v n : Nat) (hnamed : nbit (inReg (tileAt hh v) n).toNat 63 = true)
    (hopen : (inLive (tileAt hh v) n).closed = false) (hruns : (tileAt hh v).state = .running) :
    exec (.tokenAdmit h v n) s = becomes s h (checkLong (envOf s h) (drainInput hh v n 264) v n) :=
  hearthEvent_becomes hof (if_pos ⟨hnamed, not_of_false hopen, hruns⟩)

/-- Credits of the output's own epoch come back to it, others are lost (R208, R210). -/
theorem exec_streamCredit (snd : UnitRef) (out i : Nat) (c : CreditFlight)
    (hfirst : hh.creditFlights.findIdx? (fun c => c.snd == snd && c.out == out) = some i) (hc : hh.creditFlights[i]? = some c) :
    let rest := { hh with creditFlights := hh.creditFlights.eraseIdx i }
    let o := sndLive rest snd out
    exec (.streamCredit h snd out) s =
      becomes s h (if c.epoch = o.epoch then putSnd rest snd out { o with credits := o.credits + c.count } else rest) := by
  refine hearthEvent_becomes hof ?_
  rw [hfirst]
  dsimp only
  rw [hc]

/-- The sum of a combining input, once every sender's contribution is there (R219). -/
theorem exec_combiningSumComplete (v n tag : Nat) (l : List Tok) (hopen : (inLive (tileAt hh v) n).closed = false)
    (htype : inType (tileAt hh v) n = 2)
    (hnew : (inLive (tileAt hh v) n).sums.any (fun k => k.tag == BitVec.ofNat 16 tag) = false)
    (hflag : flaggedAt (tileAt hh v) n (BitVec.ofNat 16 tag) = false)
    (hall : allContrib (inLive (tileAt hh v) n) (inSenders (tileAt hh v) n) (BitVec.ofNat 16 tag) = some l) :
    exec (.combiningSumComplete h v n tag) s = becomes s h (putTile hh v (putIn (tileAt hh v) n
      { inLive (tileAt hh v) n with sums := (inLive (tileAt hh v) n).sums ++
        [{ tag := BitVec.ofNat 16 tag, stream := (l.head?.map (·.stream)).getD 0, epoch := (inLive (tileAt hh v) n).epoch
           last := true, nar := (combineSum l).any isNan32, data := packElems (combineSum l) }] })) := by
  refine hearthEvent_becomes hof ?_
  refine (if_neg (not_or.mpr ⟨not_true_of_false hopen, not_or.mpr ⟨not_not_intro htype,
    not_or.mpr ⟨not_true_of_false hnew, not_true_of_false hflag⟩⟩⟩)).trans ?_
  rw [hall]

/-! ### Contributions -/

section
variable {v i : Nat} {snd : UnitRef} {out : Nat} {f : Flight} (hhead : headFlight hh snd out = some (i, f))
  (hcomb : combining hh f = true) (htile : tileOfId f.rcv.id.toNat = some v)
include hhead hcomb htile

/-- A contribution dropped for a reason of Table 7-4 (R212). -/
theorem exec_combiningContribution_dropped (hr : tileReason hh v f ≠ 0) : exec (.combiningContribution h snd out) s =
    becomes s h (resolveFrom (dropAtTile (envOf s h) (landFlight hh i) v f (tileReason hh v f)) f.snd f.out f.tok.tag) := by
  refine hearthEvent_becomes hof ?_
  rw [hhead]
  dsimp only
  rw [htile]
  exact (if_neg (not_not_of_true hcomb)).trans (if_pos hr)

variable (hr : tileReason hh v f = 0)
include hr

/-- A contribution that is not dropped: it is no whole group, its sender's second, one that waits, or taken (R49, R84, R218). -/
theorem exec_combiningContribution :
    let x := inLive (tileAt hh v) f.inp
    let k := f.tok
    let idx := (senderIdx hh (tileAt hh v).active v f.inp snd out).getD 0
    exec (.combiningContribution h snd out) s = becomes s h (
      if (!(k.last && k.seq == 0)) = true then
        groupFault (envOf s h) (landFlight hh i) 3 (tileRef v) k.tag 0xFF f.inp 1 (k.seq.toNat + 1 + b2n !k.last) 0
      else if x.contrib.any (fun c => c.1 == k.tag && c.2.1 == idx) = true then
        groupFault (envOf s h) (landFlight hh i) 3 (tileRef v) k.tag 0xFF f.inp 1 2 idx
      else if x.flags ≠ [] ∨ (!admits (inWindowOf (tileAt hh v) f.inp) x.opened k.tag) = true then hh
      else takeContrib (landFlight hh i) v f idx) := by
  intro x k idx
  refine hearthEvent_becomes hof ?_
  rw [hhead]
  dsimp only
  rw [htile]
  exact (if_neg (not_not_of_true hcomb)).trans (if_neg (not_not_intro hr))

end

end

/-- A contribution of PAYLOAD 0 takes its line (R218): its sixteen words stand there. -/
theorem takeContrib_cases (hh : Hearth) (v idx : Nat) (f : Flight) (hpayload : f.tok.payload = 0) :
    let t := tileAt hh v
    let k := f.tok
    let line := inBuffer t f.inp + idx * inWindowOf t f.inp + k.tag.toNat % inWindowOf t f.inp
    let taken (flags : List Flag) := putTile hh v { putIn t f.inp (seeSpent { inLive t f.inp with
        opened := if (inLive t f.inp).opened.contains k.tag then (inLive t f.inp).opened else (inLive t f.inp).opened ++ [k.tag]
        contrib := (inLive t f.inp).contrib ++ [(k.tag, idx, k)]
        flags := flags } idx) with
      store := (List.range 16).foldl (fun m j => mput 0 m (lineAt line + j) ((elems32 k.data).getD j 0)) t.store }
    takeContrib hh v f idx = if (!checksFrom hh v f) = true ∨ arrivalFlags hh v f idx ≠ [] then taken (arrivalFlags hh v f idx)
      else resolveFrom (observeTok (taken (arrivalFlags hh v f idx)) t.active k) f.snd f.out k.tag := by
  have helems : contribElems f.tok = elems32 f.tok.data := if_pos hpayload
  simp only [takeContrib, helems, hpayload, if_true]
  rfl

/-- A tile without a checker on the input raises no flag. -/
theorem arrivalFlags_of_unchecked {hh : Hearth} {v idx : Nat} {f : Flight} (h : checksFrom hh v f = false) :
    arrivalFlags hh v f idx = [] := by
  cases htile : tileOfId f.snd.id.toNat with
  | none => simp only [arrivalFlags, htile]
  | some w =>
    simp only [checksFrom, htile] at h
    simp only [arrivalFlags, htile]
    exact if_pos (not_of_false h)

/-- Settles O42: each event by what its reader, its output or its window makes of it. -/
theorem streamsCarryTokensAndCredits : Obligations.StreamsCarryTokensAndCredits := by
  refine ⟨fun s h hh hof => ⟨fun snd out i f hhead hcomb => ⟨fun v => exec_tokenArrival_tile hof hhead hcomb v,
      exec_tokenArrival_thread hof hhead hcomb, exec_tokenArrival_endpoint hof hhead hcomb⟩,
    exec_tokenAdmit hof, fun snd out i c hfirst hc => ?_, exec_combiningSumComplete hof⟩,
    fun s h v i hh snd out f hof hhead hcomb htile => ⟨exec_combiningContribution_dropped hof hhead hcomb htile, fun hr hgroup => ?_,
      fun hr hlast hseq hsecond => ?_, fun hr hlast hseq hfirst hflags hadmits => ?_⟩,
    fun hh v idx f hpayload => ⟨fun hcheck => ?_, fun hcheck hflags => ?_, fun hcheck hflags => ?_⟩⟩
  · exact ⟨fun he => (exec_streamCredit hof snd out i c hfirst hc).trans (congrArg (becomes s h) (if_pos he)),
      fun he => (exec_streamCredit hof snd out i c hfirst hc).trans (congrArg (becomes s h) (if_neg he))⟩
  · refine (exec_combiningContribution hof hhead hcomb htile hr).trans (congrArg (becomes s h) (if_pos ?_))
    simpa only [Bool.not_eq_true', Bool.and_eq_false_iff, beq_eq_false_iff_ne] using hgroup
  · refine (exec_combiningContribution hof hhead hcomb htile hr).trans (congrArg (becomes s h) ?_)
    exact (if_neg (by simp [hlast, hseq])).trans (if_pos hsecond)
  · refine (exec_combiningContribution hof hhead hcomb htile hr).trans (congrArg (becomes s h) ?_)
    exact (if_neg (by simp [hlast, hseq])).trans ((if_neg (not_true_of_false hfirst)).trans
      (if_neg (not_or.mpr ⟨not_not_intro hflags, not_not_of_true hadmits⟩)))
  · refine (takeContrib_cases hh v idx f hpayload).trans ((if_pos (Or.inl (not_of_false hcheck))).trans ?_)
    rw [arrivalFlags_of_unchecked hcheck]
  · refine (takeContrib_cases hh v idx f hpayload).trans
      ((if_neg (not_or.mpr ⟨not_not_of_true hcheck, not_not_intro hflags⟩)).trans ?_)
    rw [hflags]
  · exact (takeContrib_cases hh v idx f hpayload).trans (if_pos (Or.inr hflags))

end Sys2Proof.Machine

/-! Endpoints (chapter 9, Endpoints): the next stage of each kind, and the slots of a schedule. -/

namespace Sys2Proof.Machine

/-! ### Groups of the right size, as PUT and STORE check them (R255, R306) -/

theorem not_wrongSize_of_whole {want n : Nat} {last : Bool} (hn : n = want) (hlast : last = true) :
    ¬ (want < n ∨ (want = n ∧ (!last) = true) ∨ (n < want ∧ last = true)) := by
  subst hn hlast
  simp

theorem not_wrongSize_of_part {want n : Nat} {last : Bool} (hfew : n < want) (hlast : last = false) :
    ¬ (want < n ∨ (want = n ∧ (!last) = true) ∨ (n < want ∧ last = true)) := by
  subst hlast
  simp only [Bool.not_false, Bool.false_eq_true, and_true, and_false, or_false]
  omega

section
variable {s : State} {h e : Nat} {hh : Hearth} {st : Step} {home : Nat} {d : EpD} (hof : hearthOf s h = hh)
  (hissue : issuingEp hh e = some (st, home, d))
include hof hissue

/-- A PUT without writes takes its tag's group: a group of the wrong size ends the step, a part of one waits, and a whole one is
converted into writes (R306). -/
theorem exec_putTag_group {k : Tok} {part : List Tok} (hkind : d.kind = 3) (hwrites : (epAt hh e).writes = [])
    (hpart : (takeEpPart (epAt hh e)).part = k :: part) :
    let hx := updEp hh e (fun _ => takeEpPart (epAt hh e))
    let want := groupSize d.lay.rows d.lay.elems
    let n := part.length + 1
    let last := (k :: part).any (·.last)
    let pos := posNear hx st k.tag
    let out := convRows (epEmberOpen (countStrange hx st.ctx (k :: part)) st e d d.wireT) st.ctx flue d.tokT d.lay.fmt d.wireT
      d.nar (epEmber d) (slotIdx d.lay pos * d.lay.rows * d.lay.elems) d.lay.elems (groupRows (k :: part) d.lay.rows d.lay.elems)
    exec (.putTag h e) s = becomes s h (
      if want < n ∨ (want = n ∧ (!last) = true) ∨ (n < want ∧ last = true) then
        epGroupFault (envOf s h) hx 2 home e k.tag want n 0
      else if (!last) = true then hx
      else issuePut h (updEp out.1 e (fun x => { x with
        part := []
        writes := (List.range out.2.length).flatMap (fun r =>
          let y := out.2.getD r {}
          let bs := packRun d.lay.fmt y.codes ++ y.scales.map (BitVec.ofNat 8)
          putPieces (bs.length + 1) (rowAddr d.lay (slotIdx d.lay pos) r) bs)
        wpos := pos })) st.ctx e d) := by
  intro hx want n last pos out
  refine hearthEvent_becomes hof ?_
  rw [hissue]
  refine (if_neg (not_not_intro hkind)).trans ((if_neg (not_not_intro hwrites)).trans ?_)
  dsimp only
  rw [hpart]
  exact if_neg (Nat.succ_ne_zero part.length)

end

/-- Settles O43: each endpoint kind by its next stage, and a slot of a schedule by the time at which it opened. -/
theorem endpointsSendTheirTags : Obligations.EndpointsSendTheirTags := by
  refine ⟨fun s h e hh st home d hof hissue => ?_, fun s h e slot hh st home d y b t hof hlive hfind hsched htime hlater hold => ?_,
    fun b launch now slot hperiod => ?_⟩
  · intro x whole m
    refine ⟨fun k rest hkind hbuf hcredits => ?_, fun hkind hwrites => ?_, fun k part hkind hwrites hpart => ?_,
      fun hkind hsend => ⟨fun hfetch hissues => ?_, fun hfetch hmore => ?_, fun hfetch hwant hreads => ?_⟩,
      fun k rest hkind hbuf hcredits => ⟨fun hlast => ?_, fun hlast => ?_⟩, fun tag hkind => ?_⟩
    · refine hearthEvent_becomes hof ?_
      rw [hissue]
      dsimp only
      rw [hbuf]
      exact if_neg (not_or.mpr ⟨not_not_intro hkind, hcredits⟩)
    · refine hearthEvent_becomes hof ?_
      rw [hissue]
      exact (if_neg (not_not_intro hkind)).trans (if_pos hwrites)
    · intro n last hx pos
      have hgroup := exec_putTag_group hof hissue hkind hwrites hpart
      refine ⟨fun hwrong => hgroup.trans (congrArg (becomes s h) (if_pos ?_)),
        fun hfew hlast => hgroup.trans (congrArg (becomes s h)
          ((if_neg (not_wrongSize_of_part hfew hlast)).trans (if_pos (not_of_false hlast)))),
        fun hwhole hlast => hgroup.trans (congrArg (becomes s h)
          ((if_neg (not_wrongSize_of_whole hwhole hlast)).trans (if_neg (not_not_of_true hlast))))⟩
      simpa only [Bool.not_eq_true'] using hwrong
    · refine hearthEvent_becomes hof ?_
      rw [hissue]
      exact (if_neg (not_or.mpr ⟨not_not_intro hkind, not_not_intro hsend⟩)).trans ((if_pos (not_of_false hfetch)).trans
        (if_neg (not_not_of_true hissues)))
    · refine hearthEvent_becomes hof ?_
      rw [hissue]
      exact (if_neg (not_or.mpr ⟨not_not_intro hkind, not_not_intro hsend⟩)).trans
        ((if_neg (not_not_of_true hfetch)).trans (if_pos hmore))
    · refine hearthEvent_becomes hof ?_
      rw [hissue]
      exact (if_neg (not_or.mpr ⟨not_not_intro hkind, not_not_intro hsend⟩)).trans ((if_neg (not_not_of_true hfetch)).trans
        (if_neg (not_or.mpr ⟨not_not_intro hwant, not_not_intro hreads⟩)))
    · refine hearthEvent_becomes hof ?_
      rw [hissue]
      dsimp only
      rw [hbuf]
      exact (if_neg (not_or.mpr ⟨not_not_intro hkind, hcredits⟩)).trans (if_pos (not_of_false hlast))
    · refine hearthEvent_becomes hof ?_
      rw [hissue]
      dsimp only
      rw [hbuf]
      exact (if_neg (not_or.mpr ⟨not_not_intro hkind, hcredits⟩)).trans (if_neg (not_not_of_true hlast))
    · intro w all sum credited hall hcredit
      have hgo : ¬ (d.kind ≠ 6 ∨ (!all.all (fun i => (epAt hh e).contrib.any (fun c => c.1 == w && c.2.1 == i))) = true ∨
          ((!d.root) = true ∧ (epAt hh e).peerCredits = 0)) := by
        rintro (h' | h' | ⟨h', hnone⟩)
        · exact h' hkind
        · exact not_not_of_true hall h'
        · exact hcredit.elim (fun hroot => not_not_of_true hroot h') (fun hsome => hsome hnone)
      refine ⟨fun b bs hbad => ?_, fun hgood => ⟨fun hroot => ?_, fun hroot => ?_⟩⟩
      · refine hearthEvent_becomes hof ?_
        rw [hissue]
        refine (if_neg hgo).trans ?_
        rw [hbad]
      · refine hearthEvent_becomes hof ?_
        rw [hissue]
        refine (if_neg hgo).trans ?_
        rw [hgood]
        exact if_pos hroot
      · refine hearthEvent_becomes hof ?_
        rw [hissue]
        refine (if_neg hgo).trans ?_
        rw [hgood]
        exact if_neg (not_true_of_false hroot)
  · have hnow : (envOf s h).now = hh.timeBase := congrArg Hearth.timeBase hof
    have hnone : ((List.range 12).any fun k => match slotTime b st.launchTime hh.timeBase k with
        | some u => decide (t < u)
        | none => false) = false := by
      refine List.any_eq_false.mpr fun k hk => ?_
      cases hu : slotTime b st.launchTime hh.timeBase k with
      | none => exact Bool.false_ne_true
      | some u => exact fun hlt => Nat.not_lt.mpr (hlater k u (List.mem_range.mp hk) hu) (of_decide_eq_true hlt)
    have hnew : (epAt hh e).schedAt.any (fun u => decide (t ≤ u)) = false := by
      cases hat : (epAt hh e).schedAt with
      | none => rfl
      | some u => exact decide_eq_false (Nat.not_le.mpr (hold u hat))
    refine hearthEvent_becomes hof ?_
    rw [hlive]
    dsimp only
    rw [hfind]
    dsimp only
    rw [hsched]
    dsimp only
    rw [hnow, htime]
    refine (if_neg (not_true_of_false ?_))
    rw [hnew, Bool.or_false]
    exact hnone
  · intro period t0 hslot hcells hnow
    have hmax : max 1 (bodyNum b 0 4) = bodyNum b 0 4 := Nat.max_eq_right hperiod
    unfold slotTime
    rw [hmax]
    exact if_pos ⟨hslot, hcells, hnow⟩

end Sys2Proof.Machine

/-! Firings (chapter 3, Firing): their start and their end, and the load of a weight bank. -/

namespace Sys2Proof.Machine

/-! ### The start of a firing -/

/-- A slot that R74 and R76 choose, with groups of the right size, begins its firing. -/
theorem startFiring_of_starts {e : Env} {hh : Hearth} {v slot code : Nat} {tag : W16} {mk : Tile → Firing}
    (hstarts : Starts hh v slot tag code) : startFiring e hh v slot tag code mk = beginFiring hh v slot tag (mk (tileAt hh v)) := by
  obtain ⟨st, hstep, hmay, hcode, hnext, hgroups⟩ := hstarts
  unfold startFiring
  rw [hstep]
  dsimp only
  rw [if_neg (not_or.mpr ⟨not_not_of_true hmay, not_or.mpr ⟨not_not_intro hcode, not_not_intro hnext⟩⟩), hgroups]

/-- A slot with a group of the wrong size ends the step (R82). -/
theorem startFiring_of_shortGroup {e : Env} {hh : Hearth} {v slot code n count seen : Nat} {tag : W16} {mk : Tile → Firing}
    {st : Step} (hstep : tileStep hh v = some st) (hmay : mayStart (tileAt hh v) st = true)
    (hnext : nextFiring v (tileAt hh v) st = some (slot, tag)) (hcode : opCode (tileAt hh v) slot = code)
    (hgroups : shortGroup v (tileAt hh v) slot tag = some (n, count, seen)) :
    startFiring e hh v slot tag code mk = groupFault e hh 1 (tileRef v) tag slot n count seen 0 := by
  unfold startFiring
  rw [hstep]
  dsimp only
  rw [if_neg (not_or.mpr ⟨not_not_of_true hmay, not_or.mpr ⟨not_not_intro hcode, not_not_intro hnext⟩⟩), hgroups]

section
variable {s : State} {h v slot tag : Nat} {hh : Hearth} (hof : hearthOf s h = hh)
include hof

/-- A firing command whose slot is chosen begins the firing it names. -/
theorem fireAs_of_starts {code : Nat} {mk : Env → Tile → W16 → Firing} (hstarts : Starts hh v slot (BitVec.ofNat 16 tag) code) :
    fireAs h v slot tag code mk s = becomes s h (beginFiring hh v slot (BitVec.ofNat 16 tag)
      (mk (envOf s h) (tileAt hh v) (BitVec.ofNat 16 tag))) :=
  hearthEvent_becomes hof (startFiring_of_starts hstarts)

/-- A SYNC firing with the slot's action begins. -/
theorem syncFire_of_starts {action : Nat} (haction : param (tileAt hh v) slot 0 1 = action)
    (hstarts : Starts hh v slot (BitVec.ofNat 16 tag) 0x20) : syncFire h v slot tag action s =
      becomes s h (beginFiring hh v slot (BitVec.ofNat 16 tag) { slot := slot, tag := BitVec.ofNat 16 tag, op := 0x20, len := 2 }) :=
  hearthEvent_becomes hof ((if_neg (not_not_intro haction)).trans (startFiring_of_starts hstarts))

end

/-- Settles O44: the slot that R74 and R76 choose begins the firing that its operation computes. -/
theorem firingsBegin : Obligations.FiringsBegin := by
  intro s h v slot tag hh hof t g begins stream nans
  refine ⟨fun hstarts => show execMma h v slot tag s = _ from fireAs_of_starts hof hstarts,
    fun hstarts => show execEmit h v slot tag s = _ from hearthEvent_becomes hof (startFiring_of_starts hstarts),
    fun hstarts => show execWload h v slot tag s = _ from fireAs_of_starts hof hstarts,
    fun hstarts => show execVfma h v slot tag s = _ from fireAs_of_starts hof hstarts,
    fun hstarts => show execVbin h v slot tag s = _ from fireAs_of_starts hof hstarts,
    fun hstarts => show execSfu h v slot tag s = _ from fireAs_of_starts hof hstarts,
    fun hstarts => show execReduce h v slot tag s = _ from fireAs_of_starts hof hstarts,
    fun hstarts => show execSteer h v slot tag s = _ from fireAs_of_starts hof hstarts,
    fun hstarts => ⟨fun hlocal => ?_, fun hlocal => ?_⟩,
    fun hstarts => ⟨fun haction => syncFire_of_starts hof haction hstarts, fun haction hready => ?_,
      fun haction => syncFire_of_starts hof haction hstarts, fun haction => syncFire_of_starts hof haction hstarts⟩,
    fun st n count seen hstep hmay hnext hgroups => ?_⟩
  · exact show execMove h v slot tag s = _ from (fireAs_of_starts hof hstarts).trans (congrArg begins (if_pos hlocal))
  · exact show execMove h v slot tag s = _ from (fireAs_of_starts hof hstarts).trans (congrArg begins (if_neg hlocal))
  · obtain ⟨st, hstep, hmay, hcode, hnext, hgroups⟩ := id hstarts
    refine hearthEvent_becomes hof ?_
    dsimp only
    rw [hstep]
    exact (if_neg (not_or.mpr ⟨not_not_intro hcode, not_not_intro haction⟩)).trans
      ((if_neg hready).trans (startFiring_of_starts hstarts))
  · have hends {code : Nat} {mk : Env → Tile → W16 → Firing} (hcode : opCode t slot = code) :
        fireAs h v slot tag code mk s = becomes s h (groupFault (envOf s h) hh 1 (tileRef v) g slot n count seen 0) :=
      hearthEvent_becomes hof (startFiring_of_shortGroup hstep hmay hnext hcode hgroups)
    exact ⟨fun hcode => show execVfma h v slot tag s = _ from hends hcode,
      fun hcode => show execVbin h v slot tag s = _ from hends hcode, fun hcode => show execSfu h v slot tag s = _ from hends hcode,
      fun hcode => show execReduce h v slot tag s = _ from hends hcode, fun hcode => show execMove h v slot tag s = _ from hends hcode⟩

/-! ### What ECC corrects leaves the tiles alone -/

theorem eventRec_tiles (e : Env) (hh : Hearth) (key : Nat) (r : AshRec) : (eventRec e hh key r).1.tiles = hh.tiles := by
  unfold eventRec
  dsimp only
  split <;> rfl

theorem corrected_tiles (e : Env) (hh : Hearth) (word : Nat) : (corrected e hh word).tiles = hh.tiles := by
  unfold corrected
  dsimp only
  split
  · exact eventRec_tiles e _ _ _
  · rfl

theorem correctRange_tiles (e : Env) (hh : Hearth) (a n : Nat) : (correctRange e hh a n).tiles = hh.tiles := by
  unfold correctRange
  split
  · rfl
  · refine foldl_keeps Hearth.tiles _ (fun hh w => ?_) _ hh
    split
    · exact corrected_tiles e hh w
    · exact corrected_tiles e hh w
    · rfl

/-- A change of a bank depends on what it makes of the bank alone. -/
theorem setBank_congr {t : Tile} {bank : Nat} {f g : Bank → Bank} (hfg : f (bankOfTile t bank) = g (bankOfTile t bank)) :
    setBank t bank f = setBank t bank g := by
  unfold bankOfTile at hfg
  unfold setBank
  split
  next h0 => rw [if_pos h0] at hfg; rw [hfg]
  next h0 => rw [if_neg h0] at hfg; rw [hfg]

/-! ### The end of a firing and of a load -/

section
variable {s : State} {h v : Nat} {hh : Hearth} (hof : hearthOf s h = hh)
include hof

/-- A firing that has run its cycles: once its flags are resolved it is delivered when none is left, before that when it raises
none (R77, R417). -/
theorem exec_firingEnd {cycles : Nat} {f : Firing} {st : Step} (hcur : (tileAt hh v).cur = some f) (hrun : runStep hh = some st)
    (hstate : (tileAt hh v).state = .running ∨ (tileAt hh v).state = .frozen) (hsync : syncState st = true)
    (hlen : f.len ≤ cycles) (hmax : cycles ≤ 1024) :
    exec (.firingEnd h v cycles) s = becomes s h (
      if f.resolved = true then (if (tileAt hh v).flags = [] then deliver (envOf s h) hh v cycles f else hh)
      else if firingFlags hh v f = [] then deliver (envOf s h) hh v cycles f
      else updTile hh v (fun t => { t with flags := firingFlags hh v f, cur := some { f with resolved := true } })) := by
  have hready : ¬ (((tileAt hh v).state ≠ .running ∧ (tileAt hh v).state ≠ .frozen) ∨ (!syncState st) = true ∨
      cycles < f.len ∨ 1024 < cycles) := by
    rintro (⟨hr, hz⟩ | hs | hc | hc)
    · exact hstate.elim hr hz
    · exact not_not_of_true hsync hs
    · exact Nat.not_lt.mpr hlen hc
    · exact Nat.not_lt.mpr hmax hc
  refine hearthEvent_becomes hof ?_
  dsimp only
  rw [hcur, hrun]
  exact if_neg hready

/-- The last line of a bank's load, with no WLOAD under way that rewrites the bank (R47). Correction leaves the tile alone, so the
bank is filled from the source that it was loading from. -/
theorem exec_bankLoadComplete {bank : Nat} (hbank : bank < 2) (hloading : (bankOfTile (tileAt hh v) bank).st = .loading)
    (henabled : tileEnabled hh v = true)
    (hquiet : (tileAt hh v).cur.any (fun f => f.op == 0x03 && slotBank (tileAt hh v) f.slot == bank) = false) :
    let b := bankOfTile (tileAt hh v) bank
    let n := 64 * b.want
    let e := envOf s h
    let live := (runStep hh).any (fun st => tileInSec hh st.ctx st.ran v && syncState st)
    let got := correctRange e hh b.src n
    let filled := updTile got v (fun t => setBank t bank (fun b =>
      { b with st := .ready, lines := b.want, data := memPuts [] 0 (hBytes got b.src n) }))
    let bad := badWords filled b.src n
    exec (.bankLoadComplete h v bank) s = becomes s h (
      if (!extentAny hh b.src n) = true then (if live = true then addressFault e hh b.tag (tilePath v) b.src else hh)
      else if live = true then readFaults e filled (runStep filled) b.tag (tilePath v) bad
      else countBad e filled (tilePath v) bad) := by
  intro b n e live got filled bad
  have hready : ¬ (b.st ≠ .loading ∨ 2 ≤ bank ∨ (!tileEnabled hh v) = true ∨
      (tileAt hh v).cur.any (fun f => f.op == 0x03 && slotBank (tileAt hh v) f.slot == bank) = true) :=
    not_or.mpr ⟨not_not_intro hloading, not_or.mpr ⟨Nat.not_le.mpr hbank,
      not_or.mpr ⟨not_not_of_true henabled, not_true_of_false hquiet⟩⟩⟩
  have htile : tileAt got v = tileAt hh v := congrArg (fun m => mget ({} : Tile) m v) (correctRange_tiles e hh b.src n)
  have hfilled : filled = updTile got v (fun t => setBank t bank (fun x =>
      { x with st := .ready, lines := x.want, data := memPuts [] 0 (hBytes got b.src n) })) :=
    congrArg (putTile got v) (setBank_congr (by rw [htile]))
  change execBankLoadComplete h v bank s = _
  refine hearthEvent_becomes hof ((if_neg hready).trans ?_)
  dsimp only [bad]
  rw [hfilled]

end

/-- Settles O45: a firing ends by its flags, a load by its extent and by whether the tile's step still runs. -/
theorem firingsEndAndBanksFill : Obligations.FiringsEndAndBanksFill := by
  intro s h v hh hof
  refine ⟨fun cycles f st hcur hrun hstate hsync hlen hmax => ?_, fun bank hbank hloading henabled hquiet => ?_⟩
  · have hend := exec_firingEnd hof hcur hrun hstate hsync hlen hmax
    exact ⟨fun hres hnone => hend.trans (congrArg _ ((if_neg (not_true_of_false hres)).trans (if_pos hnone))),
      fun hres hsome => hend.trans (congrArg _ ((if_neg (not_true_of_false hres)).trans (if_neg hsome))),
      fun hres hnone => hend.trans (congrArg _ ((if_pos hres).trans (if_pos hnone))),
      fun hres hsome => hend.trans (congrArg _ ((if_pos hres).trans (if_neg hsome)))⟩
  · intro b n e live got filled bad
    have hend := exec_bankLoadComplete hof hbank hloading henabled hquiet
    exact ⟨fun hext => ⟨fun hlive => hend.trans (congrArg _ ((if_neg (not_not_of_true hext)).trans (if_pos hlive))),
        fun hlive => hend.trans (congrArg _ ((if_neg (not_not_of_true hext)).trans (if_neg (not_true_of_false hlive))))⟩,
      fun hext => ⟨fun hlive => hend.trans (congrArg _ ((if_pos (not_of_false hext)).trans (if_pos hlive))),
        fun hlive => hend.trans (congrArg _ ((if_pos (not_of_false hext)).trans (if_neg (not_true_of_false hlive))))⟩⟩

end Sys2Proof.Machine

/-! Sync objects, progress checks and the state of tiles (chapters 2, 3, 7 and 10). -/

namespace Sys2Proof.Machine

section
variable {s : State} {h : Nat} {hh : Hearth} {st : Step} (hof : hearthOf s h = hh) (hrun : runStep hh = some st)
include hof

/-! ### Grants -/

section
variable {unit : UnitRef} {slot i : Nat} {x : UnitRef × Nat × Nat}
  (hfirst : hh.grants.findIdx? (fun g => g.1 == unit && g.2.1 == slot) = some i) (hx : hh.grants[i]? = some x)
include hfirst hx

theorem exec_syncGrantArrival_thread (hkind : unit.kind.toNat = 2) : exec (.syncGrantArrival h unit slot) s =
    becomes s h (updThread { hh with grants := hh.grants.eraseIdx i } unit.id.toNat (fun t =>
      { t with waited := true, waiting := false })) := by
  refine hearthEvent_becomes hof ?_
  rw [hfirst]
  dsimp only
  rw [hx, hkind]
  rfl

theorem exec_syncGrantArrival_tile (v : Nat) (hkind : unit.kind.toNat = 1) (htile : tileOfId unit.id.toNat = some v) :
    exec (.syncGrantArrival h unit slot) s =
      becomes s h (updTile { hh with grants := hh.grants.eraseIdx i } v (fun t => { t with
        waitSlots := t.waitSlots.map (fun y => if y.1 = slot ∧ y.2.1 = BitVec.ofNat 16 x.2.2 then (y.1, y.2.1, true) else y) })) := by
  refine hearthEvent_becomes hof ?_
  rw [hfirst]
  dsimp only
  rw [hx, hkind, htile]
  rfl

end

/-! ### Waits -/

/-- A wait that the tile cannot yet meet is registered (R227). -/
theorem exec_syncOpWait_registers (v slot tag : Nat) (hstep : tileStep hh v = some st) (hcode : opCode (tileAt hh v) slot = 0x20)
    (haction : param (tileAt hh v) slot 0 1 = 1) (hmissing : missing v (tileAt hh v) slot (BitVec.ofNat 16 tag) = some .sync)
    (htile : (tileAt hh v).state = .running) (hstate : st.state = .running)
    (hcand : (candTags (tileAt hh v) st slot).contains (BitVec.ofNat 16 tag) = true)
    (hnew : (tileAt hh v).waitSlots.any (fun x => x.1 == slot && x.2.1 == BitVec.ofNat 16 tag) = false) :
    exec (.syncOpWait h v slot tag) s = becomes s h (beginWait hh v slot (BitVec.ofNat 16 tag)) := by
  refine hearthEvent_becomes hof ?_
  rw [hstep]
  exact (if_neg (not_or.mpr ⟨not_not_intro hcode, not_not_intro haction⟩)).trans ((if_pos hmissing).trans
    (if_pos ⟨htile, hstate, hcand, not_of_false hnew⟩))

include hrun

/-- A tag open beyond its time ends the step; a combining input names the senders that are missing (R87, R220). -/
theorem exec_tagTimeout (v n tag : Nat) (hstate : st.state = .running) (hsec : tileInSec hh st.ctx st.ran v = true)
    (hopen : (inLive (tileAt hh v) n).closed = false)
    (htag : (inLive (tileAt hh v) n).opened.contains (BitVec.ofNat 16 tag) = true) :
    let w := BitVec.ofNat 16 tag
    let miss := (List.range (inSenders (tileAt hh v) n)).filter (fun i =>
      !(inLive (tileAt hh v) n).contrib.any (fun c => c.1 == w && c.2.1 == i))
    let late (cause : Nat) (more : List (Nat × Nat × Nat)) :=
      becomes s h (unitFault (envOf s h) hh 0x0051 (tileRef v) w .timeoutSync (faultDetail cause (tileRef v) w 0xFF n more))
    (inType (tileAt hh v) n = 2 → exec (.tagTimeout h v n tag) s =
      late 6 [(0x1E, 2, sat 16 miss.length), (0x20, 8, maskOf (miss.filter (· < 64)))]) ∧
    (inType (tileAt hh v) n ≠ 2 → exec (.tagTimeout h v n tag) s = late 5 []) := by
  have hready : ¬ (st.state ≠ .running ∨ (!tileInSec hh st.ctx st.ran v) = true ∨ (inLive (tileAt hh v) n).closed = true ∨
      (!(inLive (tileAt hh v) n).opened.contains (BitVec.ofNat 16 tag)) = true) :=
    not_or.mpr ⟨not_not_intro hstate, not_or.mpr ⟨not_not_of_true hsec,
      not_or.mpr ⟨not_true_of_false hopen, not_not_of_true htag⟩⟩⟩
  refine ⟨fun htype => hearthEvent_becomes hof ?_, fun htype => hearthEvent_becomes hof ?_⟩
  · rw [hrun]
    dsimp only
    rw [if_neg hready, if_pos htype, if_pos htype, if_pos htype]
  · rw [hrun]
    dsimp only
    rw [if_neg hready, if_neg htype, if_neg htype]

section
variable {unit : UnitRef} {slot : Nat} (hstate : st.state = .running) (hsec : unitInSec hh st.ctx st.ran unit = true)
include hstate hsec

theorem exec_syncWaitTimeout_thread (d : Stk) (hkind : unit.kind.toNat = 2) (hwait : (threadAt hh unit.id.toNat).waiting = true)
    (hd : threadDesc hh st.ctx unit.id.toNat = some d) : exec (.syncWaitTimeout h unit slot) s = becomes s h
      (waitTimeout (envOf s h) hh unit 0xFF (threadAt hh unit.id.toNat).curTag (0x100 + d.waitObj) (hsyncAt hh d.waitObj).value
        (wb (hsyncReg hh st.ctx d.waitObj) 47 32) (hsyncAt hh d.waitObj).gen) := by
  refine hearthEvent_becomes hof ?_
  rw [hrun]
  dsimp only
  rw [if_neg (not_or.mpr ⟨not_not_intro hstate, not_not_of_true hsec⟩), hkind, hwait, hd]
  rfl

/-- A slot's wait that is still not granted: at a hearth object, or at an object of the tile that does not let it go (R227). -/
theorem exec_syncWaitTimeout_tile {v k : Nat} {tag : W16} (hkind : unit.kind.toNat = 1) (htile : tileOfId unit.id.toNat = some v)
    (hfind : (tileAt hh v).waitSlots.find? (fun x => x.1 == slot && !x.2.2) = some (k, tag, false)) :
    let n := syncObj (tileAt hh v) slot
    exec (.syncWaitTimeout h unit slot) s = becomes s h (
      if 0x100 ≤ n then waitTimeout (envOf s h) hh unit slot tag (0x100 + (n - 0x100)) (hsyncAt hh (n - 0x100)).value
        (wb (hsyncReg hh st.ctx (n - 0x100)) 47 32) (hsyncAt hh (n - 0x100)).gen
      else if waitOk (tileAt hh v) slot tag = true then hh
      else waitTimeout (envOf s h) hh unit slot tag n (mget {} (tileAt hh v).syncs n).value
        (wb (syncReg (tileAt hh v) n) 47 32) (mget {} (tileAt hh v).syncs n).gen) := by
  intro n
  refine hearthEvent_becomes hof ?_
  rw [hrun]
  dsimp only
  rw [if_neg (not_or.mpr ⟨not_not_intro hstate, not_not_of_true hsec⟩)]
  simp only [hkind, htile, hfind]
  rfl

end

/-! ### Progress -/

/-- A progress count trips with no firing under way and tokens held (R97 to R102). -/
theorem exec_progressCountTrip (hstate : st.state = .running) (hspill : hh.spilling = false) (harb : hh.arb = none)
    (hheld : tokensHeld hh st = true) (hquiet : (secTiles hh st.ctx st.ran).any (fun v => (tileAt hh v).cur.isSome) = false) :
    let ends (w : List (UnitRef × WaitEdge) × WalkEnd) := deadlock (envOf s h) hh st (pairsOf hh hh.timeBase w)
    let n := 128 * (spillSet hh st).length
    (stuck hh st = none → exec (.progressCountTrip h) s = becomes s h (
      if 8 ≤ st.streak then ends ((walks hh st).headD ([], .remote))
      else updStep hh st.id (fun x => { x with remoteWaits := sat 32 (x.remoteWaits + 1) }))) ∧
    (∀ w, stuck hh st = some w → exec (.progressCountTrip h) s = becomes s h (
      if 8 ≤ st.streak ∨ hh.spillFree < n then ends w
      else { hh with spilling := true, spillFree := hh.spillFree - n, spillBusy := n })) := by
  have hready : ¬ (st.state ≠ .running ∨ hh.spilling = true ∨ hh.arb.isSome = true ∨ (!tokensHeld hh st) = true ∨
      (secTiles hh st.ctx st.ran).any (fun v => (tileAt hh v).cur.isSome) = true) :=
    not_or.mpr ⟨not_not_intro hstate, not_or.mpr ⟨not_true_of_false hspill, not_or.mpr ⟨by rw [harb]; exact Bool.false_ne_true,
      not_or.mpr ⟨not_not_of_true hheld, not_true_of_false hquiet⟩⟩⟩⟩
  have hnow : (envOf s h).now = hh.timeBase := congrArg Hearth.timeBase hof
  refine ⟨fun hstuck => hearthEvent_becomes hof ?_, fun w hstuck => hearthEvent_becomes hof ?_⟩
  · rw [hrun]
    dsimp only
    rw [if_neg hready, hstuck, hnow]
  · rw [hrun]
    dsimp only
    rw [if_neg hready, hstuck, hnow]

end

/-- Settles O46: each event of a sync object, of a wait and of the progress count by its own rule. -/
theorem syncAndProgressAct : Obligations.SyncAndProgressAct := by
  intro s h hh st hof hrun e
  refine ⟨fun obj n hsync hops => hearthEvent_becomes hof ?_, fun unit slot i x hfirst hx => ⟨exec_syncGrantArrival_thread hof hfirst hx,
      exec_syncGrantArrival_tile hof hfirst hx⟩, exec_syncOpWait_registers hof, exec_tagTimeout hof hrun,
    fun unit slot hstate hsec => ⟨fun d => exec_syncWaitTimeout_thread hof hrun hstate hsec d, fun v k tag hkind htile hfind => ?_⟩,
    fun hstate hspill harb hheld hquiet => ?_, fun hspill hsync => hearthEvent_becomes hof ?_⟩
  · rw [hrun]
    exact if_neg (not_or.mpr ⟨not_not_of_true hsync, hops⟩)
  · have hend := exec_syncWaitTimeout_tile hof hrun hstate hsec hkind htile hfind
    exact ⟨fun hfar => hend.trans (congrArg _ (if_pos hfar)),
      fun hnear hwait => hend.trans (congrArg _ ((if_neg (Nat.not_le.mpr hnear)).trans (if_neg (not_true_of_false hwait))))⟩
  · obtain ⟨hnone, hsome⟩ := exec_progressCountTrip hof hrun hstate hspill harb hheld hquiet
    exact ⟨fun hstuck hfew => (hnone hstuck).trans (congrArg _ (if_neg (Nat.not_le.mpr hfew))),
      fun hstuck hmany => (hnone hstuck).trans (congrArg _ (if_pos hmany)),
      fun w hstuck hfew hroom => (hsome w hstuck).trans (congrArg _ (if_neg (not_or.mpr ⟨Nat.not_le.mpr hfew, Nat.not_lt.mpr hroom⟩))),
      fun w hstuck hend => (hsome w hstuck).trans (congrArg _ (if_pos hend))⟩
  · rw [hrun]
    exact if_neg (not_or.mpr ⟨not_not_of_true hspill, not_not_of_true hsync⟩)

/-! ### Tiles -/

/-- Settles O47: each event of a tile under the conditions that it checks. -/
theorem tilesResetChangeAndSample : Obligations.TilesResetChangeAndSample := by
  intro s h v hh hof
  refine ⟨fun henabled hpresent => hearthEvent_becomes hof ?_, fun c hpresent henabled hstate hvalid hswitch => ?_,
    fun c hswitch => ⟨fun hmay => hearthEvent_becomes hof ?_, fun hmay => hearthEvent_becomes hof ?_⟩, fun k hsampling hst => ?_⟩
  · exact if_neg (not_or.mpr ⟨not_not_of_true hpresent, not_not_of_true henabled⟩)
  · change execContextChange h v c s = _
    exact hearthEvent_becomes hof (if_pos ⟨hpresent, henabled, hstate, hvalid, hswitch⟩)
  · dsimp only
    rw [hswitch]
    exact if_pos hmay
  · dsimp only
    rw [hswitch]
    exact if_neg hmay
  · subst hof
    have hon : ¬ ((hearthOf s h).sampling.isNone = true ∨ (!readyFaulted (hearthOf s h).st) = true) :=
      not_or.mpr ⟨by rw [hsampling]; exact Bool.false_ne_true, not_not_of_true hst⟩
    exact congrArg (fun x => Host.Outcome.next (putH s h x)) (if_neg hon)

end Sys2Proof.Machine

/-! Stoker threads (chapter 8, Stoker threads): the next stage of each mode, its wait and its post. -/

namespace Sys2Proof.Machine

/-- What a LOAD and a COPY do for their reads (R254, R258): with all of them there the group is made, else more are asked for; a tag
that may start asks for its first. -/
def fetchStage (group : Hearth → Step → List (Nat × BitVec 2048) → Hearth) (e : Env) (hh : Hearth) (u : Nat) (st : Step) (d : Stk) :
    Hearth :=
  let t := threadAt hh u
  match t.fetch with
  | some _ => (match fetched t with
    | some got => group hh st got
    | none => issueReads hh u)
  | none => if st.state = .running ∧ (startsNext hh st d t).isSome ∧ waitedFor d t then
      (let asked := startFetch e hh st u d
       match fetched (threadAt asked u), runStep asked with
       | some got, some y => group asked y got
       | _, _ => asked)
    else hh

section
variable {group : Hearth → Step → List (Nat × BitVec 2048) → Hearth} {e : Env} {hh : Hearth} {u : Nat} {st : Step} {d : Stk}

theorem fetchStage_of_fetched {x : List Nat × List (Nat × BitVec 2048)} {got : List (Nat × BitVec 2048)}
    (hfetch : (threadAt hh u).fetch = some x) (hgot : fetched (threadAt hh u) = some got) :
    fetchStage group e hh u st d = group hh st got := by
  unfold fetchStage
  dsimp only
  rw [hfetch, hgot]

theorem fetchStage_of_fetching {x : List Nat × List (Nat × BitVec 2048)} (hfetch : (threadAt hh u).fetch = some x)
    (hgot : fetched (threadAt hh u) = none) : fetchStage group e hh u st d = issueReads hh u := by
  unfold fetchStage
  dsimp only
  rw [hfetch, hgot]

variable (hfetch : (threadAt hh u).fetch = none)
  (hmay : st.state = .running ∧ (startsNext hh st d (threadAt hh u)).isSome = true ∧ waitedFor d (threadAt hh u) = true)
include hfetch hmay

theorem fetchStage_of_asked (hgot : fetched (threadAt (startFetch e hh st u d) u) = none) :
    fetchStage group e hh u st d = startFetch e hh st u d := by
  unfold fetchStage
  dsimp only
  rw [hfetch]
  refine (if_pos hmay).trans ?_
  rw [hgot]

theorem fetchStage_of_asked_fetched {got : List (Nat × BitVec 2048)} {y : Step}
    (hgot : fetched (threadAt (startFetch e hh st u d) u) = some got) (hrun : runStep (startFetch e hh st u d) = some y) :
    fetchStage group e hh u st d = group (startFetch e hh st u d) y got := by
  unfold fetchStage
  dsimp only
  rw [hfetch]
  refine (if_pos hmay).trans ?_
  rw [hgot, hrun]

end

/-- What a RELAY does once it has taken in what has come (R257): it sends, goes on reading, or starts the next tag that its batch
and the issue window let go. -/
def relayStage (e : Env) (hh : Hearth) (u : Nat) (st : Step) (d : Stk) : Hearth :=
  let t := threadAt hh u
  if t.toSend ≠ [] then sendThread hh u
  else match t.fetch with
    | some _ => (match fetched t with
      | some got => relayGroup e hh st u d got
      | none => issueReads hh u)
    | none =>
      if mayIssue hh st t.next ∧ batchReady d st t t.next ∧ t.held.isNone ∧ !t.unacked.any (fun x => x.1 == t.next) then
        let next := issueReads (updThread hh u (fun t => { t with fetch := some (unitsOf hh (readRanges d t t.next), []) })) u
        (match fetched (threadAt next u) with
          | some got => relayGroup e next st u d got
          | none => next)
      else hh

section
variable {e : Env} {hh : Hearth} {u : Nat} {st : Step} {d : Stk} (hsend : (threadAt hh u).toSend = [])
include hsend

theorem relayStage_of_fetched {x : List Nat × List (Nat × BitVec 2048)} {got : List (Nat × BitVec 2048)}
    (hfetch : (threadAt hh u).fetch = some x) (hgot : fetched (threadAt hh u) = some got) :
    relayStage e hh u st d = relayGroup e hh st u d got := by
  refine (if_neg (not_not_intro hsend)).trans ?_
  rw [hfetch, hgot]

theorem relayStage_of_fetching {x : List Nat × List (Nat × BitVec 2048)} (hfetch : (threadAt hh u).fetch = some x)
    (hgot : fetched (threadAt hh u) = none) : relayStage e hh u st d = issueReads hh u := by
  refine (if_neg (not_not_intro hsend)).trans ?_
  rw [hfetch, hgot]

theorem relayStage_of_ready (hfetch : (threadAt hh u).fetch = none) (hissue : mayIssue hh st (threadAt hh u).next = true)
    (hbatch : batchReady d st (threadAt hh u) (threadAt hh u).next = true) (hheld : (threadAt hh u).held = none)
    (hacked : (threadAt hh u).unacked.any (fun x => x.1 == (threadAt hh u).next) = false) :
    let next := issueReads (updThread hh u (fun t => { t with fetch := some (unitsOf hh (readRanges d t t.next), []) })) u
    (fetched (threadAt next u) = none → relayStage e hh u st d = next) ∧
    (∀ got, fetched (threadAt next u) = some got → relayStage e hh u st d = relayGroup e next st u d got) := by
  have hready := And.intro hissue (And.intro hbatch (And.intro (Option.isNone_iff_eq_none.mpr hheld) (not_of_false hacked)))
  intro next
  refine ⟨fun hgot => ?_, fun got hgot => ?_⟩
  · refine (if_neg (not_not_intro hsend)).trans ?_
    rw [hfetch]
    refine (if_pos hready).trans ?_
    dsimp only
    rw [hgot]
  · refine (if_neg (not_not_intro hsend)).trans ?_
    rw [hfetch]
    refine (if_pos hready).trans ?_
    dsimp only
    rw [hgot]

end

section
variable {s : State} {h u : Nat} {hh : Hearth} {st : Step} {d : Stk} (hof : hearthOf s h = hh)
  (hlive : liveThread hh u = some (st, d))
include hof hlive

/-- A STORE with tokens takes its tag's group (R255): one of the wrong size ends the step, a part of one waits, and a whole one is
stored where its destination exists. -/
theorem exec_stokerStoreTag_group (hmode : d.mode = 1) (hheld : (threadAt hh u).held = none) (hbuf : (threadAt hh u).buf ≠ [])
    (hready : (threadAt hh u).part ≠ [] ∨ waitedFor d (threadAt hh u) = true) :
    let t' := takePart (threadAt hh u)
    let hx := updThread hh u (fun _ => t')
    let want := groupSize d.mem.rows d.mem.elems
    let n := t'.part.length
    let last := t'.part.any (·.last)
    let bad := badRange hx ((List.range d.mem.rows).flatMap (rowRanges d.mem (slotIdx d.mem (posNear hx st t'.curTag))))
    exec (.stokerStoreTag h u) s = becomes s h (
      if want < n ∨ (want = n ∧ (!last) = true) ∨ (n < want ∧ last = true) then threadGroupFault (envOf s h) hx u t'.curTag want n
      else if (!last) = true then hx
      else bad.elim (storeGroup hx st u d t'.part) (addressFault (envOf s h) hx t'.curTag (refPath (threadRef u)))) := by
  intro t' hx want n last bad
  have hsome : ¬ ((threadAt hh u).buf = [] ∨ ((threadAt hh u).part = [] ∧ (!waitedFor d (threadAt hh u)) = true)) := by
    rintro (hb | ⟨hp, hw⟩)
    · exact hbuf hb
    · exact hready.elim (fun h' => h' hp) (fun h' => not_not_of_true h' hw)
  have hfree : ¬ ((threadAt hh u).held.isSome = true) := by rw [hheld]; exact Bool.false_ne_true
  refine hearthEvent_becomes hof ?_
  rw [hlive]
  refine (if_neg (not_not_intro hmode)).trans ((if_neg hfree).trans ((if_neg hsome).trans ?_))
  change (if _ then _ else if _ then _ else (match bad with | some _ => _ | none => _)) = _
  cases bad <;> rfl

theorem exec_stokerLoadTag_fetch (hmode : d.mode = 0) (hsend : (threadAt hh u).toSend = []) : exec (.stokerLoadTag h u) s =
    becomes s h (fetchStage (fun hh st got => loadGroup (envOf s h) hh st u d got) (envOf s h) hh u st d) := by
  refine hearthEvent_becomes hof ?_
  rw [hlive]
  exact (if_neg (not_not_intro hmode)).trans ((if_neg (not_not_intro hsend)).trans rfl)

theorem exec_stokerCopyTag_fetch (hmode : d.mode = 3) (hheld : (threadAt hh u).held = none) : exec (.stokerCopyTag h u) s =
    becomes s h (fetchStage (fun hh st got => copyGroup (envOf s h) hh st u d got) (envOf s h) hh u st d) := by
  refine hearthEvent_becomes hof ?_
  rw [hlive]
  exact (if_neg (not_not_intro hmode)).trans ((if_neg (Option.not_isSome_iff_eq_none.mpr hheld)).trans rfl)

/-- A RELAY first takes into its ring what has come (R257). -/
theorem exec_stokerRelayBatch_of_live (hmode : d.mode = 2) {y : Step} {k : Stk}
    (htaken : liveThread (relayIn (envOf s h) hh u d) u = some (y, k)) :
    exec (.stokerRelayBatch h u) s = becomes s h (relayStage (envOf s h) (relayIn (envOf s h) hh u d) u y k) := by
  refine hearthEvent_becomes hof ?_
  rw [hlive]
  refine (if_neg (not_not_intro hmode)).trans ?_
  dsimp only
  rw [htaken]
  rfl

end

/-- Settles O48: each mode of a thread by its next stage, and its operations on the objects that it names. -/
theorem threadsMoveTheirTags : Obligations.ThreadsMoveTheirTags := by
  intro s h u hh st d hof hlive t e may asked
  refine ⟨fun hmode => ?_,
    fun hmode => ⟨fun x hheld => ?_, fun hheld hbuf hready => ?_⟩,
    fun hmode => ?_,
    fun hmode => ?_,
    fun hmode => ⟨fun hsend => ?_, fun hsend hmay => ?_⟩, fun tag hstate hobj hwaited hwaiting hstarts => ?_, fun hdue => ?_⟩
  -- LOAD
  · refine ⟨fun hsend => ?_, fun x got hsend hfetch hgot => ?_, fun x hsend hfetch hgot => ?_,
      fun hsend hfetch hmay => ⟨fun hgot => ?_, fun got y hgot hrun => ?_⟩⟩
    · refine hearthEvent_becomes hof ?_
      rw [hlive]
      exact (if_neg (not_not_intro hmode)).trans (if_pos hsend)
    · exact (exec_stokerLoadTag_fetch hof hlive hmode hsend).trans (congrArg _ (fetchStage_of_fetched hfetch hgot))
    · exact (exec_stokerLoadTag_fetch hof hlive hmode hsend).trans (congrArg _ (fetchStage_of_fetching hfetch hgot))
    · exact (exec_stokerLoadTag_fetch hof hlive hmode hsend).trans (congrArg _ (fetchStage_of_asked hfetch hmay hgot))
    · exact (exec_stokerLoadTag_fetch hof hlive hmode hsend).trans
        (congrArg _ (fetchStage_of_asked_fetched hfetch hmay hgot hrun))
  -- STORE
  · refine hearthEvent_becomes hof ?_
    rw [hlive]
    exact (if_neg (not_not_intro hmode)).trans (if_pos (Option.isSome_of_eq_some hheld))
  · intro t' hx want n last bad
    have hgroup := exec_stokerStoreTag_group hof hlive hmode hheld hbuf hready
    refine ⟨fun hn hlast hbad => ?_, fun a hn hlast hbad => ?_, fun hwrong => ?_, fun hfew hlast => ?_⟩
    · refine hgroup.trans (congrArg _ ((if_neg (not_wrongSize_of_whole hn hlast)).trans ((if_neg (not_not_of_true hlast)).trans ?_)))
      exact congrArg (fun o => Option.elim o _ _) hbad
    · refine hgroup.trans (congrArg _ ((if_neg (not_wrongSize_of_whole hn hlast)).trans ((if_neg (not_not_of_true hlast)).trans ?_)))
      exact congrArg (fun o => Option.elim o _ _) hbad
    · exact hgroup.trans (congrArg _ (if_pos (by simpa only [Bool.not_eq_true'] using hwrong)))
    · exact hgroup.trans (congrArg _ ((if_neg (not_wrongSize_of_part hfew hlast)).trans (if_pos (not_of_false hlast))))
  -- RELAY
  · intro taken
    refine ⟨fun hgone => ?_, fun y k htaken => ?_⟩
    · refine hearthEvent_becomes hof ?_
      rw [hlive]
      refine (if_neg (not_not_intro hmode)).trans ?_
      dsimp only
      rw [hgone]
    · intro t next
      have hstage : exec (.stokerRelayBatch h u) s = becomes s h (relayStage e taken u y k) :=
        exec_stokerRelayBatch_of_live hof hlive hmode htaken
      refine ⟨fun hsend => hstage.trans (congrArg _ (if_pos hsend)),
        fun x got hsend hfetch hgot => hstage.trans (congrArg _ (relayStage_of_fetched hsend hfetch hgot)),
        fun x hsend hfetch hgot => hstage.trans (congrArg _ (relayStage_of_fetching hsend hfetch hgot)),
        fun hsend hfetch hissue hbatch hheld hacked => ?_⟩
      obtain ⟨hnone, hsome⟩ := relayStage_of_ready (e := e) hsend hfetch hissue hbatch hheld hacked
      exact ⟨fun hgot => hstage.trans (congrArg _ (hnone hgot)), fun got hgot => hstage.trans (congrArg _ (hsome got hgot))⟩
  -- COPY
  · refine ⟨fun x hheld => ?_, fun x got hheld hfetch hgot => ?_, fun x hheld hfetch hgot => ?_,
      fun hheld hfetch hmay => ⟨fun hgot => ?_, fun got y hgot hrun => ?_⟩⟩
    · refine hearthEvent_becomes hof ?_
      rw [hlive]
      exact (if_neg (not_not_intro hmode)).trans (if_pos (Option.isSome_of_eq_some hheld))
    · exact (exec_stokerCopyTag_fetch hof hlive hmode hheld).trans (congrArg _ (fetchStage_of_fetched hfetch hgot))
    · exact (exec_stokerCopyTag_fetch hof hlive hmode hheld).trans (congrArg _ (fetchStage_of_fetching hfetch hgot))
    · exact (exec_stokerCopyTag_fetch hof hlive hmode hheld).trans (congrArg _ (fetchStage_of_asked hfetch hmay hgot))
    · exact (exec_stokerCopyTag_fetch hof hlive hmode hheld).trans
        (congrArg _ (fetchStage_of_asked_fetched hfetch hmay hgot hrun))
  -- TRIGGER
  · refine hearthEvent_becomes hof ?_
    rw [hlive]
    exact (if_neg (not_not_intro hmode)).trans (if_pos hsend)
  · refine hearthEvent_becomes hof ?_
    rw [hlive]
    exact (if_neg (not_not_intro hmode)).trans ((if_neg (not_not_intro hsend)).trans (if_pos hmay))
  -- the objects
  · refine hearthEvent_becomes hof ?_
    rw [hlive]
    refine (if_neg (not_or.mpr ⟨not_not_intro hstate, not_or.mpr ⟨hobj, not_or.mpr ⟨not_true_of_false hwaited,
      not_true_of_false hwaiting⟩⟩⟩)).trans ?_
    rw [hstarts]
  · intro hx posts
    refine ⟨fun hbarrier => ?_, fun hcounter => ?_⟩
    · have hb : (hsyncMode hx st.ctx d.postObj == 1) = true := beq_iff_eq.mpr hbarrier
      refine hearthEvent_becomes hof ?_
      rw [hlive]
      refine (if_neg (not_not_of_true hdue)).trans ?_
      dsimp only
      rw [if_pos hb, if_pos hb]
    · have hb : ¬ (hsyncMode hx st.ctx d.postObj == 1) = true := fun h' => hcounter (beq_iff_eq.mp h')
      refine hearthEvent_becomes hof ?_
      rw [hlive]
      refine (if_neg (not_not_of_true hdue)).trans ?_
      dsimp only
      rw [if_neg hb, if_neg hb]

end Sys2Proof.Machine

/-! The memory system (chapter 8, LPDDR6 and Retiring a sub-channel): requests and what comes back, refresh, scrubs and reshapes. -/

namespace Sys2Proof.Machine

section
variable {s : State} {h : Nat} {hh : Hearth} (hof : hearthOf s h = hh)
include hof

/-- A memory port tile serves the oldest request for its sub-channels (R241). -/
theorem exec_memoryRequest {port i : Nat} {r : MemReq} (hfirst : hh.reqs.findIdx? (fun r => subOf hh r.unitAddr / 2 == port) = some i)
    (hr : hh.reqs[i]? = some r) :
    exec (.memoryRequest h port) s = becomes s h (serveReq (envOf s h) { hh with reqs := hh.reqs.eraseIdx i } r) := by
  refine hearthEvent_becomes hof ?_
  rw [hfirst]
  dsimp only
  rw [hr]

/-- An acknowledgement that arrives: for a step that has ended it is dropped (R205, R260). -/
theorem exec_writeAck {who : UnitRef} {i : Nat} {rest : List (UnitRef × Nat)} (hacks : hh.acks = (who, i) :: rest) :
    let hx := { hh with acks := rest }
    exec (.writeAck h) s = becomes s h (if (ownerOf hx who).isNone = true then hx else tagWritten (updThread hx who.id.toNat (fun t =>
      { t with outstanding := t.outstanding - 1, unacked := subUnacked t.unacked i })) who.id.toNat i) := by
  intro hx
  refine hearthEvent_becomes hof ?_
  rw [hacks]

/-- A retraining that is due notes the device's temperature; a low margin is an event besides (R244). -/
theorem exec_interfaceRetrain {sub : Nat} (hon : memOn hh = true) (hsub : sub < 48) (hin : hh.subsOut.contains sub = false)
    (hdue : trainingDue s h sub = true) (marginOk : Bool) :
    let hx := { hh with lastTrain := mput 0 hh.lastTrain sub (deviceTemp s h sub) }
    let key := bucketKey 4 sub
    exec (.interfaceRetrain h sub marginOk) s = becomes s h (if marginOk = true then hx else
      (eventRec (envOf s h) hx key { cls := 0x0002, path := BitVec.ofNat 64 (keyPath key), detail := addrDetail 0 0 }).1) := by
  have hready : ¬ ((!memOn hh || decide (48 ≤ sub) || hh.subsOut.contains sub || !trainingDue s h sub) = true) := by
    simp only [hon, hin, hdue, decide_eq_false (Nat.not_le.mpr hsub)]
    exact Bool.false_ne_true
  intro hx key
  change execInterfaceRetrain h sub marginOk s = _
  exact hearthEvent_becomes hof (if_neg hready)

/-- A patrol scrub moves its pass on, and goes over the words of its unit where any error is held (R245). -/
theorem exec_patrolScrub {word : Nat} (hon : memOn hh = true) (hscrub : scrubbed hh (8 * word) = true) :
    let n := scrubSize (8 * word)
    let hx := { hh with scrubPos := scrubPassed hh (8 * word) }
    exec (.patrolScrub h word) s = becomes s h (if hh.errs = [] then hx else
      (wordsOf (8 * word / n * n) n).foldl (scrubWord (envOf s h)) hx) := by
  have hready : ¬ ((!memOn hh || !scrubbed hh (8 * word)) = true) := by
    simp only [hon, hscrub]
    exact Bool.false_ne_true
  intro n hx
  change execPatrolScrub h word s = _
  exact hearthEvent_becomes hof (if_neg hready)

theorem exec_perBankRefresh {sub bank : Nat} (hon : memOn hh = true) (hsub : sub < 48) (hbank : bank < 16) :
    exec (.perBankRefresh h sub bank) s = .next (putH s h { hh with refreshed := hh.refreshed + 1 }) := by
  subst hof
  have hready : (memOn (hearthOf s h) && decide (sub < 48) && decide (bank < 16)) = true := by
    simp only [hon, decide_eq_true hsub, decide_eq_true hbank, Bool.and_self]
  exact congrArg (fun x => Host.Outcome.next (putH s h x)) (if_pos hready)

section
variable {r : Reshape} (hr : hh.reshape = some r)
include hr

theorem exec_reshapeUnitMove_leaving (hdir : r.leaving = true) (hnext : 4096 ≤ r.next) : exec (.reshapeUnitMove h) s =
    becomes s h { moveUnit (envOf s h) hh r.next with reshape := some { r with next := r.next - 1 } } := by
  refine hearthEvent_becomes hof ?_
  rw [hr]
  exact (if_pos hdir).trans (if_neg (Nat.not_lt.mpr hnext))

theorem exec_reshapeUnitMove_returning (hdir : r.leaving = false) (hnext : r.next < (subsIn hh).length * 2 ^ 24) :
    exec (.reshapeUnitMove h) s =
      becomes s h { moveUnit (envOf s h) hh r.next with reshape := some { r with next := r.next + 1 } } := by
  refine hearthEvent_becomes hof ?_
  rw [hr]
  exact (if_neg (not_true_of_false hdir)).trans (if_pos hnext)

theorem exec_reshapeComplete : exec (.reshapeComplete h) s = .next (settle (memoryGoesOn
    (onHearth { s with fresh := s.fresh + 1 } h (fun e hh => endReshape e s.fresh hh r)) h)) := by
  subst hof
  change execReshapeComplete h s = _
  unfold execReshapeComplete
  rw [hr]
  rfl

end

end

/-- Settles O49: each event of the memory system by the request, the device or the reshape that it is of. -/
theorem memoryServesAndReshapes : Obligations.MemoryServesAndReshapes := by
  intro s h hh hof e
  refine ⟨fun port i r hfirst hr => ⟨fun hread => ?_, fun a b l hwrite => ?_⟩, fun r rest hreplies => ?_,
    fun who i rest hacks => ⟨fun hnone => ?_, fun st hsome => ?_⟩,
    fun sub hon hsub => ⟨fun bank => exec_perBankRefresh hof hon hsub, rfl, fun hin hdue =>
      ⟨exec_interfaceRetrain hof hon hsub hin hdue true, exec_interfaceRetrain hof hon hsub hin hdue false⟩⟩,
    fun word hon hscrub => ⟨fun hclean => ?_, fun herrs => ?_⟩,
    fun r hr => ⟨exec_reshapeUnitMove_leaving hof hr, exec_reshapeUnitMove_returning hof hr, exec_reshapeComplete hof hr⟩,
    fun hrun => ?_⟩
  · refine (exec_memoryRequest hof hfirst hr).trans (congrArg _ ?_)
    unfold serveReq
    rw [hread]
  · refine (exec_memoryRequest hof hfirst hr).trans (congrArg _ ?_)
    unfold serveReq
    rw [hwrite]
    rfl
  · refine hearthEvent_becomes hof ?_
    rw [hreplies]
  · exact (exec_writeAck hof hacks).trans (congrArg _ (if_pos (Option.isNone_iff_eq_none.mpr hnone)))
  · exact (exec_writeAck hof hacks).trans (congrArg _ (if_neg (by rw [hsome]; exact Bool.false_ne_true)))
  · exact (exec_patrolScrub hof hon hscrub).trans (congrArg _ (if_pos hclean))
  · exact (exec_patrolScrub hof hon hscrub).trans (congrArg _ (if_neg herrs))
  · subst hof
    exact done_if_neg (by rw [hrun]; exact Bool.false_ne_true)

end Sys2Proof.Machine

/-! Steps (chapter 10): the slots of a hearth, its scheduling, the freeze and the return. -/

namespace Sys2Proof.Machine

section
variable {s : State} {h : Nat} {hh : Hearth} (hof : hearthOf s h = hh)
include hof

/-! ### Slots -/

/-- The step that a slot takes: HELD with what its account says, and whether it freezes the running step (R336, R339). -/
def heldWith (e : Env) (hh : Hearth) (x : Step) (a : Account) : Hearth :=
  moveStep e hh x.id (fun y => { y with
    state := .held, latency := a.latency, mayPreempt := a.mayPreempt
    preempting := preempts hh { x with latency := a.latency, mayPreempt := a.mayPreempt } })

section
variable {w : Nat} {x : Step} (hpairs : s.pairsFailed = false) (hx : nextPending hh w = some x)
include hpairs hx

theorem exec_slotFill_latency (hslot : hh.slotLat = none) (hw : nextWorkload s h true = some w) : exec (.slotFill h 1) s =
    becomes s h { heldWith (envOf s h) hh x (mget {} s.accounts w) with slotLat := some x.id } := by
  subst hof
  change execSlotFill h 1 s = _
  have hfree : ¬ ((!(hearthOf s h).slotLat.isNone) = true ∨ 1 < 1 ∨ s.pairsFailed = true) := by simp [hslot, hpairs]
  refine (if_neg hfree).trans ?_
  change (match nextWorkload s h true with | none => _ | some _ => _) = _
  rw [hw]
  dsimp only
  rw [hx]
  rfl

theorem exec_slotFill_bestEffort (hslot : hh.slotBest = none) (hw : nextWorkload s h false = some w) : exec (.slotFill h 0) s =
    becomes s h { heldWith (envOf s h) hh x (mget {} s.accounts w) with slotBest := some x.id } := by
  subst hof
  change execSlotFill h 0 s = _
  have hfree : ¬ ((!(hearthOf s h).slotBest.isNone) = true ∨ 1 < 0 ∨ s.pairsFailed = true) := by simp [hslot, hpairs]
  refine (if_neg hfree).trans ?_
  change (match nextWorkload s h false with | none => _ | some _ => _) = _
  rw [hw]
  dsimp only
  rw [hx]
  rfl

end

/-! ### Dispatch -/

section
variable (hrun : runStep hh = none)
include hrun

theorem exec_stepDispatch_latency {id : Nat} (hslot : hh.slotLat = some id) :
    exec (.stepDispatch h) s = becomes s h (startHeld (envOf s h) hh id) := by
  refine hearthEvent_becomes hof ((if_neg (by rw [hrun]; exact Bool.false_ne_true)).trans ?_)
  rw [hslot]

variable (hslot : hh.slotLat = none)
include hslot

theorem exec_stepDispatch_frozen {f : Step} (hfrozen : frozenStep hh = some f) (hmantel : f.byHost = false) :
    exec (.stepDispatch h) s = becomes s h (beginRestore (envOf s h) hh f.id) := by
  refine hearthEvent_becomes hof ((if_neg (by rw [hrun]; exact Bool.false_ne_true)).trans ?_)
  rw [hslot, hfrozen]
  exact if_pos (not_of_false hmantel)

theorem exec_stepDispatch_bestEffort {id : Nat} (hfrozen : ∀ f, frozenStep hh = some f → f.byHost = true)
    (hbest : hh.slotBest = some id) : exec (.stepDispatch h) s = becomes s h (startHeld (envOf s h) hh id) := by
  refine hearthEvent_becomes hof ((if_neg (by rw [hrun]; exact Bool.false_ne_true)).trans ?_)
  rw [hslot]
  cases hf : frozenStep hh with
  | none => rw [hbest]
  | some f =>
    refine (if_neg (not_not_of_true (hfrozen f hf))).trans ?_
    rw [hbest]

end

/-! ### The running step -/

section
variable {x : Step} (hrun : runStep hh = some x)
include hrun

theorem exec_stepStartComplete (hstate : x.state = .starting)
    (htiles : (secTiles hh x.ctx x.ran).any (fun v => (tileAt hh v).state == .resetting) = false) :
    exec (.stepStartComplete h) s = becomes s h
      (moveStep (envOf s h) (launchActions h hh x) x.id (fun y => { y with state := .running })) := by
  refine hearthEvent_becomes hof ?_
  rw [hrun]
  exact if_neg (not_or.mpr ⟨not_not_intro hstate, not_true_of_false htiles⟩)

theorem exec_classPreempt {id : Nat} {l : Step} (hslot : hh.slotLat = some id)
    (hl : hh.steps.find? (fun y => y.id == id) = some l) (hnoted : l.preempting = true) (hmay : preempts hh l = true) :
    exec (.classPreempt h) s = becomes s h (beginHalt (envOf s h) hh x false l.workload) := by
  refine hearthEvent_becomes hof ?_
  rw [hslot]
  dsimp only
  rw [hl, hrun]
  exact if_pos (Bool.and_eq_true_iff.mpr ⟨hnoted, hmay⟩)

/-- A halted step saves, or in a tree waits for its round (R342, R349). -/
theorem exec_haltComplete (hstate : x.state = .halting) (hhold : x.treeHold = false) (hhalted : halted hh x = true) :
    exec (.haltComplete h) s = becomes s h (
      if haltRound s h x.id = true then updStep hh x.id (fun y => { y with treeHold := true })
      else moveStep (envOf s h) hh x.id (fun y => { y with state := .saving })) := by
  refine hearthEvent_becomes hof ?_
  rw [hrun]
  exact if_neg (not_or.mpr ⟨not_not_intro hstate, not_or.mpr ⟨not_true_of_false hhold, not_not_of_true hhalted⟩⟩)

theorem exec_stepComplete (hsync : syncState x = true) (hover : stepFinished hh x = true) :
    exec (.stepComplete h) s = becomes s h (endStepH (envOf s h) hh x.id .done) := by
  refine hearthEvent_becomes hof ?_
  rw [hrun]
  exact if_pos ⟨hsync, hover⟩

theorem exec_saveComplete (hstate : x.state = .saving) :
    let b := { s with
      fresh := s.fresh + 1
      accounts := mupd {} s.accounts x.workload (fun a => if a.known then { a with freezes := sat 32 (a.freezes + 1) } else a) }
    exec (.saveComplete h) s = becomes b h (refreshSt (moveStep (envOf b h) (saveStep s.fresh hh x) x.id
      (fun y => { y with state := .frozen, freezes := y.freezes + 1 }))) := by
  intro b
  have hofb : hearthOf b h = hh := hof
  change execSaveComplete h s = _
  unfold execSaveComplete
  rw [hof, hrun]
  exact (if_neg (not_not_intro hstate)).trans (hearthEvent_becomes hofb rfl)

/-- A restored step whose section is whole runs with what was saved; else it ends (R347, R348). -/
theorem exec_restoreComplete {sn : Snapshot} (hstate : x.state = .restoring) (hsnap : hh.snap = some sn) :
    exec (.restoreComplete h) s = becomes s h (
      if lostTile hh x = true then endStepH (envOf s h) hh x.id .abortedFault
      else deliverSaved (envOf s h) (moveStep (envOf s h) (restoreSaved hh x sn) x.id (fun y => { y with state := .running }))) := by
  refine hearthEvent_becomes hof ?_
  rw [hrun, hsnap]
  exact if_neg (not_not_intro hstate)

end

end

/-! ### What saving leaves -/

/-- A change of every tile and thread of a section leaves what no tile and no thread holds. -/
theorem saveStep_keeps {α : Type} (g : Hearth → α) (htile : ∀ hh v f, g (updTile hh v f) = g hh)
    (hthread : ∀ hh u f, g (updThread hh u f) = g hh) (gen : Nat) (hh : Hearth) (x : Step) :
    g (saveStep gen hh x) = g { setSpill (writeSaveArea hh x gen) [] with snap := some (snapOf hh x), flags := [] } :=
  (foldl_keeps g _ (fun hh _ => hthread hh _ _) _ _).trans (foldl_keeps g _ (fun hh _ => htile hh _ _) _ _)

theorem saveStep_snap (gen : Nat) (hh : Hearth) (x : Step) : (saveStep gen hh x).snap = some (snapOf hh x) :=
  saveStep_keeps Hearth.snap (fun _ _ _ => rfl) (fun _ _ _ => rfl) gen hh x

theorem saveStep_spill (gen : Nat) (hh : Hearth) (x : Step) : (saveStep gen hh x).spill = [] :=
  saveStep_keeps Hearth.spill (fun _ _ _ => rfl) (fun _ _ _ => rfl) gen hh x

/-- Settles O50: each event of the schedule by the slots, the running step and the frozen step that it finds. -/
theorem stepsAreScheduledFrozenAndReturned : Obligations.StepsAreScheduledFrozenAndReturned := by
  refine ⟨fun s h hh hof => ?_, fun gen hh x => ⟨saveStep_snap gen hh x, saveStep_spill gen hh x⟩, fun hh x sn => ⟨rfl, rfl⟩⟩
  intro e
  refine ⟨fun cls w x _ hpairs hlat hbest hw hx => ⟨fun hcls => ?_, fun hcls => ?_⟩,
    fun hrun => ⟨fun id => exec_stepDispatch_latency hof hrun, fun f hslot => exec_stepDispatch_frozen hof hrun hslot,
      fun id hslot => exec_stepDispatch_bestEffort hof hrun hslot⟩,
    fun x hrun => ⟨exec_stepStartComplete hof hrun, fun id l => exec_classPreempt hof hrun, fun hstate hhold hhalted =>
      ⟨fun hround => ?_, fun hround => ?_⟩, exec_stepComplete hof hrun, exec_saveComplete hof hrun,
      fun sn hstate hsnap => ⟨fun hlost => ?_, fun hlost => ?_⟩⟩⟩
  · subst hcls
    exact exec_slotFill_latency hof hpairs hx (hlat rfl) hw
  · subst hcls
    exact exec_slotFill_bestEffort hof hpairs hx (hbest rfl) hw
  · exact (exec_haltComplete hof hrun hstate hhold hhalted).trans (congrArg _ (if_neg (not_true_of_false hround)))
  · exact (exec_haltComplete hof hrun hstate hhold hhalted).trans (congrArg _ (if_pos hround))
  · exact (exec_restoreComplete hof hrun hstate hsnap).trans (congrArg _ (if_pos hlost))
  · exact (exec_restoreComplete hof hrun hstate hsnap).trans (congrArg _ (if_neg (not_true_of_false hlost)))

end Sys2Proof.Machine

/-! Faults (chapter 13), work that completes late, and the sideband (chapter 15). -/

namespace Sys2Proof.Machine

/-! ### Plausibility checks -/

section
variable {s : State} {h : Nat} {hh : Hearth} (hof : hearthOf s h = hh)
include hof

section
variable {st : Step} (hrun : runStep hh = some st)
include hrun

theorem exec_checkFlag (site : CheckSite) : exec (.checkFlag h site) s = becomes s h (checkFlag (envOf s h) hh site) :=
  hearthEvent_becomes hof (if_pos (Option.isSome_of_eq_some hrun))

theorem exec_replayComplete (v : W32) : exec (.replayComplete h v) s = becomes s h (replayDone (envOf s h) hh v) :=
  hearthEvent_becomes hof (if_pos (Option.isSome_of_eq_some hrun))

theorem exec_refereeComplete (v : W32) : exec (.refereeComplete h v) s = becomes s h (refereeDone (envOf s h) hh v) :=
  hearthEvent_becomes hof (if_pos (Option.isSome_of_eq_some hrun))

end

end

section
variable {hh : Hearth} {a : Arb} (harb : hh.arb = some a)
include harb

/-- A replay that gives the same value asks the referee (R421). -/
theorem replayDone_of_same (e : Env) (href : a.referee = false) :
    replayDone e hh a.flag.orig = { hh with arb := some { a with referee := true } } := by
  unfold replayDone
  rw [harb]
  exact (if_neg (not_true_of_false href)).trans (if_pos rfl)

/-- The referee's value against the one it checks: another is a permanent fault of the producer, the same closes the arbitration,
with the end of the step at the bound on NaNs (Table 13-8). -/
theorem refereeDone_of_referee (e : Env) (v : W32) (href : a.referee = true) :
    let base := a.flag.replay.getD a.flag.orig
    refereeDone e hh v =
      if v ≠ base then permanentOutcome e hh a.flag (checkRec hh a.flag 0x0022 base v true)
      else if a.flag.bound = 3 then endRun e (logRec e hh (checkRec hh a.flag 0x0023 base v true)) .abortedFault
      else closeArb (logRec e hh (checkRec hh a.flag 0x0020 base v true)) a.flag true := by
  unfold refereeDone
  rw [harb]
  exact if_neg (not_not_of_true href)

end

/-! ### Events of a hearth -/

/-- What a vote of a hearth's configuration copies leaves (R433, R434): nothing to do, the outvoted copy repaired, or without a
majority the default. -/
def votedCfg (e : Env) (hh : Hearth) : Option (W64 × Option Nat) → Hearth
  | some (_, none) => hh
  | some (v, some i) => logOf e { hh with scrubA := v, scrubB := v, scrubC := v } 0x0040 (pathOf 9 0 0 0 0 0) 0
      (detailOf [(0, 1, i)])
  | none =>
    let c := scrubDefault hh
    (eventRec e { hh with scrubA := c, scrubB := c, scrubC := c, scrubPos := [] } (bucketKey 0 0)
      { cls := 0x0041, path := BitVec.ofNat 64 (pathOf 9 0 0 0 0 0)
        detail := detailOf [(0, 8, hh.scrubA.toNat), (8, 8, hh.scrubB.toNat), (16, 8, hh.scrubC.toNat)] }).1

section
variable {s : State} {h : Nat} {hh : Hearth} (hof : hearthOf s h = hh)
include hof

theorem exec_bucketLeak_hearth {unit : Nat} (hunit : unit / 1024 ≠ 10) : exec (.bucketLeak h unit) s = .next (putH s h { hh with
    buckets := mput [] hh.buckets unit ((mget [] hh.buckets unit).drop 1) }) := by
  subst hof
  exact nextOf_if_neg hunit

theorem exec_hearthFatal {ev : FatalEvent} (perm : Bool) (hev : ev ≠ .commandLink) :
    exec (.hearthFatal h ev perm) s = becomes s h (fatalEvent (envOf s h) ev perm hh) := by
  subst hof
  exact done_if_neg (fun hlink => hev hlink.1)

theorem exec_hearthFatal_commandLink (perm : Bool) (hpresent : present hh.st = true) :
    exec (.hearthFatal h .commandLink perm) s = .next (settle (mantelFailAt
      (putH s h (fatalEvent (envOf s h) .commandLink perm hh))
      (allHearths.filter (fun k => k != h && present (hearthOf s k).st)) (4 + h))) := by
  subst hof
  exact done_if_pos ⟨rfl, hpresent⟩

theorem exec_scrubCfgVote {agree : Bool} {vote : Option (W64 × Option Nat)} (hst : readyFrozen hh.st = true)
    (hvote : (if agree = true then scrubVote hh.scrubA hh.scrubB hh.scrubC else none) = vote) :
    exec (.scrubCfgVote h agree) s = becomes s h (votedCfg (envOf s h) hh vote) := by
  subst hvote
  exact hearthEvent_becomes hof ((if_neg (not_not_of_true hst)).trans rfl)

theorem exec_ceSummary (hpresent : present hh.st = true) : exec (.ceSummary h) s = becomes s h (
    let hx := (hh.cnt.filter (fun x => 0 < x.2.ceHour)).foldl (fun hh x =>
      logOf (envOf s h) hh 0x0001 (statusPath x.1) 0 (detailOf [(0, 8, x.2.ceHour)])) hh
    { hx with cnt := mmap {} (fun _ c => { c with ceHour := 0 }) hx.cnt }) := by
  change execCeSummary h s = _
  exact hearthEvent_becomes hof (if_neg (not_not_of_true hpresent))

theorem exec_controlMismatch_hearth {u : CtrlUnit} (r : Bool) (hu : u ≠ .cmdPair) :
    exec (.controlMismatch h u r) s = becomes s h (ctrlHearth (envOf s h) hh u r) := by
  have hevent : execControlMismatch h u r s = hearthEvent s h (fun e hh => ctrlHearth e hh u r) := by
    cases u with
    | cmdPair => exact absurd rfl hu
    | tile | tileRoute | threadRoute | portRoute | tileSync | hearthSync | mgmtPair => rfl
  change execControlMismatch h u r s = _
  exact hevent.trans (hearthEvent_becomes hof rfl)

end

/-- A mismatch of the command processors (R414): it is recorded in every hearth, and the pair fails when it comes in the retry or
for the third time in its bucket (R423). -/
theorem exec_controlMismatch_cmdPair (s : State) (h : Nat) (inRetry : Bool) (hpairs : s.pairsFailed = false)
    (hbooted : s.power.booted = true) :
    let b := s.pairBucket ++ [s.time.ns]
    let m := { s with pairBucket := b }
    let noted := onHearths m (allHearths.filter (fun h => present (hearthOf m h).st)) (fun e hh => logRec e hh
      { cls := if inRetry then 0x0011 else 0x0010, path := BitVec.ofNat 64 (pathOf 10 0 0 0 (if s.standbyOk then 0 else 1) 0)
        detail := detailOf [(0, 1, 5)], level := if inRetry then 0 else b.length, window := if inRetry then 0 else 10080 })
    exec (.controlMismatch h .cmdPair inRetry) s =
      done (if inRetry = true ∨ decide (3 ≤ b.length) = true then failPair noted else noted) := by
  intro b m noted
  change execControlMismatch h .cmdPair inRetry s = _
  exact congrArg done (if_neg (not_or.mpr ⟨not_true_of_false hpairs, not_not_of_true hbooted⟩))

/-- Settles O51: each fault event by the arbitration, the unit or the vote that it meets. -/
theorem faultEventsAct : Obligations.FaultEventsAct := by
  intro s h hh hof e
  refine ⟨fun st hrun => ⟨exec_checkFlag hof hrun, fun a harb href => ?_, exec_replayComplete hof hrun, fun a v harb href => ?_⟩,
    fun unit => ⟨fun hunit => nextOf_if_pos hunit, exec_bucketLeak_hearth hof⟩,
    fun ev perm => ⟨exec_hearthFatal hof perm, exec_hearthFatal_commandLink hof perm⟩,
    fun v hpresent henabled => show execChimneyFault h v s = _ from hearthEvent_becomes hof (if_pos ⟨hpresent, henabled⟩),
    fun hst => ⟨fun x hvote => exec_scrubCfgVote (vote := some (x, none)) hof hst ((if_pos rfl).trans hvote),
      fun x i hvote => exec_scrubCfgVote (vote := some (x, some i)) hof hst ((if_pos rfl).trans hvote),
      fun agree hvote => ?_⟩, exec_ceSummary hof, fun u r => exec_controlMismatch_hearth hof r, fun hpairs hbooted => ?_⟩
  · exact (exec_replayComplete hof hrun a.flag.orig).trans (congrArg _ (replayDone_of_same harb e href))
  · have hdone := (exec_refereeComplete hof hrun v).trans (congrArg _ (refereeDone_of_referee harb e v href))
    exact ⟨fun hv => hdone.trans (congrArg _ (if_pos hv)),
      fun hv hbound => hdone.trans (congrArg _ ((if_neg (not_not_intro hv)).trans (if_pos hbound))),
      fun hv hbound => hdone.trans (congrArg _ ((if_neg (not_not_intro hv)).trans (if_neg hbound)))⟩
  · have hnone : (if agree then scrubVote hh.scrubA hh.scrubB hh.scrubC else none) = none := by
      rcases hvote with hoff | hnone
      · rw [hoff]
        rfl
      · rw [hnone, ite_self]
    exact exec_scrubCfgVote (vote := none) hof hst hnone
  · intro b m noted
    refine ⟨(exec_controlMismatch_cmdPair s h true hpairs hbooted).trans (done_if_pos (Or.inl rfl)),
      fun hthird => (exec_controlMismatch_cmdPair s h false hpairs hbooted).trans (done_if_pos (Or.inr (decide_eq_true hthird))),
      fun hfew => (exec_controlMismatch_cmdPair s h false hpairs hbooted).trans (done_if_neg ?_)⟩
    exact not_or.mpr ⟨Bool.false_ne_true, fun h' => Nat.not_le.mpr hfew (of_decide_eq_true h')⟩

end Sys2Proof.Machine

/-! Work that completes late (chapters 9, 13 and 14) and the sideband (chapter 15). -/

namespace Sys2Proof.Machine

/-! ### Loads, switches of firmware and tests of units -/

section
variable {s : State} {h : Nat} {hh : Hearth} (hof : hearthOf s h = hh)
include hof

/-- A load that reaches its last steps ends its hearth's part (R190, R192). -/
theorem exec_loadComplete {l : Load} {ns n : Nat} {hx : Hearth} (hload : hh.load = some l)
    (hend : endLoad l ns hh = (hx, n)) : exec (.loadComplete h ns) s =
      .next (settle (loadPart (putH s h hx) l.cmd h (if n = 0 then .done else .doneWithReport) 0 n)) := by
  change execLoadComplete h ns s = _
  unfold execLoadComplete
  rw [hof, hload]
  dsimp only
  rw [hend]
  rfl

/-! A firmware switch takes the first hearth that its activation has left (R432, R449). -/

section
variable {a : Activation} {more : List Activation} {rest : List Nat} (hact : s.activation = a :: more)
  (hleft : a.left = h :: rest)
include hact hleft

omit hof in
theorem exec_fwSwitchComplete_module (ok : Bool) (htarget : a.target = 0) : exec (.fwSwitchComplete ok) s =
    .next (settle (nextTarget { s with trust := { s.trust with
      measModule := (activeImage s a.target).hash, fwVersion := (activeImage s a.target).version } } a rest a.switched)) := by
  change execFwSwitchComplete ok s = _
  unfold execFwSwitchComplete
  rw [hact]
  dsimp only
  rw [hleft]
  exact if_pos htarget

variable (htarget : a.target ≠ 0) (hflue : flueOn hh = true)
include htarget hflue

theorem exec_fwSwitchComplete_hearth :
    let t := putH s h { hh with fw := (activeImage s a.target).version }
    exec (.fwSwitchComplete true) s = .next (settle (nextTarget
      { t with trust := { t.trust with measHearth := mput 0 t.trust.measHearth h (activeImage s a.target).hash } } a rest
      (a.switched ||| BitVec.ofNat 16 (2 ^ h)))) := by
  subst hof
  change execFwSwitchComplete true s = _
  unfold execFwSwitchComplete
  rw [hact]
  dsimp only
  rw [hleft]
  exact (if_neg htarget).trans ((if_neg (not_not_of_true hflue)).trans (if_pos rfl))

theorem exec_fwSwitchComplete_fails : exec (.fwSwitchComplete false) s = becomes s h (fatal (envOf s h) hh 1 false) := by
  change execFwSwitchComplete false s = _
  unfold execFwSwitchComplete
  rw [hact]
  dsimp only
  rw [hleft]
  refine (if_neg htarget).trans ((if_neg ?_).trans ((if_neg Bool.false_ne_true).trans (hearthEvent_becomes hof rfl)))
  rw [hof]
  exact not_not_of_true hflue

end

/-- A unit other than a hearth that ends its test: where it passes and its place is whole it waits to return, else its command
ends (R239, R247, R431). -/
theorem exec_restoreTestComplete {u : UnitSel} {id : Nat} {rest : List (UnitSel × Nat)} (hrestore : hh.restoring = (u, id) :: rest)
    (hu : u ≠ .hearth) (pass : Bool) :
    let t := putH s h { hh with restoring := rest }
    exec (.restoreTestComplete h pass) s = done (
      if pass = true ∧ readyFaulted hh.st = true ∧ wholeOut hh u = true ∧ (!containerOut hh u) = true then
        returnUnits (updH t h (fun hh => { hh with returning := hh.returning ++ [(u, id)] })) h
      else finish t id .abortedFault (testCode u) 0 0) := by
  subst hof
  intro t
  change execRestoreTestComplete h pass s = _
  unfold execRestoreTestComplete
  dsimp only
  rw [hrestore]
  exact congrArg done (if_neg hu)

end

/-- Settles O52: each event of late work by the load, the activation or the test that ends. -/
theorem lateWorkCompletes : Obligations.LateWorkCompletes := by
  intro s h hh hof
  refine ⟨fun l ns hx n => exec_loadComplete hof, fun a more rest hact hleft =>
    ⟨fun ok => exec_fwSwitchComplete_module hact hleft ok, fun htarget hflue =>
      ⟨exec_fwSwitchComplete_hearth hof hact hleft htarget hflue, exec_fwSwitchComplete_fails hof hact hleft htarget hflue⟩⟩,
    fun u id rest hrestore hu => ?_⟩
  intro t good
  refine ⟨fun hgood => ?_, fun pass hbad => ?_⟩
  · obtain ⟨hst, hwhole, hin⟩ := hgood
    exact (exec_restoreTestComplete hof hrestore hu true).trans (done_if_pos ⟨rfl, hst, hwhole, not_of_false hin⟩)
  · refine (exec_restoreTestComplete hof hrestore hu pass).trans (done_if_neg ?_)
    rintro ⟨hpass, hst, hwhole, hin⟩
    exact hbad.elim (fun hfail => Bool.false_ne_true (hfail.symm.trans hpass))
      (fun hnot => hnot ⟨hst, hwhole, (Bool.not_eq_true' _).mp hin⟩)

/-! ### The sideband -/

section
variable {s : State} (hmctp : mctpOk s = true)
include hmctp

theorem exec_getPdr {n id k : Nat} (hid : sensorIds[n - 1]? = some id) (hk : sensorIndex id = some k) :
    exec (.getPdr n) s = .next { s with rsp := .pdr id (sensorUnit k) (sensorLimits k) } := by
  refine congrArg (fun r => Host.Outcome.next { s with rsp := r }) ((if_neg (not_not_of_true hmctp)).trans ?_)
  rw [hid]
  dsimp only
  rw [hk]
  rfl

theorem exec_getSensorReading {id k : Nat} (hk : sensorIndex id = some k) : exec (.getSensorReading id) s =
    .next { s with rsp := .sensor (mget {} s.sensors k).value (sensorState s k) } := by
  refine congrArg (fun r => Host.Outcome.next { s with rsp := r }) ((if_neg (not_not_of_true hmctp)).trans ?_)
  rw [hk]

end

/-- Settles O53: each message by its answer while the endpoint works; without it no message has one. -/
theorem sidebandAnswersOnly : Obligations.SidebandAnswersOnly := by
  intro s
  refine ⟨fun off hfru hoff => ?_, fun hmctp => ⟨fun eid => nextOf_if_pos hmctp, ?_, fun n id k => exec_getPdr hmctp,
    fun id k => exec_getSensorReading hmctp⟩, fun m => ⟨rfl, rfl⟩, fun i t => rfl, fun hoff m => if_neg (not_true_of_false hoff)⟩
  · exact congrArg (fun r => Host.Outcome.next { s with rsp := r }) (if_pos (And.intro hfru hoff))
  · exact congrArg (fun r => Host.Outcome.next { s with rsp := r }) (if_pos hmctp)

end Sys2Proof.Machine
